-- ==== Sys2Proof/Word.lean ====
section
/-!
DEFINITION. The word types of the machine and their plainest names.
-/

namespace Sys2Proof

/-- One byte of memory (00 R10). -/
abbrev Byte := BitVec 8

/-- A 32-bit vector lane, slot word or Belvedere scalar (07 R149, 23 R447). -/
abbrev Lane := BitVec 32

/-- A 64-bit S register, address or control register (07 R149). -/
abbrev Word := BitVec 64

/-- One bit per lane of a team, lane L in bit L; a team has at most 1,024 lanes (00, 06 R138). -/
abbrev LaneMask := BitVec 1024

/-- A sparse table: pairs of key and value, keys strictly rising; what an unlisted key reads as is said where the
table is read (Machine/Table.lean). -/
abbrev Table (α : Type) := List (Nat × α)

end Sys2Proof
end

