-- ==== Sys2Proof/Config.lean ====
section
/-!
DEFINITION. What is fixed for the machine: the numbers of its parts (00 R1, R2), and the values the spec leaves free,
each an opaque constant that nothing can evaluate.
-/

namespace Sys2Proof.Config

/-- Clusters of the device (00 R1). -/
def numClusters : Nat := 96

/-- Cores of the device, four to a cluster (00 R1, R2). -/
def numCores : Nat := 384

/-- Context slots of a core (03 R79). -/
def coreSlots : Nat := 32

/-- Banks of a core store that gang stores may take (03 R74). -/
def gangBanks : Nat := 256

/-- Frames of a core's instruction store (04 R90). -/
def storeFrames : Nat := 64

/-- Ticks a team waits BLOCKED before it parks (03 R79). -/
def parkTicks : Nat := 4096

/-- The L2 slice of a line within its die: the hash that software cannot observe (10 R226). -/
opaque sliceOf : Nat → Nat

/-- A byte the spec leaves open, drawn from a counter of the state. -/
opaque freeByte : Nat → BitVec 8

/-- Whether an engine's read of a gang-store byte, by the cycle and the address, finds what lay there before a copy whose
writes nothing has acquired (15 R322). -/
opaque staleByte : Nat → Nat → Bool

/-- A byte of a line of HBM read under another key ID than it was written under: by the key ID of the read, that of the
line, the line's address, its bytes as written, and the byte's place in it (02 R65). -/
opaque otherKey : Nat → Nat → Nat → List (BitVec 8) → Nat → BitVec 8

/-- How another device answers an access of Fordom's own, by the cycle, the device, the address and the length: 0 with the
data, 1 that the line is poisoned, 2 that its key check failed, else with an error (18 R372, R373). -/
opaque ownerCode : Nat → Nat → Nat → Nat → Nat

/-- A byte of another device's memory, by the cycle, the device and the address. -/
opaque ownerByte : Nat → Nat → Nat → BitVec 8

/-- The Ocenind root hash fused in the I/O die (02 R67). -/
opaque rootHash : BitVec 256

/-- A signature of a byte string verifies under a root hash, by XMSS with SHAKE256, n = 32 and tree height 20 (02 R67). -/
opaque xmssVerifies : BitVec 256 → List (BitVec 8) → List (BitVec 8) → Bool

/-- The measurement of a firmware image (02 R68). -/
opaque measure : List (BitVec 8) → BitVec 256

/-- The signature at an index of the device identity key over a nonce, the measurements and a configuration of partitions
(02 R68). -/
opaque signature : Nat → BitVec 256 → List (BitVec 256) → List (Nat × Bool × BitVec 64 × BitVec 96 × BitVec 4096 × BitVec 8) → List (BitVec 8)

end Sys2Proof.Config
end

