-- ==== Sys2Proof/Syntax.lean ====
section
/-!
DEFINITION. The syntax of every step of the machine: one constructor of `Instr` for each row of the opcode table.
Slot operations carry their decoded operand fields (04 R97-R101), Belvedere operations theirs (23 R446), and the
machine's own steps carry what the world outside the model supplies to them.
-/

namespace Sys2Proof

/-- The B operand of form A3: a register field with its extension, an I6 immediate (K = 1), or a literal entry of the
bundle's literal word chosen by I6[1:0] (04 R99). -/
inductive SrcB where
  | reg (x : BitVec 8)
  | imm (i : BitVec 6)
  | lit (sel : BitVec 2) (word : BitVec 128)
deriving DecidableEq, Repr, Inhabited

/-- Form A3 of Table 4-2, fields D and A with their header extensions (04 R95, R97). -/
structure A3 where
  g : BitVec 3
  d : BitVec 8
  a : BitVec 8
  b : SrcB
deriving DecidableEq, Repr, Inhabited

/-- Form A3 atomic of Table 4-2 (04 R100). -/
structure AtomOp where
  g : BitVec 3
  d : BitVec 8
  a : BitVec 8
  scope : BitVec 3
  nr : Bool
deriving DecidableEq, Repr, Inhabited

/-- Form J19 of Table 4-2: guard and signed offset. -/
structure J19 where
  g : BitVec 3
  off : BitVec 19
deriving DecidableEq, Repr, Inhabited

/-- Form LP of Table 4-2: N and body length. -/
structure LpOp where
  n : BitVec 6
  len : BitVec 16
deriving DecidableEq, Repr, Inhabited

/-- Form C16 of Table 4-2. -/
structure C16 where
  d : BitVec 6
  imm : BitVec 16
deriving DecidableEq, Repr, Inhabited

/-- Form BR of Table 23-1. -/
structure BrOp where
  d : BitVec 6
  a : BitVec 6
  b : BitVec 6
  g : BitVec 3
  m : BitVec 3
deriving DecidableEq, Repr, Inhabited

/-- Forms BI and BJ of Table 23-1: D (or flag and mode) and an 18-bit signed field. -/
structure BiOp where
  d : BitVec 6
  i : BitVec 18
deriving DecidableEq, Repr, Inhabited

/-- Form BL of Table 23-1. -/
structure BlOp where
  d : BitVec 6
  len : BitVec 16
deriving DecidableEq, Repr, Inhabited

/-- A host register access (02 R44): its size, whether it is naturally aligned, and whether a 4-byte access names bits
63:32 of its register. -/
structure RegAccess where
  size : Nat
  aligned : Bool
  high : Bool
deriving DecidableEq, Repr, Inhabited

/-- Where an uncorrectable error strikes (10 R228): a line of physical memory, held in HBM or the L2; of the store of a gang;
of a recipe tile; of a tile of a gang's tile file; of a line core's memory; of the registers that a core's store holds. -/
inductive ErrorAt where
  | phys (pa : Nat)
  | gang (g a : Nat)
  | recipe (p n off : Nat)
  | tile (g n off : Nat)
  | lineMem (core a : Nat)
  | regs (core off : Nat)
deriving DecidableEq, Repr, Inhabited

/-- The host-visible registers (02 R44); p is a partition, q a queue, h a head, n a slot, k a register or record number,
w an 8-byte word of a record. `readOnly` is any reserved place. -/
inductive HostReg where
  | lqCfg (q : Nat) (viaBar0 : Bool)
  | lqBase (q : Nat)
  | argArea (p : Nat)
  | ctxPool (p : Nat)
  | parkCfg (p : Nat)
  | lockCfg (p : Nat)
  | partCtl (p : Nat)
  | pageRoot (p : Nat)
  | clusterMask (p k : Nat)
  | keySet (p k : Nat)
  | hdmRange
  | hbmCfg
  | tlbiAddr (p : Nat)
  | tlbiVal (p : Nat)
  | tlbiCmd (p : Nat)
  | rcpWin (p : Nat)
  | rcpBase (p : Nat)
  | rcpLen (p : Nat)
  | rcpImg (p : Nat)
  | rcpCfg (p : Nat)
  | collGrp (p : Nat)
  | wqBind (p n : Nat)
  | dbgCtl (p : Nat)
  | dbgBpa (p k : Nat)
  | dbgBph (p k : Nat)
  | trcCtl
  | trcHdl
  | thrCfg
  | headCtl (h : Nat)
  | readOnly
  | lqHead (q : Nat)
  | lqTail (q : Nat)
  | lqStat (q : Nat)
  | fxCfg
  | ilimCfg
  | domCfg
  | collRst (p : Nat)
  | dbgHold
  | dbgRes (p : Nat)
  | dbgEvCnt (p : Nat)
  | dbgEv (p k w : Nat)
  | tlSlot (p n : Nat)
  | partStat (p : Nat)
  | qelCnt (p : Nat)
  | qelRec (p k w : Nat)
  | trcStat
  | headStat (h : Nat)
  | headLtc (h : Nat)
  | pose (p h w : Nat)
  | mgmtStat
  | temp (k : Nat)
  | modPwr
  | energy
  | devErrCnt
  | devErr (k w : Nat)
deriving DecidableEq, Repr, Inhabited

/-- The combining tree over the ranks of a collective, chosen by the switches (18 R379). -/
inductive RedTree where
  | leaf (rank : Nat)
  | node (l r : RedTree)
deriving DecidableEq, Repr, Inhabited

/-- What a peer device asks of this device's home slice (18 R372): a load of `len` bytes, a store, or an atomic whose
map-0 opcode is `op` with its operand words. `ndev` is the requester's NDEV. -/
inductive RemoteKind where
  | load
  | store (data : List Byte)
  | atomic (op : Nat) (operand expected : BitVec 64)
deriving DecidableEq, Repr, Inhabited

/-- A peer request: offset within this device's window, key ID and requester's NDEV (18 R371, R372). -/
structure RemoteReq where
  kind : RemoteKind
  offset : Nat
  len : Nat
  keyId : BitVec 12
  ndev : Nat
deriving DecidableEq, Repr, Inhabited

/-- The answer of an owning device (18 R373). -/
inductive RemoteResp where
  | ok (data : List Byte)
  | poison
  | keyFailed
  | error
deriving DecidableEq, Repr, Inhabited

/-- A firmware image with its signature, as the boot ROM reads them (02 R67). -/
structure Firmware where
  code : List Byte
  signature : List Byte
deriving DecidableEq, Repr, Inhabited

/-- What the L2 selects for eviction (13 R296): an ordinary line or a line of a recipe tile. -/
inductive EvictTarget where
  | line (pa : Nat)
  | tile (p n : Nat)
deriving DecidableEq, Repr, Inhabited

/-- Every row of the opcode table: the machine's own steps, the slot operations of map 0 (05 R115-R117) and the
Belvedere operations (23 R449). -/
inductive Instr where
  | deviceReset (sideband : Bool)
  | bringupPhaseComplete (images : List Firmware)
  | attestationRequest (nonce : BitVec 256)
  | keyBlobInstall (keyId : BitVec 12) (unwraps : Bool)
  | cxlLinkTraining (width rate : Nat)
  | hostCacheWriteSnoop (hpa : Nat) (data : List Byte)
  | hostCxlMemAccess (write : Bool) (pa len : Nat) (data : List Byte)
  | registerWrite (r : HostReg) (acc : RegAccess) (v : BitVec 64)
  | lqcfgEnable (q : Nat) (viaBar0 : Bool) (v : BitVec 64)
  | lqcfgDisable (q : Nat)
  | lqtailWrite (q : Nat) (v : BitVec 32)
  | lqEntryRead (q : Nat)
  | launchDescriptorCheck (q : Nat)
  | argCopy (q : Nat)
  | gangPlacement
  | victimTileSave (gang : Nat)
  | teamSwitchIn (core : Nat)
  | blockParkTimeout (team : Nat)
  | teamWake (team : Nat)
  | bundleFetch (core : Nat)
  | coreClockGate (core : Nat)
  | coreWake (core : Nat)
  | overlayFill (core fill : Nat)
  | faultReport (team : Nat)
  | gangFenceCheckpoint (team : Nat)
  | debugStop (team : Nat)
  | dbgresResume (p : Nat) (v : BitVec 64)
  | dbgresStep (p : Nat) (v : BitVec 64)
  | teamSlotFree (team : Nat)
  | wqbindEnable (p n : Nat) (v : BitVec 64)
  | wqbindDisable (p n : Nat) (v : BitVec 64)
  | wqCloseWriteback (p n : Nat)
  | wqAgeExpiry (p n : Nat)
  | tlslotHostWrite (p n : Nat) (v : BitVec 64)
  | partctlShadowWrite (p : Nat) (v : BitVec 64)
  | partctlHalt (p : Nat)
  | partitionHalted (p : Nat)
  | partctlSave (p : Nat)
  | partitionSaved (p : Nat)
  | partctlRestore (p : Nat)
  | partitionRestored (p : Nat)
  | partctlResume (p : Nat)
  | partctlStart (p : Nat)
  | partctlStop (p : Nat)
  | tlbiGo (p : Nat) (v : BitVec 64)
  | tlbiComplete (p : Nat)
  | fxcfgWrite (v : BitVec 64)
  | ilimcfgWrite (v : BitVec 64)
  | domcfgWrite (v : BitVec 64)
  | collrstWrite (p : Nat) (v : BitVec 64)
  | dbgholdHold
  | dbgholdRelease
  | holdNoticeReceived (device : Nat)
  | releaseNoticeReceived (device : Nat)
  | collectiveEnd (gang num : Nat) (peers : List (List Byte)) (tree : RedTree) (agree : Bool)
  | collectiveExpiry (gang num : Nat)
  | remoteAccessIncoming (device : Nat) (req : RemoteReq)
  | remoteResponse (team : Nat) (resp : RemoteResp)
  | remoteTimeout (team : Nat)
  | remoteStoreAck (team : Nat) (resp : RemoteResp)
  | copyStart (team : Nat)
  | copyComplete (team : Nat)
  | trellisArrayGrant (cluster : Nat)
  | trellisPortGrant (cluster : Nat)
  | trellisCommandComplete (gang num : Nat)
  | codebookFill (cluster : Nat)
  | walkerEntry (gang walker : Nat)
  | rayTraversal (cluster slot : Nat)
  | splatJobStart (die : Nat)
  | splatJobEnd (die : Nat)
  | l2LineEvict (t : EvictTarget)
  | recipeStorePerform (team : Nat)
  | memoryUncorrectableError (at_ : ErrorAt) (unit : BitVec 16)
  | thermalSample (temps : List (BitVec 16)) (mw : BitVec 32) (mj : BitVec 64)
  | headctlEnable (h : Nat) (v : BitVec 64) (linkTrains : Bool)
  | headctlDisable (h : Nat) (v : BitVec 64)
  | headStopped (h : Nat)
  | hpdChange (h : Nat) (connected : Bool)
  | lineTick (h : Nat)
  | bandStart (core : Nat)
  | matrixEngineServe
  | poseMailboxWrite (p h off size : Nat) (v : BitVec 64)
  | poseMailboxCommit (p h : Nat) (v : BitVec 64)
  | trcctlEnable (v : BitVec 64)
  | trcctlDisable (v : BitVec 64)
  | traceLinkReady
  | traceLinkLost
  | nop (x : BitVec 22)
  | sadd (o : A3)
  | ssub (o : A3)
  | smul (o : A3)
  | smulh (o : A3)
  | smulhn (o : A3)
  | sdiv (o : A3)
  | sdivn (o : A3)
  | srem (o : A3)
  | sremn (o : A3)
  | sand (o : A3)
  | sor (o : A3)
  | sxor (o : A3)
  | sandn (o : A3)
  | sshl (o : A3)
  | sshr (o : A3)
  | ssra (o : A3)
  | smin (o : A3)
  | smax (o : A3)
  | sminn (o : A3)
  | smaxn (o : A3)
  | sabs (o : A3)
  | spopc (o : A3)
  | sclz (o : A3)
  | sctz (o : A3)
  | sbfx (o : A3)
  | sbfi (o : A3)
  | ssel (o : A3)
  | scmpeq (o : A3)
  | scmpne (o : A3)
  | scmplt (o : A3)
  | scmple (o : A3)
  | scmpltn (o : A3)
  | scmplen (o : A3)
  | cand (o : A3)
  | cor (o : A3)
  | cxor (o : A3)
  | cnot (o : A3)
  | smov (o : A3)
  | smovi (o : C16)
  | smovh (o : C16)
  | br (o : J19)
  | brnot (o : J19)
  | call (o : J19)
  | ret (o : A3)
  | jidx (o : A3)
  | vjidx (o : A3)
  | djoin (o : A3)
  | loopOp (o : LpOp)
  | loopw (o : LpOp)
  | lbrk (o : A3)
  | mpush (o : A3)
  | minv (o : A3)
  | mpop (o : A3)
  | mbez (o : J19)
  | mread (o : A3)
  | tfork (o : A3)
  | tjoin (o : A3)
  | endOp (o : A3)
  | wnext (o : A3)
  | yield (o : A3)
  | trap (o : A3)
  | tret (o : A3)
  | bkpt (o : A3)
  | ckpt (o : A3)
  | setf (o : A3)
  | movc (o : A3)
  | setc (o : A3)
  | movtc (o : A3)
  | movbd (o : A3)
  | vaddI32 (o : A3)
  | vaddI64 (o : A3)
  | vsubI32 (o : A3)
  | vsubI64 (o : A3)
  | vaddsS32 (o : A3)
  | vaddsN32 (o : A3)
  | vsubsS32 (o : A3)
  | vsubsN32 (o : A3)
  | vmulI32 (o : A3)
  | vmulI64 (o : A3)
  | vmulhS32 (o : A3)
  | vmulhN32 (o : A3)
  | vmadI32 (o : A3)
  | vminS32 (o : A3)
  | vminN32 (o : A3)
  | vminS64 (o : A3)
  | vminN64 (o : A3)
  | vmaxS32 (o : A3)
  | vmaxN32 (o : A3)
  | vmaxS64 (o : A3)
  | vmaxN64 (o : A3)
  | vabsS32 (o : A3)
  | vabsS64 (o : A3)
  | vandB32 (o : A3)
  | vorB32 (o : A3)
  | vxorB32 (o : A3)
  | vandnB32 (o : A3)
  | vshlB32 (o : A3)
  | vshlB64 (o : A3)
  | vshrB32 (o : A3)
  | vshrB64 (o : A3)
  | vsraS32 (o : A3)
  | vsraS64 (o : A3)
  | vpopcB32 (o : A3)
  | vclzB32 (o : A3)
  | vbfxS32 (o : A3)
  | vbfxN32 (o : A3)
  | vbfiB32 (o : A3)
  | vcmpeqI32 (o : A3)
  | vcmpeqI64 (o : A3)
  | vcmpneI32 (o : A3)
  | vcmpneI64 (o : A3)
  | vcmpltS32 (o : A3)
  | vcmpltN32 (o : A3)
  | vcmpltS64 (o : A3)
  | vcmpltN64 (o : A3)
  | vcmpleS32 (o : A3)
  | vcmpleN32 (o : A3)
  | vcmpleS64 (o : A3)
  | vcmpleN64 (o : A3)
  | vselB32 (o : A3)
  | vselB64 (o : A3)
  | faddF32 (o : A3)
  | faddF64 (o : A3)
  | faddH2 (o : A3)
  | faddBh2 (o : A3)
  | fsubF32 (o : A3)
  | fsubF64 (o : A3)
  | fsubH2 (o : A3)
  | fsubBh2 (o : A3)
  | fmulF32 (o : A3)
  | fmulF64 (o : A3)
  | fmulH2 (o : A3)
  | fmulBh2 (o : A3)
  | ffmaF32 (o : A3)
  | ffmaF64 (o : A3)
  | ffmaH2 (o : A3)
  | ffmaBh2 (o : A3)
  | fminF32 (o : A3)
  | fminF64 (o : A3)
  | fminH2 (o : A3)
  | fminBh2 (o : A3)
  | fmaxF32 (o : A3)
  | fmaxF64 (o : A3)
  | fmaxH2 (o : A3)
  | fmaxBh2 (o : A3)
  | fcmpeqF32 (o : A3)
  | fcmpeqF64 (o : A3)
  | fcmpltF32 (o : A3)
  | fcmpltF64 (o : A3)
  | fcmpleF32 (o : A3)
  | fcmpleF64 (o : A3)
  | fcmpunF32 (o : A3)
  | fcmpunF64 (o : A3)
  | frndF32 (o : A3)
  | frndF64 (o : A3)
  | fclassF32 (o : A3)
  | fclassF64 (o : A3)
  | fdot4B8x4 (o : A3)
  | fdot2H2 (o : A3)
  | fdot2Bh2 (o : A3)
  | frcpF32 (o : A3)
  | frcpF64 (o : A3)
  | frsqF32 (o : A3)
  | frsqF64 (o : A3)
  | fsqrtF32 (o : A3)
  | fsqrtF64 (o : A3)
  | fdivF32 (o : A3)
  | fdivF64 (o : A3)
  | fexp2F32 (o : A3)
  | flog2F32 (o : A3)
  | fsinpF32 (o : A3)
  | fcospF32 (o : A3)
  | cvtS32 (o : A3)
  | cvtN32 (o : A3)
  | cvtS64 (o : A3)
  | cvtN64 (o : A3)
  | cvtF64 (o : A3)
  | cvtF32 (o : A3)
  | cvtF16 (o : A3)
  | cvtBf16 (o : A3)
  | cvtB8 (o : A3)
  | cvtsrB8 (o : A3)
  | cvtsrBf16 (o : A3)
  | cvtsrF16 (o : A3)
  | vpackB8x4 (o : A3)
  | vpackH2 (o : A3)
  | vpackBh2 (o : A3)
  | vunpkB8x4 (o : A3)
  | vunpkH2 (o : A3)
  | vunpkBh2 (o : A3)
  | vmovB32 (o : A3)
  | vmovB64 (o : A3)
  | vmovsB32 (o : A3)
  | vmovsB64 (o : A3)
  | vlane (o : A3)
  | vldix (o : A3)
  | vstix (o : A3)
  | pand (o : A3)
  | por (o : A3)
  | pxor (o : A3)
  | pandn (o : A3)
  | pmovv (o : A3)
  | vmovp (o : A3)
  | xperm (o : A3)
  | xbcast (o : A3)
  | xswz (o : A3)
  | xany (o : A3)
  | xall (o : A3)
  | xballot (o : A3)
  | xredI32 (o : A3)
  | xredF32 (o : A3)
  | xredminS32 (o : A3)
  | xredminN32 (o : A3)
  | xredminF32 (o : A3)
  | xredmaxS32 (o : A3)
  | xredmaxN32 (o : A3)
  | xredmaxF32 (o : A3)
  | xscanI32 (o : A3)
  | xscanF32 (o : A3)
  | treord (o : A3)
  | rsvupd (o : A3)
  | rsvmrg (o : A3)
  | ldB8 (o : A3)
  | ldB16 (o : A3)
  | ldB32 (o : A3)
  | ldB64 (o : A3)
  | ldB128 (o : A3)
  | stB8 (o : A3)
  | stB16 (o : A3)
  | stB32 (o : A3)
  | stB64 (o : A3)
  | stB128 (o : A3)
  | ldvB32 (o : A3)
  | ldvB64 (o : A3)
  | ldvB128 (o : A3)
  | stvB32 (o : A3)
  | stvB64 (o : A3)
  | stvB128 (o : A3)
  | ldgsB32 (o : A3)
  | ldgsB64 (o : A3)
  | ldgsB128 (o : A3)
  | stgsB32 (o : A3)
  | stgsB64 (o : A3)
  | stgsB128 (o : A3)
  | sldB32 (o : A3)
  | sldB64 (o : A3)
  | sstB32 (o : A3)
  | sstB64 (o : A3)
  | ldaB32 (o : AtomOp)
  | ldaB64 (o : AtomOp)
  | stlB32 (o : AtomOp)
  | stlB64 (o : AtomOp)
  | ldroB32 (o : A3)
  | ldroB64 (o : A3)
  | ldroB128 (o : A3)
  | pref (o : A3)
  | qinit (o : A3)
  | qcommit (o : A3)
  | qpop (o : A3)
  | wbind (o : A3)
  | wstart (o : A3)
  | wstop (o : A3)
  | cpy (o : A3)
  | cpyy (o : A3)
  | lock (o : A3)
  | unlock (o : A3)
  | cflush (o : A3)
  | cinvro (o : A3)
  | tld (o : A3)
  | tst (o : A3)
  | tzero (o : A3)
  | tmma (o : A3)
  | tmmaq (o : A3)
  | tmmav (o : A3)
  | tchain (o : A3)
  | tcvt (o : A3)
  | ttov (o : A3)
  | vtot (o : A3)
  | cbload (o : A3)
  | seal (o : A3)
  | rpin (o : A3)
  | runpin (o : A3)
  | rdrop (o : A3)
  | rstat (o : A3)
  | rdone (o : A3)
  | atomaddI32 (o : AtomOp)
  | atomaddI64 (o : AtomOp)
  | atomaddF32 (o : AtomOp)
  | atomminS32 (o : AtomOp)
  | atomminN32 (o : AtomOp)
  | atommaxS32 (o : AtomOp)
  | atommaxN32 (o : AtomOp)
  | atomandB32 (o : AtomOp)
  | atomorB32 (o : AtomOp)
  | atomxorB32 (o : AtomOp)
  | atomxchgB32 (o : AtomOp)
  | atomxchgB64 (o : AtomOp)
  | atomcasB32 (o : AtomOp)
  | atomcasB64 (o : AtomOp)
  | fence (o : AtomOp)
  | fencero (o : AtomOp)
  | tlsig (o : AtomOp)
  | tlwait (o : AtomOp)
  | tlread (o : A3)
  | bararv (o : A3)
  | barwt (o : A3)
  | bufacq (o : A3)
  | bufrel (o : A3)
  | wqpush (o : A3)
  | launch (o : A3)
  | rayq (o : A3)
  | rayqd (o : A3)
  | raycand (o : A3)
  | rayacc (o : A3)
  | rayfin (o : A3)
  | splatq (o : A3)
  | splatrun (o : A3)
  | sample (o : A3)
  | sampleg (o : A3)
  | samplel (o : A3)
  | coll (o : A3)
  | belvNop (x : BitVec 24)
  | gadd (o : BrOp)
  | gsub (o : BrOp)
  | gmul (o : BrOp)
  | gand (o : BrOp)
  | gor (o : BrOp)
  | gxor (o : BrOp)
  | gshl (o : BrOp)
  | gshr (o : BrOp)
  | gcmplt (o : BrOp)
  | gcmpeq (o : BrOp)
  | gmovi (o : BiOp)
  | belvBr (o : BiOp)
  | brf (o : BiOp)
  | belvLoop (o : BlOp)
  | waittk (o : BrOp)
  | pose (o : BrOp)
  | bend (o : BrOp)
  | padd (o : BrOp)
  | psub (o : BrOp)
  | pmul (o : BrOp)
  | pfma (o : BrOp)
  | pmin (o : BrOp)
  | pmax (o : BrOp)
  | pcmplt (o : BrOp)
  | psel (o : BrOp)
  | pcvt (o : BrOp)
  | plerp (o : BrOp)
  | prcp (o : BrOp)
  | prsq (o : BrOp)
  | plane (o : BrOp)
  | pmovg (o : BrOp)
  | pxform (o : BrOp)
  | lld (o : BrOp)
  | lst (o : BrOp)
  | xfetch (o : BrOp)
  | gather (o : BrOp)
  | warps (o : BrOp)
  | mld (o : BrOp)
  | mst (o : BrOp)
  | mmul (o : BrOp)
  | mconv (o : BrOp)
  | emit (o : BrOp)
  | fbwait (o : BrOp)
  | fallbk (o : BrOp)
  | powerLoss
deriving DecidableEq, Repr

end Sys2Proof
end

