-- ==== Sys2Proof/WellFormed.lean ====
section
/-!
DEFINITION. Operand classes of the slot operations and when an operand field is within its class (04 R97, R99, R101,
Table 4-3; 11 R241). Which operation takes which classes is the table of Decode.lean.
-/

namespace Sys2Proof

/-- What an operand field D or A names (04 Table 4-3). `reg n` is a register file of n names whose extension bits must
be 0; `vec align count` is `count` consecutive vector registers from a multiple of `align`, none above v223;
`vecRing dst` is one 32-bit vector register or a ring port, offset 0 only in a destination (04 R102); `raw` is a plain
6-bit number. -/
inductive OpClass where
  | unused
  | reg (n : Nat)
  | vec (align count : Nat)
  | vecRing (dst : Bool)
  | raw
deriving DecidableEq, Repr, Inhabited

/-- What the B operand may be (04 R99): no operand, a register only (K = 0), a code only (K = 1) within bounds, a
register or a value (wide: 64 bits, a literal pair), a register or a code, or the four binary8 codes of 09 R198. -/
inductive BClass where
  | unused
  | regOnly (c : OpClass)
  | code (lo hi : Nat)
  | value (c : OpClass) (wide : Bool)
  | regOrCode (c : OpClass) (lo hi : Nat)
  | b8x4 (c : OpClass)
deriving DecidableEq, Repr, Inhabited

/-- The field value x is within class c (04 R101). -/
def OpClass.ok (c : OpClass) (x : BitVec 8) : Bool :=
  match c with
  | .unused => x == 0
  | .reg n => decide (x.toNat < n)
  | .vec al n => decide (x.toNat % al = 0) && decide (x.toNat + n ≤ 224)
  | .vecRing dst => decide (x.toNat < 224) || !dst || decide (x.toNat % 2 = 0)
  | .raw => decide (x.toNat < 64)

/-- The 32-bit literal entry `sel` of a literal word (04 R96). -/
def litEntry (sel : BitVec 2) (word : BitVec 128) : BitVec 32 :=
  BitVec.truncate 32 (word >>> (32 * sel.toNat))

/-- A code read from I6 or from a whole literal entry (04 R99). -/
def SrcB.code : SrcB → Nat
  | .reg x => x.toNat
  | .imm i => i.toNat
  | .lit sel w => (litEntry sel w).toNat

/-- The operand B is within its class (04 R99, R101). -/
def BClass.ok (c : BClass) (b : SrcB) : Bool :=
  match c, b with
  | .unused, .reg x => x == 0
  | .unused, _ => false
  | .regOnly k, .reg x => k.ok x
  | .regOnly _, _ => false
  | .code _ _, .reg _ => false
  | .code lo hi, v => decide (lo ≤ v.code) && decide (v.code ≤ hi)
  | .value k _, .reg x => k.ok x
  | .value _ _, .imm _ => true
  | .value _ wide, .lit sel _ => !wide || decide (sel.toNat % 2 = 0)
  | .regOrCode k _ _, .reg x => k.ok x
  | .regOrCode _ lo hi, v => decide (lo ≤ v.code) && decide (v.code ≤ hi)
  | .b8x4 k, .reg x => k.ok x
  | .b8x4 _, .imm _ => false
  | .b8x4 _, .lit _ _ => true

/-- One more than the highest vector register an operand of the class names; 0 for a ring port or another file
(01 R28). -/
def OpClass.vTop (c : OpClass) (x : BitVec 8) : Nat :=
  match c with
  | .vec _ n => x.toNat + n
  | .vecRing _ => if x.toNat < 224 then x.toNat + 1 else 0
  | _ => 0

/-- The classes of the three operands of an operation. -/
structure Sig where
  d : OpClass
  a : OpClass
  b : BClass
deriving DecidableEq, Repr, Inhabited

end Sys2Proof
end

