-- ==== Sys2Proof/Decode.lean ====
section
/-!
DEFINITION. Decoding: the opcode map (05 Tables 5-1 to 5-4), the operand classes of each operation, the slot-word and
bundle decoders (04 R94-R106, 05 R119-R123), the Belvedere decoder (23 R445-R449), and after them the encoders written
from the same tables.
-/

namespace Sys2Proof

/-- Why a slot word is not an operation (04 R105, R106). -/
inductive DecodeErr where
  | opcodeInvalid
  | slotClass
  | operandInvalid
deriving DecidableEq, Repr, Inhabited

/-- How the operation of a map-0 opcode is formed from its fields (05 Table 5-4). -/
inductive SimtMk where
  | a3 (f : A3 → Instr)
  | atom (f : AtomOp → Instr)
  | j19 (f : J19 → Instr)
  | lp (f : LpOp → Instr)
  | c16 (f : C16 → Instr)

/-- Map-0 opcodes from 0x000 (05 Tables 5-1 to 5-3). -/
noncomputable def opGroup0 : List (Nat × SimtMk) := [
  (0x001, .a3 .sadd),
  (0x002, .a3 .ssub),
  (0x003, .a3 .smul),
  (0x004, .a3 .smulh),
  (0x005, .a3 .smulhn),
  (0x006, .a3 .sdiv),
  (0x007, .a3 .sdivn),
  (0x008, .a3 .srem),
  (0x009, .a3 .sremn),
  (0x00A, .a3 .sand),
  (0x00B, .a3 .sor),
  (0x00C, .a3 .sxor),
  (0x00D, .a3 .sandn),
  (0x00E, .a3 .sshl),
  (0x00F, .a3 .sshr),
  (0x010, .a3 .ssra),
  (0x011, .a3 .smin),
  (0x012, .a3 .smax),
  (0x013, .a3 .sminn),
  (0x014, .a3 .smaxn),
  (0x015, .a3 .sabs),
  (0x016, .a3 .spopc),
  (0x017, .a3 .sclz),
  (0x018, .a3 .sctz),
  (0x019, .a3 .sbfx),
  (0x01A, .a3 .sbfi),
  (0x01B, .a3 .ssel),
  (0x01C, .a3 .scmpeq),
  (0x01D, .a3 .scmpne),
  (0x01E, .a3 .scmplt),
  (0x01F, .a3 .scmple)]

/-- Map-0 opcodes from 0x020 (05 Tables 5-1 to 5-3). -/
noncomputable def opGroup1 : List (Nat × SimtMk) := [
  (0x020, .a3 .scmpltn),
  (0x021, .a3 .scmplen),
  (0x022, .a3 .cand),
  (0x023, .a3 .cor),
  (0x024, .a3 .cxor),
  (0x025, .a3 .cnot),
  (0x026, .a3 .smov),
  (0x027, .c16 .smovi),
  (0x028, .c16 .smovh)]

/-- Map-0 opcodes from 0x040 (05 Tables 5-1 to 5-3). -/
noncomputable def opGroup2 : List (Nat × SimtMk) := [
  (0x040, .j19 .br),
  (0x041, .j19 .brnot),
  (0x042, .j19 .call),
  (0x043, .a3 .ret),
  (0x044, .a3 .jidx),
  (0x045, .a3 .vjidx),
  (0x046, .a3 .djoin),
  (0x047, .lp .loopOp),
  (0x048, .lp .loopw),
  (0x049, .a3 .lbrk),
  (0x04A, .a3 .mpush),
  (0x04B, .a3 .minv),
  (0x04C, .a3 .mpop),
  (0x04D, .j19 .mbez),
  (0x04E, .a3 .mread),
  (0x04F, .a3 .tfork),
  (0x050, .a3 .tjoin),
  (0x051, .a3 .endOp),
  (0x052, .a3 .wnext),
  (0x053, .a3 .yield),
  (0x054, .a3 .trap),
  (0x055, .a3 .tret),
  (0x056, .a3 .bkpt),
  (0x057, .a3 .ckpt),
  (0x058, .a3 .setf),
  (0x059, .a3 .movc),
  (0x05A, .a3 .setc),
  (0x05B, .a3 .movtc),
  (0x05C, .a3 .movbd)]

/-- Map-0 opcodes from 0x100 (05 Tables 5-1 to 5-3). -/
noncomputable def opGroup8 : List (Nat × SimtMk) := [
  (0x100, .a3 .vaddI32),
  (0x101, .a3 .vaddI64),
  (0x102, .a3 .vsubI32),
  (0x103, .a3 .vsubI64),
  (0x104, .a3 .vaddsS32),
  (0x105, .a3 .vaddsN32),
  (0x106, .a3 .vsubsS32),
  (0x107, .a3 .vsubsN32),
  (0x108, .a3 .vmulI32),
  (0x109, .a3 .vmulI64),
  (0x10A, .a3 .vmulhS32),
  (0x10B, .a3 .vmulhN32),
  (0x10C, .a3 .vmadI32),
  (0x10D, .a3 .vminS32),
  (0x10E, .a3 .vminN32),
  (0x10F, .a3 .vminS64),
  (0x110, .a3 .vminN64),
  (0x111, .a3 .vmaxS32),
  (0x112, .a3 .vmaxN32),
  (0x113, .a3 .vmaxS64),
  (0x114, .a3 .vmaxN64),
  (0x115, .a3 .vabsS32),
  (0x116, .a3 .vabsS64),
  (0x117, .a3 .vandB32),
  (0x118, .a3 .vorB32),
  (0x119, .a3 .vxorB32),
  (0x11A, .a3 .vandnB32),
  (0x11B, .a3 .vshlB32),
  (0x11C, .a3 .vshlB64),
  (0x11D, .a3 .vshrB32),
  (0x11E, .a3 .vshrB64),
  (0x11F, .a3 .vsraS32)]

/-- Map-0 opcodes from 0x120 (05 Tables 5-1 to 5-3). -/
noncomputable def opGroup9 : List (Nat × SimtMk) := [
  (0x120, .a3 .vsraS64),
  (0x121, .a3 .vpopcB32),
  (0x122, .a3 .vclzB32),
  (0x123, .a3 .vbfxS32),
  (0x124, .a3 .vbfxN32),
  (0x125, .a3 .vbfiB32),
  (0x126, .a3 .vcmpeqI32),
  (0x127, .a3 .vcmpeqI64),
  (0x128, .a3 .vcmpneI32),
  (0x129, .a3 .vcmpneI64),
  (0x12A, .a3 .vcmpltS32),
  (0x12B, .a3 .vcmpltN32),
  (0x12C, .a3 .vcmpltS64),
  (0x12D, .a3 .vcmpltN64),
  (0x12E, .a3 .vcmpleS32),
  (0x12F, .a3 .vcmpleN32),
  (0x130, .a3 .vcmpleS64),
  (0x131, .a3 .vcmpleN64),
  (0x132, .a3 .vselB32),
  (0x133, .a3 .vselB64)]

/-- Map-0 opcodes from 0x140 (05 Tables 5-1 to 5-3). -/
noncomputable def opGroupa : List (Nat × SimtMk) := [
  (0x140, .a3 .faddF32),
  (0x141, .a3 .faddF64),
  (0x142, .a3 .faddH2),
  (0x143, .a3 .faddBh2),
  (0x144, .a3 .fsubF32),
  (0x145, .a3 .fsubF64),
  (0x146, .a3 .fsubH2),
  (0x147, .a3 .fsubBh2),
  (0x148, .a3 .fmulF32),
  (0x149, .a3 .fmulF64),
  (0x14A, .a3 .fmulH2),
  (0x14B, .a3 .fmulBh2),
  (0x14C, .a3 .ffmaF32),
  (0x14D, .a3 .ffmaF64),
  (0x14E, .a3 .ffmaH2),
  (0x14F, .a3 .ffmaBh2),
  (0x150, .a3 .fminF32),
  (0x151, .a3 .fminF64),
  (0x152, .a3 .fminH2),
  (0x153, .a3 .fminBh2),
  (0x154, .a3 .fmaxF32),
  (0x155, .a3 .fmaxF64),
  (0x156, .a3 .fmaxH2),
  (0x157, .a3 .fmaxBh2),
  (0x158, .a3 .fcmpeqF32),
  (0x159, .a3 .fcmpeqF64),
  (0x15A, .a3 .fcmpltF32),
  (0x15B, .a3 .fcmpltF64),
  (0x15C, .a3 .fcmpleF32),
  (0x15D, .a3 .fcmpleF64),
  (0x15E, .a3 .fcmpunF32),
  (0x15F, .a3 .fcmpunF64)]

/-- Map-0 opcodes from 0x160 (05 Tables 5-1 to 5-3). -/
noncomputable def opGroupb : List (Nat × SimtMk) := [
  (0x160, .a3 .frndF32),
  (0x161, .a3 .frndF64),
  (0x162, .a3 .fclassF32),
  (0x163, .a3 .fclassF64),
  (0x164, .a3 .fdot4B8x4),
  (0x165, .a3 .fdot2H2),
  (0x166, .a3 .fdot2Bh2),
  (0x170, .a3 .frcpF32),
  (0x171, .a3 .frcpF64),
  (0x172, .a3 .frsqF32),
  (0x173, .a3 .frsqF64),
  (0x174, .a3 .fsqrtF32),
  (0x175, .a3 .fsqrtF64),
  (0x176, .a3 .fdivF32),
  (0x177, .a3 .fdivF64),
  (0x178, .a3 .fexp2F32),
  (0x179, .a3 .flog2F32),
  (0x17A, .a3 .fsinpF32),
  (0x17B, .a3 .fcospF32)]

/-- Map-0 opcodes from 0x180 (05 Tables 5-1 to 5-3). -/
noncomputable def opGroupc : List (Nat × SimtMk) := [
  (0x180, .a3 .cvtS32),
  (0x181, .a3 .cvtN32),
  (0x182, .a3 .cvtS64),
  (0x183, .a3 .cvtN64),
  (0x184, .a3 .cvtF64),
  (0x185, .a3 .cvtF32),
  (0x186, .a3 .cvtF16),
  (0x187, .a3 .cvtBf16),
  (0x188, .a3 .cvtB8),
  (0x189, .a3 .cvtsrB8),
  (0x18A, .a3 .cvtsrBf16),
  (0x18B, .a3 .cvtsrF16),
  (0x18C, .a3 .vpackB8x4),
  (0x18D, .a3 .vpackH2),
  (0x18E, .a3 .vpackBh2),
  (0x18F, .a3 .vunpkB8x4),
  (0x190, .a3 .vunpkH2),
  (0x191, .a3 .vunpkBh2)]

/-- Map-0 opcodes from 0x1A0 (05 Tables 5-1 to 5-3). -/
noncomputable def opGroupd : List (Nat × SimtMk) := [
  (0x1A0, .a3 .vmovB32),
  (0x1A1, .a3 .vmovB64),
  (0x1A2, .a3 .vmovsB32),
  (0x1A3, .a3 .vmovsB64),
  (0x1A4, .a3 .vlane),
  (0x1A5, .a3 .vldix),
  (0x1A6, .a3 .vstix),
  (0x1A7, .a3 .pand),
  (0x1A8, .a3 .por),
  (0x1A9, .a3 .pxor),
  (0x1AA, .a3 .pandn),
  (0x1AB, .a3 .pmovv),
  (0x1AC, .a3 .vmovp),
  (0x1B0, .a3 .xperm),
  (0x1B1, .a3 .xbcast),
  (0x1B2, .a3 .xswz),
  (0x1B3, .a3 .xany),
  (0x1B4, .a3 .xall),
  (0x1B5, .a3 .xballot),
  (0x1B6, .a3 .xredI32),
  (0x1B7, .a3 .xredF32),
  (0x1B8, .a3 .xredminS32),
  (0x1B9, .a3 .xredminN32),
  (0x1BA, .a3 .xredminF32),
  (0x1BB, .a3 .xredmaxS32),
  (0x1BC, .a3 .xredmaxN32),
  (0x1BD, .a3 .xredmaxF32),
  (0x1BE, .a3 .xscanI32),
  (0x1BF, .a3 .xscanF32)]

/-- Map-0 opcodes from 0x1C0 (05 Tables 5-1 to 5-3). -/
noncomputable def opGroupe : List (Nat × SimtMk) := [
  (0x1C0, .a3 .treord),
  (0x1D0, .a3 .rsvupd),
  (0x1D1, .a3 .rsvmrg)]

/-- Map-0 opcodes from 0x280 (05 Tables 5-1 to 5-3). -/
noncomputable def opGroup14 : List (Nat × SimtMk) := [
  (0x280, .a3 .ldB8),
  (0x281, .a3 .ldB16),
  (0x282, .a3 .ldB32),
  (0x283, .a3 .ldB64),
  (0x284, .a3 .ldB128),
  (0x285, .a3 .stB8),
  (0x286, .a3 .stB16),
  (0x287, .a3 .stB32),
  (0x288, .a3 .stB64),
  (0x289, .a3 .stB128),
  (0x28A, .a3 .ldvB32),
  (0x28B, .a3 .ldvB64),
  (0x28C, .a3 .ldvB128),
  (0x28D, .a3 .stvB32),
  (0x28E, .a3 .stvB64),
  (0x28F, .a3 .stvB128),
  (0x290, .a3 .ldgsB32),
  (0x291, .a3 .ldgsB64),
  (0x292, .a3 .ldgsB128),
  (0x293, .a3 .stgsB32),
  (0x294, .a3 .stgsB64),
  (0x295, .a3 .stgsB128),
  (0x296, .a3 .sldB32),
  (0x297, .a3 .sldB64),
  (0x298, .a3 .sstB32),
  (0x299, .a3 .sstB64),
  (0x29A, .atom .ldaB32),
  (0x29B, .atom .ldaB64),
  (0x29C, .atom .stlB32),
  (0x29D, .atom .stlB64),
  (0x29E, .a3 .ldroB32),
  (0x29F, .a3 .ldroB64)]

/-- Map-0 opcodes from 0x2A0 (05 Tables 5-1 to 5-3). -/
noncomputable def opGroup15 : List (Nat × SimtMk) := [
  (0x2A0, .a3 .ldroB128),
  (0x2A1, .a3 .pref),
  (0x2B0, .a3 .qinit),
  (0x2B1, .a3 .qcommit),
  (0x2B2, .a3 .qpop),
  (0x2B3, .a3 .wbind),
  (0x2B4, .a3 .wstart),
  (0x2B5, .a3 .wstop),
  (0x2B6, .a3 .cpy),
  (0x2B7, .a3 .cpyy),
  (0x2B8, .a3 .lock),
  (0x2B9, .a3 .unlock),
  (0x2BA, .a3 .cflush),
  (0x2BB, .a3 .cinvro)]

/-- Map-0 opcodes from 0x2C0 (05 Tables 5-1 to 5-3). -/
noncomputable def opGroup16 : List (Nat × SimtMk) := [
  (0x2C0, .a3 .tld),
  (0x2C1, .a3 .tst),
  (0x2C2, .a3 .tzero),
  (0x2C3, .a3 .tmma),
  (0x2C4, .a3 .tmmaq),
  (0x2C5, .a3 .tmmav),
  (0x2C6, .a3 .tchain),
  (0x2C7, .a3 .tcvt),
  (0x2C8, .a3 .ttov),
  (0x2C9, .a3 .vtot),
  (0x2CA, .a3 .cbload),
  (0x2D0, .a3 .seal),
  (0x2D1, .a3 .rpin),
  (0x2D2, .a3 .runpin),
  (0x2D3, .a3 .rdrop),
  (0x2D4, .a3 .rstat),
  (0x2D5, .a3 .rdone)]

/-- Map-0 opcodes from 0x2E0 (05 Tables 5-1 to 5-3). -/
noncomputable def opGroup17 : List (Nat × SimtMk) := [
  (0x2E0, .atom .atomaddI32),
  (0x2E1, .atom .atomaddI64),
  (0x2E2, .atom .atomaddF32),
  (0x2E3, .atom .atomminS32),
  (0x2E4, .atom .atomminN32),
  (0x2E5, .atom .atommaxS32),
  (0x2E6, .atom .atommaxN32),
  (0x2E7, .atom .atomandB32),
  (0x2E8, .atom .atomorB32),
  (0x2E9, .atom .atomxorB32),
  (0x2EA, .atom .atomxchgB32),
  (0x2EB, .atom .atomxchgB64),
  (0x2EC, .atom .atomcasB32),
  (0x2ED, .atom .atomcasB64),
  (0x2EE, .atom .fence),
  (0x2EF, .atom .fencero),
  (0x2F0, .atom .tlsig),
  (0x2F1, .atom .tlwait),
  (0x2F2, .a3 .tlread),
  (0x2F3, .a3 .bararv),
  (0x2F4, .a3 .barwt),
  (0x2F5, .a3 .bufacq),
  (0x2F6, .a3 .bufrel),
  (0x2F7, .a3 .wqpush),
  (0x2F8, .a3 .launch)]

/-- Map-0 opcodes from 0x300 (05 Tables 5-1 to 5-3). -/
noncomputable def opGroup18 : List (Nat × SimtMk) := [
  (0x300, .a3 .rayq),
  (0x301, .a3 .rayqd),
  (0x302, .a3 .raycand),
  (0x303, .a3 .rayacc),
  (0x304, .a3 .rayfin),
  (0x305, .a3 .splatq),
  (0x306, .a3 .splatrun),
  (0x307, .a3 .sample),
  (0x308, .a3 .sampleg),
  (0x309, .a3 .samplel),
  (0x310, .a3 .coll)]

/-- Map 0 as one table from opcode to operation (05 R113). -/
noncomputable def opTable : List (Nat × SimtMk) :=
  opGroup0 ++
  opGroup1 ++
  opGroup2 ++
  opGroup8 ++
  opGroup9 ++
  opGroupa ++
  opGroupb ++
  opGroupc ++
  opGroupd ++
  opGroupe ++
  opGroup14 ++
  opGroup15 ++
  opGroup16 ++
  opGroup17 ++
  opGroup18

/-- The operation of a map-0 opcode; none for a code the map leaves empty (05 R122). -/
noncomputable def opMk (op : Nat) : Option SimtMk := opTable.lookup op

/-- The class of a map-0 opcode: 0 S, 1 either V slot, 2 V2 only, 3 M (04 R104, 05 Table 5-4). -/
def opClassOf (op : Nat) : Nat :=
  if op < 0x100 then 0
  else if op < 0x280 then
    if (decide (0x170 ≤ op) && decide (op < 0x180)) || (decide (0x1B0 ≤ op) && decide (op < 0x1D0)) then 2 else 1
  else 3

/-- Operand classes, as ranges of opcodes (08, 09, 11, 12, 13, 15, 17, 18: the instruction entries). -/
def sigTable : List (Nat × Nat × Sig) := [
  (0x001, 0x014, ⟨(.reg 64), (.reg 64), (.value (.reg 64) false)⟩),
  (0x015, 0x018, ⟨(.reg 64), (.reg 64), .unused⟩),
  (0x019, 0x01B, ⟨(.reg 64), (.reg 64), (.value (.reg 64) false)⟩),
  (0x01C, 0x021, ⟨(.reg 8), (.reg 64), (.value (.reg 64) false)⟩),
  (0x022, 0x024, ⟨(.reg 8), (.reg 8), (.regOnly (.reg 8))⟩),
  (0x025, 0x025, ⟨(.reg 8), (.reg 8), .unused⟩),
  (0x026, 0x026, ⟨(.reg 64), (.reg 64), .unused⟩),
  (0x043, 0x044, ⟨.unused, (.reg 64), .unused⟩),
  (0x045, 0x045, ⟨.unused, (.vec 1 1), .unused⟩),
  (0x046, 0x046, ⟨.unused, .unused, .unused⟩),
  (0x049, 0x049, ⟨.unused, .unused, .unused⟩),
  (0x04A, 0x04A, ⟨.unused, (.reg 8), .unused⟩),
  (0x04B, 0x04C, ⟨.unused, .unused, .unused⟩),
  (0x04E, 0x04E, ⟨(.reg 64), .unused, (.regOrCode (.reg 64) 0 34)⟩),
  (0x04F, 0x04F, ⟨(.reg 64), (.reg 64), (.value (.reg 64) false)⟩),
  (0x050, 0x051, ⟨.unused, .unused, .unused⟩),
  (0x052, 0x052, ⟨(.reg 64), .unused, .unused⟩),
  (0x053, 0x053, ⟨.unused, .unused, .unused⟩),
  (0x054, 0x056, ⟨.unused, .unused, (.value (.reg 64) false)⟩),
  (0x057, 0x057, ⟨.unused, .unused, .unused⟩),
  (0x058, 0x058, ⟨.unused, (.reg 64), .unused⟩),
  (0x059, 0x059, ⟨(.reg 64), .raw, (.value (.reg 64) false)⟩),
  (0x05A, 0x05A, ⟨.raw, (.reg 64), (.value (.reg 64) false)⟩),
  (0x05B, 0x05B, ⟨(.reg 32), (.reg 64), .unused⟩),
  (0x05C, 0x05C, ⟨(.reg 9), (.reg 64), .unused⟩),
  (0x100, 0x100, ⟨(.vecRing true), (.vecRing false), (.value (.vecRing false) false)⟩),
  (0x101, 0x101, ⟨(.vec 2 2), (.vec 2 2), (.value (.vec 2 2) true)⟩),
  (0x102, 0x102, ⟨(.vecRing true), (.vecRing false), (.value (.vecRing false) false)⟩),
  (0x103, 0x103, ⟨(.vec 2 2), (.vec 2 2), (.value (.vec 2 2) true)⟩),
  (0x104, 0x108, ⟨(.vecRing true), (.vecRing false), (.value (.vecRing false) false)⟩),
  (0x109, 0x109, ⟨(.vec 2 2), (.vec 2 2), (.value (.vec 2 2) true)⟩),
  (0x10A, 0x10B, ⟨(.vecRing true), (.vecRing false), (.value (.vecRing false) false)⟩),
  (0x10C, 0x10C, ⟨(.vec 1 1), (.vecRing false), (.value (.vecRing false) false)⟩),
  (0x10D, 0x10E, ⟨(.vecRing true), (.vecRing false), (.value (.vecRing false) false)⟩),
  (0x10F, 0x110, ⟨(.vec 2 2), (.vec 2 2), (.value (.vec 2 2) true)⟩),
  (0x111, 0x112, ⟨(.vecRing true), (.vecRing false), (.value (.vecRing false) false)⟩),
  (0x113, 0x114, ⟨(.vec 2 2), (.vec 2 2), (.value (.vec 2 2) true)⟩),
  (0x115, 0x115, ⟨(.vecRing true), (.vecRing false), .unused⟩),
  (0x116, 0x116, ⟨(.vec 2 2), (.vec 2 2), .unused⟩),
  (0x117, 0x11B, ⟨(.vecRing true), (.vecRing false), (.value (.vecRing false) false)⟩),
  (0x11C, 0x11C, ⟨(.vec 2 2), (.vec 2 2), (.value (.vecRing false) false)⟩),
  (0x11D, 0x11D, ⟨(.vecRing true), (.vecRing false), (.value (.vecRing false) false)⟩),
  (0x11E, 0x11E, ⟨(.vec 2 2), (.vec 2 2), (.value (.vecRing false) false)⟩),
  (0x11F, 0x11F, ⟨(.vecRing true), (.vecRing false), (.value (.vecRing false) false)⟩),
  (0x120, 0x120, ⟨(.vec 2 2), (.vec 2 2), (.value (.vecRing false) false)⟩),
  (0x121, 0x122, ⟨(.vecRing true), (.vecRing false), .unused⟩),
  (0x123, 0x124, ⟨(.vecRing true), (.vecRing false), (.value (.vecRing false) false)⟩),
  (0x125, 0x125, ⟨(.vec 1 1), (.vecRing false), (.value (.vecRing false) false)⟩),
  (0x126, 0x126, ⟨(.reg 8), (.vecRing false), (.value (.vecRing false) false)⟩),
  (0x127, 0x127, ⟨(.reg 8), (.vec 2 2), (.value (.vec 2 2) true)⟩),
  (0x128, 0x128, ⟨(.reg 8), (.vecRing false), (.value (.vecRing false) false)⟩),
  (0x129, 0x129, ⟨(.reg 8), (.vec 2 2), (.value (.vec 2 2) true)⟩),
  (0x12A, 0x12B, ⟨(.reg 8), (.vecRing false), (.value (.vecRing false) false)⟩),
  (0x12C, 0x12D, ⟨(.reg 8), (.vec 2 2), (.value (.vec 2 2) true)⟩),
  (0x12E, 0x12F, ⟨(.reg 8), (.vecRing false), (.value (.vecRing false) false)⟩),
  (0x130, 0x131, ⟨(.reg 8), (.vec 2 2), (.value (.vec 2 2) true)⟩),
  (0x132, 0x132, ⟨(.vecRing true), (.vecRing false), (.value (.vecRing false) false)⟩),
  (0x133, 0x133, ⟨(.vec 2 2), (.vec 2 2), (.value (.vec 2 2) true)⟩),
  (0x140, 0x140, ⟨(.vecRing true), (.vecRing false), (.value (.vecRing false) false)⟩),
  (0x141, 0x141, ⟨(.vec 2 2), (.vec 2 2), (.value (.vec 2 2) true)⟩),
  (0x142, 0x144, ⟨(.vecRing true), (.vecRing false), (.value (.vecRing false) false)⟩),
  (0x145, 0x145, ⟨(.vec 2 2), (.vec 2 2), (.value (.vec 2 2) true)⟩),
  (0x146, 0x148, ⟨(.vecRing true), (.vecRing false), (.value (.vecRing false) false)⟩),
  (0x149, 0x149, ⟨(.vec 2 2), (.vec 2 2), (.value (.vec 2 2) true)⟩),
  (0x14A, 0x14B, ⟨(.vecRing true), (.vecRing false), (.value (.vecRing false) false)⟩),
  (0x14C, 0x14C, ⟨(.vec 1 1), (.vecRing false), (.value (.vecRing false) false)⟩),
  (0x14D, 0x14D, ⟨(.vec 2 2), (.vec 2 2), (.value (.vec 2 2) true)⟩),
  (0x14E, 0x14F, ⟨(.vec 1 1), (.vecRing false), (.value (.vecRing false) false)⟩),
  (0x150, 0x150, ⟨(.vecRing true), (.vecRing false), (.value (.vecRing false) false)⟩),
  (0x151, 0x151, ⟨(.vec 2 2), (.vec 2 2), (.value (.vec 2 2) true)⟩),
  (0x152, 0x154, ⟨(.vecRing true), (.vecRing false), (.value (.vecRing false) false)⟩),
  (0x155, 0x155, ⟨(.vec 2 2), (.vec 2 2), (.value (.vec 2 2) true)⟩),
  (0x156, 0x157, ⟨(.vecRing true), (.vecRing false), (.value (.vecRing false) false)⟩),
  (0x158, 0x158, ⟨(.reg 8), (.vecRing false), (.value (.vecRing false) false)⟩),
  (0x159, 0x159, ⟨(.reg 8), (.vec 2 2), (.value (.vec 2 2) true)⟩),
  (0x15A, 0x15A, ⟨(.reg 8), (.vecRing false), (.value (.vecRing false) false)⟩),
  (0x15B, 0x15B, ⟨(.reg 8), (.vec 2 2), (.value (.vec 2 2) true)⟩),
  (0x15C, 0x15C, ⟨(.reg 8), (.vecRing false), (.value (.vecRing false) false)⟩),
  (0x15D, 0x15D, ⟨(.reg 8), (.vec 2 2), (.value (.vec 2 2) true)⟩),
  (0x15E, 0x15E, ⟨(.reg 8), (.vecRing false), (.value (.vecRing false) false)⟩),
  (0x15F, 0x15F, ⟨(.reg 8), (.vec 2 2), (.value (.vec 2 2) true)⟩),
  (0x160, 0x160, ⟨(.vecRing true), (.vecRing false), .unused⟩),
  (0x161, 0x161, ⟨(.vec 2 2), (.vec 2 2), .unused⟩),
  (0x162, 0x162, ⟨(.vecRing true), (.vecRing false), .unused⟩),
  (0x163, 0x163, ⟨(.vecRing true), (.vec 2 2), .unused⟩),
  (0x164, 0x164, ⟨(.vec 1 1), (.vecRing false), (.b8x4 (.vecRing false))⟩),
  (0x165, 0x166, ⟨(.vec 1 1), (.vecRing false), (.value (.vecRing false) false)⟩),
  (0x170, 0x170, ⟨(.vecRing true), (.vecRing false), .unused⟩),
  (0x171, 0x171, ⟨(.vec 2 2), (.vec 2 2), .unused⟩),
  (0x172, 0x172, ⟨(.vecRing true), (.vecRing false), .unused⟩),
  (0x173, 0x173, ⟨(.vec 2 2), (.vec 2 2), .unused⟩),
  (0x174, 0x174, ⟨(.vecRing true), (.vecRing false), .unused⟩),
  (0x175, 0x175, ⟨(.vec 2 2), (.vec 2 2), .unused⟩),
  (0x176, 0x176, ⟨(.vecRing true), (.vecRing false), (.value (.vecRing false) false)⟩)] ++ [
  (0x177, 0x177, ⟨(.vec 2 2), (.vec 2 2), (.value (.vec 2 2) true)⟩),
  (0x178, 0x17B, ⟨(.vecRing true), (.vecRing false), .unused⟩),
  (0x180, 0x181, ⟨(.vecRing true), (.vecRing false), (.code 0 8)⟩),
  (0x182, 0x184, ⟨(.vec 2 2), (.vecRing false), (.code 0 8)⟩),
  (0x185, 0x188, ⟨(.vecRing true), (.vecRing false), (.code 0 8)⟩),
  (0x189, 0x18B, ⟨(.vecRing true), (.vecRing false), (.regOnly (.vecRing false))⟩),
  (0x18C, 0x18C, ⟨(.vecRing true), (.vec 2 2), (.regOnly (.vec 2 2))⟩),
  (0x18D, 0x18E, ⟨(.vecRing true), (.vecRing false), (.regOnly (.vecRing false))⟩),
  (0x18F, 0x18F, ⟨(.vec 4 4), (.vecRing false), .unused⟩),
  (0x190, 0x191, ⟨(.vec 2 2), (.vecRing false), .unused⟩),
  (0x1A0, 0x1A0, ⟨(.vec 1 1), .unused, (.value (.vecRing false) false)⟩),
  (0x1A1, 0x1A1, ⟨(.vec 2 2), .unused, (.value (.vec 2 2) true)⟩),
  (0x1A2, 0x1A2, ⟨(.vec 1 1), (.reg 64), .unused⟩),
  (0x1A3, 0x1A3, ⟨(.vec 2 2), (.reg 64), .unused⟩),
  (0x1A4, 0x1A4, ⟨(.vec 1 1), .unused, .unused⟩),
  (0x1A5, 0x1A6, ⟨(.vec 1 1), (.reg 64), (.value (.reg 64) false)⟩),
  (0x1A7, 0x1AA, ⟨(.reg 8), (.reg 8), (.regOnly (.reg 8))⟩),
  (0x1AB, 0x1AB, ⟨(.reg 8), (.vec 1 1), .unused⟩),
  (0x1AC, 0x1AC, ⟨(.vec 1 1), (.reg 8), .unused⟩),
  (0x1B0, 0x1B1, ⟨(.vec 1 1), (.vec 1 1), (.value (.vec 1 1) false)⟩),
  (0x1B2, 0x1B2, ⟨(.vec 1 1), (.vec 1 1), .unused⟩),
  (0x1B3, 0x1B4, ⟨(.reg 8), (.reg 8), (.value (.vec 1 1) false)⟩),
  (0x1B5, 0x1B5, ⟨(.vec 1 1), (.reg 8), (.value (.vec 1 1) false)⟩),
  (0x1B6, 0x1BF, ⟨(.vec 1 1), (.vec 1 1), (.value (.vec 1 1) false)⟩),
  (0x1C0, 0x1C0, ⟨(.vec 1 1), (.vec 1 1), (.code 0 63)⟩),
  (0x1D0, 0x1D0, ⟨(.vec 4 4), (.vec 1 3), (.regOnly (.vec 1 1))⟩),
  (0x1D1, 0x1D1, ⟨(.vec 4 4), (.vec 4 4), (.regOnly (.vec 1 1))⟩),
  (0x280, 0x281, ⟨(.vec 1 1), (.vec 2 2), (.value (.reg 64) false)⟩),
  (0x282, 0x282, ⟨(.vecRing true), (.vec 2 2), (.value (.reg 64) false)⟩),
  (0x283, 0x283, ⟨(.vec 2 2), (.vec 2 2), (.value (.reg 64) false)⟩),
  (0x284, 0x284, ⟨(.vec 4 4), (.vec 2 2), (.value (.reg 64) false)⟩),
  (0x285, 0x286, ⟨(.vec 1 1), (.vec 2 2), (.value (.reg 64) false)⟩),
  (0x287, 0x287, ⟨(.vecRing false), (.vec 2 2), (.value (.reg 64) false)⟩),
  (0x288, 0x288, ⟨(.vec 2 2), (.vec 2 2), (.value (.reg 64) false)⟩),
  (0x289, 0x289, ⟨(.vec 4 4), (.vec 2 2), (.value (.reg 64) false)⟩),
  (0x28A, 0x28A, ⟨(.vecRing true), (.reg 64), (.value (.reg 64) false)⟩),
  (0x28B, 0x28B, ⟨(.vec 2 2), (.reg 64), (.value (.reg 64) false)⟩),
  (0x28C, 0x28C, ⟨(.vec 4 4), (.reg 64), (.value (.reg 64) false)⟩),
  (0x28D, 0x28D, ⟨(.vecRing false), (.reg 64), (.value (.reg 64) false)⟩),
  (0x28E, 0x28E, ⟨(.vec 2 2), (.reg 64), (.value (.reg 64) false)⟩),
  (0x28F, 0x28F, ⟨(.vec 4 4), (.reg 64), (.value (.reg 64) false)⟩),
  (0x290, 0x290, ⟨(.vecRing true), (.reg 64), (.value (.vec 1 1) false)⟩),
  (0x291, 0x291, ⟨(.vec 2 2), (.reg 64), (.value (.vec 1 1) false)⟩),
  (0x292, 0x292, ⟨(.vec 4 4), (.reg 64), (.value (.vec 1 1) false)⟩),
  (0x293, 0x293, ⟨(.vecRing false), (.reg 64), (.value (.vec 1 1) false)⟩),
  (0x294, 0x294, ⟨(.vec 2 2), (.reg 64), (.value (.vec 1 1) false)⟩),
  (0x295, 0x295, ⟨(.vec 4 4), (.reg 64), (.value (.vec 1 1) false)⟩),
  (0x296, 0x299, ⟨(.reg 64), (.reg 64), (.value (.reg 64) false)⟩),
  (0x29A, 0x29D, ⟨(.reg 64), (.reg 64), .unused⟩),
  (0x29E, 0x29E, ⟨(.vecRing true), (.vec 2 2), (.value (.reg 64) false)⟩),
  (0x29F, 0x29F, ⟨(.vec 2 2), (.vec 2 2), (.value (.reg 64) false)⟩),
  (0x2A0, 0x2A0, ⟨(.vec 4 4), (.vec 2 2), (.value (.reg 64) false)⟩),
  (0x2A1, 0x2A1, ⟨.unused, (.vec 2 2), (.code 0 1)⟩),
  (0x2B0, 0x2B0, ⟨(.reg 16), (.reg 64), (.value (.reg 64) false)⟩),
  (0x2B1, 0x2B1, ⟨(.reg 16), .unused, (.value (.reg 64) false)⟩),
  (0x2B2, 0x2B2, ⟨(.reg 8), (.reg 16), (.value (.reg 64) false)⟩),
  (0x2B3, 0x2B3, ⟨(.reg 8), (.reg 16), (.regOnly (.reg 64))⟩),
  (0x2B4, 0x2B5, ⟨(.reg 8), .unused, .unused⟩),
  (0x2B6, 0x2B7, ⟨(.reg 64), (.reg 64), (.code 0 1)⟩),
  (0x2B8, 0x2B8, ⟨(.reg 64), (.reg 64), (.value (.reg 64) false)⟩),
  (0x2B9, 0x2BB, ⟨.unused, (.reg 64), (.value (.reg 64) false)⟩),
  (0x2C0, 0x2C1, ⟨(.reg 32), (.reg 64), (.code 0 1)⟩),
  (0x2C2, 0x2C2, ⟨(.reg 32), .unused, .unused⟩),
  (0x2C3, 0x2C5, ⟨(.reg 32), (.reg 32), (.regOnly (.reg 32))⟩),
  (0x2C6, 0x2C6, ⟨(.reg 32), (.reg 64), (.code 1 16)⟩),
  (0x2C7, 0x2C7, ⟨(.reg 32), (.reg 32), .unused⟩),
  (0x2C8, 0x2C8, ⟨(.vec 1 1), (.reg 32), (.value (.reg 64) false)⟩),
  (0x2C9, 0x2C9, ⟨(.reg 32), (.vec 1 1), (.value (.reg 64) false)⟩),
  (0x2CA, 0x2CA, ⟨.unused, (.reg 64), (.value (.reg 64) false)⟩),
  (0x2D0, 0x2D2, ⟨(.reg 64), (.reg 64), .unused⟩),
  (0x2D3, 0x2D3, ⟨(.reg 64), (.reg 64), (.code 0 1)⟩),
  (0x2D4, 0x2D4, ⟨(.reg 64), (.reg 64), .unused⟩),
  (0x2D5, 0x2D5, ⟨.unused, .unused, .unused⟩),
  (0x2E0, 0x2E0, ⟨(.vec 1 1), (.vec 2 2), .unused⟩),
  (0x2E1, 0x2E1, ⟨(.vec 2 2), (.vec 2 2), .unused⟩),
  (0x2E2, 0x2EA, ⟨(.vec 1 1), (.vec 2 2), .unused⟩),
  (0x2EB, 0x2EC, ⟨(.vec 2 2), (.vec 2 2), .unused⟩),
  (0x2ED, 0x2ED, ⟨(.vec 4 4), (.vec 2 2), .unused⟩),
  (0x2EE, 0x2EF, ⟨.unused, .unused, .unused⟩),
  (0x2F0, 0x2F2, ⟨(.reg 64), (.reg 64), .unused⟩),
  (0x2F3, 0x2F3, ⟨(.reg 64), (.reg 64), (.value (.reg 64) false)⟩),
  (0x2F4, 0x2F4, ⟨.unused, (.reg 64), (.regOrCode (.reg 64) 0 1)⟩),
  (0x2F5, 0x2F5, ⟨(.reg 64), (.reg 64), .unused⟩),
  (0x2F6, 0x2F6, ⟨.unused, (.reg 64), (.value (.reg 64) false)⟩),
  (0x2F7, 0x2F8, ⟨(.reg 64), (.reg 64), (.value (.reg 64) false)⟩),
  (0x300, 0x301, ⟨(.reg 64), (.vec 2 2), (.code 0 7)⟩),
  (0x302, 0x302, ⟨(.vec 2 6), .unused, .unused⟩),
  (0x303, 0x303, ⟨(.vec 2 2), (.vec 2 2), (.code 0 2)⟩),
  (0x304, 0x304, ⟨.unused, (.vec 2 2), .unused⟩),
  (0x305, 0x305, ⟨(.reg 64), (.reg 64), (.regOnly (.reg 64))⟩),
  (0x306, 0x306, ⟨(.reg 64), (.reg 64), .unused⟩),
  (0x307, 0x307, ⟨(.vec 4 4), (.vec 2 2), (.regOnly (.reg 64))⟩),
  (0x308, 0x308, ⟨(.vec 4 4), (.vec 2 6), (.regOnly (.reg 64))⟩),
  (0x309, 0x309, ⟨(.vec 4 4), (.vec 2 3), (.regOnly (.reg 64))⟩),
  (0x310, 0x310, ⟨(.reg 64), (.reg 64), .unused⟩)]

/-- The operand classes of a map-0 opcode in form A3 or A3 atomic. -/
def sigOf (op : Nat) : Sig :=
  match sigTable.find? (fun r => decide (r.1 ≤ op) && decide (op ≤ r.2.1)) with
  | some r => r.2.2
  | none => ⟨.unused, .unused, .unused⟩

/-- CVT reads a 64-bit source for codes 2 to 4, so A then names an even pair (05 R120, 09 R209). -/
def cvtSrcClass (b : SrcB) : OpClass :=
  if b.code = 2 ∨ b.code = 3 ∨ b.code = 4 then .vec 2 2 else .vecRing false

/-- The class of field A: CVT's depends on its source code. -/
def aClass (op : Nat) (o : A3) : OpClass :=
  if 0x180 ≤ op ∧ op ≤ 0x188 then cvtSrcClass o.b else (sigOf op).a

/-- The operations that take a guard: all but CKPT, FENCE, FENCERO and TREORD, whose G field must be 0 (08 R170, R192,
15 R327, 17 R368). -/
def guardFree (op : Nat) : Bool := !(op == 0x057 || op == 0x2EE || op == 0x2EF || op == 0x1C0)

/-- Conditions that tie fields together: TREORD's last register (17 R368), distinct tiles (12 R276), ray flags
(17 R355), and the fields MOVC and SETC require to be 0 with K = 0 (08 R192). -/
def a3Extra (op : Nat) (o : A3) : Bool :=
  if op = 0x1C0 then decide (o.d.toNat + o.b.code ≤ 223)
  else if op = 0x2C3 ∨ op = 0x2C4 ∨ op = 0x2C5 then o.d != o.a && decide (o.d.toNat ≠ o.b.code)
  else if op = 0x2C7 then o.d != o.a
  else if op = 0x300 ∨ op = 0x301 then decide (o.b.code % 4 ≠ 3)
  else if op = 0x059 then match o.b with | .reg _ => o.a == 0 | _ => true
  else if op = 0x05A then match o.b with | .reg _ => o.d == 0 | _ => true
  else true

/-- S-slot operations carry no literal (08 R170). -/
def noLiteral (op : Nat) (b : SrcB) : Bool :=
  match b with
  | .lit _ _ => decide (0x100 ≤ op)
  | _ => true

/-- The static operand checks of form A3 (04 R97, R99, R101). -/
def a3Ok (op : Nat) (o : A3) : Bool :=
  (sigOf op).d.ok o.d && (aClass op o).ok o.a && (sigOf op).b.ok o.b && noLiteral op o.b &&
    (guardFree op || o.g == 0) && a3Extra op o

/-- An atomic at team or gang scope takes one register as its address (15 R325). -/
def atomAClass (op : Nat) (o : AtomOp) : OpClass :=
  if 0x2E0 ≤ op ∧ op ≤ 0x2ED then (if o.scope.toNat ≤ 1 then .vec 1 1 else .vec 2 2) else (sigOf op).a

/-- An operation accepts a scope code (04 R100, 05 R119): FENCERO team to device (15 R328); TLSIG those some kind of
timeline admits, gang, cluster, device and system (15 R330); the others every scope. -/
def scopeListed (op scope : Nat) : Bool :=
  if op = 0x2EF then decide (scope ≤ 3)
  else if op = 0x2F0 then scope == 1 || scope == 2 || scope == 3 || scope == 5
  else decide (scope ≤ 5)

/-- The static operand checks of form A3 atomic (04 R100, 05 R119). -/
def atomOk (op : Nat) (o : AtomOp) : Bool :=
  (sigOf op).d.ok o.d && (atomAClass op o).ok o.a && scopeListed op o.scope.toNat &&
    (decide (0x2E0 ≤ op ∧ op ≤ 0x2ED) || !o.nr) && (guardFree op || o.g == 0)

/-- The static checks of form LP (04 R97, 08 R180): LEN is not 0, and LOOPW's N[5] is 0. -/
def lpOk (op : Nat) (o : LpOp) : Bool := o.len != 0 && (op != 0x048 || decide (o.n.toNat < 32))

/-! ### Slot words -/

/-- What a bundle's header gives one slot (04 R95): the extension bits, the LS bit and the literal word. Without a
header every field is 0. -/
structure SlotCtx where
  extD : BitVec 2
  extA : BitVec 2
  extB : BitVec 2
  ls : Bool
  lit : BitVec 128
deriving DecidableEq, Repr, Inhabited

/-- The context of a slot of a bundle without a header. -/
def SlotCtx.none : SlotCtx := ⟨0, 0, 0, false, 0⟩

/-- The opcode field of a slot word. -/
def wordOp (w : BitVec 32) : Nat := (w.extractLsb' 22 10).toNat

/-- The B operand of an A3 word, with K = 1 requiring EXT B = 0 and, for a literal, I6[5:2] = 0 (04 R99, R103). -/
def wordB (x : SlotCtx) (w : BitVec 32) : Option SrcB :=
  let f := w.extractLsb' 1 6
  if w.extractLsb' 0 1 = 0 then some (.reg (x.extB ++ f))
  else if x.extB ≠ 0 then none
  else if x.ls then (if f.extractLsb' 2 4 = 0 then some (.lit (f.extractLsb' 0 2) x.lit) else none)
  else some (.imm f)

/-- The fields of an A3 word (04 Table 4-2). -/
def wordA3 (x : SlotCtx) (w : BitVec 32) : Option A3 :=
  (wordB x w).map fun b => ⟨w.extractLsb' 19 3, x.extD ++ w.extractLsb' 13 6, x.extA ++ w.extractLsb' 7 6, b⟩

/-- The fields of an A3 atomic word; bits 2:0 and EXT B must be 0 (04 R97, R101). -/
def wordAtom (x : SlotCtx) (w : BitVec 32) : Option AtomOp :=
  if w.extractLsb' 0 3 = 0 ∧ x.extB = 0 then
    some ⟨w.extractLsb' 19 3, x.extD ++ w.extractLsb' 13 6, x.extA ++ w.extractLsb' 7 6, w.extractLsb' 4 3,
      w.extractLsb' 3 1 == 1⟩
  else none

/-- The fields of a J19 word. -/
def wordJ19 (w : BitVec 32) : J19 := ⟨w.extractLsb' 19 3, w.extractLsb' 0 19⟩

/-- The fields of an LP word. -/
def wordLp (w : BitVec 32) : LpOp := ⟨w.extractLsb' 16 6, w.extractLsb' 0 16⟩

/-- The fields of a C16 word. -/
def wordC16 (w : BitVec 32) : C16 := ⟨w.extractLsb' 16 6, w.extractLsb' 0 16⟩

/-- The operation `op` with the fields of a slot word; none is OPERAND_INVALID (04 R106 check 3). -/
noncomputable def decodeOp (op : Nat) (mk : SimtMk) (x : SlotCtx) (w : BitVec 32) : Option Instr :=
  match mk with
  | .a3 f => (wordA3 x w).bind fun o => if a3Ok op o then some (f o) else none
  | .atom f => (wordAtom x w).bind fun o => if atomOk op o then some (f o) else none
  | .j19 f => some (f (wordJ19 w))
  | .lp f => if lpOk op (wordLp w) then some (f (wordLp w)) else none
  | .c16 f => some (f (wordC16 w))

/-- A decode table: none is map 0; otherwise the 16-bit entries of the image's map, an unlisted one being 0 (04 R104,
05 R123). -/
abbrev DecodeMap := Option (Table (BitVec 16))

/-- A slot accepts a class (04 R105). -/
def slotAccepts (slot cls : Nat) : Bool :=
  match slot with
  | 0 => cls == 0
  | 1 => cls == 1
  | 2 => cls == 1 || cls == 2
  | _ => cls == 3

/-- What an opcode names through a decode table: a NOP, or an operation number (04 R104, R105, 05 R123). -/
inductive MapEntry where
  | nop
  | op (n : Nat)
  | invalid
deriving DecidableEq, Repr, Inhabited

/-- Look an opcode up; opcode 0 and the header codes are fixed in every map (04 R94, R104). -/
noncomputable def mapEntry (m : DecodeMap) (opc : Nat) : MapEntry :=
  if opc = 0 then .nop
  else if 0x3F0 ≤ opc then .invalid
  else match m with
    | none => if (opMk opc).isSome then .op opc else .invalid
    | some t =>
      let e := (t.lookup opc).getD 0
      let n := (e.extractLsb' 0 12).toNat
      let c := (e.extractLsb' 12 3).toNat
      if e.extractLsb' 15 1 = 0 then .invalid
      else if n = 0 then (if c = 4 then .nop else .invalid)
      else if (opMk n).isSome && c == opClassOf n then .op n
      else .invalid

/-- Decode one slot word through a decode table, the checks in the order of 04 R106. -/
noncomputable def decodeSlot (m : DecodeMap) (slot : Nat) (x : SlotCtx) (w : BitVec 32) : Except DecodeErr Instr :=
  match mapEntry m (wordOp w) with
  | .nop => .ok (.nop (w.extractLsb' 0 22))
  | .invalid => .error .opcodeInvalid
  | .op n =>
    if slotAccepts slot (opClassOf n) then
      match opMk n with
      | none => .error .opcodeInvalid
      | some mk =>
        match decodeOp n mk x w with
        | some i => .ok i
        | none => .error .operandInvalid
    else .error .slotClass

/-! ### Bundles -/

/-- The header word of Table 4-1. -/
structure Header where
  ext : BitVec 18
  l : Bool
  c : Bool
  sync : BitVec 3
  ls : BitVec 3
deriving DecidableEq, Repr, Inhabited

/-- The header of a slot-0 word, recognised by its marker (04 R94, R95). -/
def wordHeader (w : BitVec 32) : Option Header :=
  if w.extractLsb' 26 6 = 0x3F#6 then
    some ⟨w.extractLsb' 8 18, w.extractLsb' 7 1 == 1, w.extractLsb' 6 1 == 1, w.extractLsb' 3 3, w.extractLsb' 0 3⟩
  else none

/-- What a header gives slot k, 1 to 3 (04 Table 4-1). -/
def Header.ctx (h : Header) (k : Nat) (lit : BitVec 128) : SlotCtx :=
  let base := 6 * (3 - k)
  ⟨h.ext.extractLsb' (base + 4) 2, h.ext.extractLsb' (base + 2) 2, h.ext.extractLsb' base 2,
    h.ls.getLsbD (k - 1), lit⟩

/-- An LS bit is legal for a slot that holds NOP, where it is ignored, or, in a bundle with a literal word, an operation
in form A3 with K = 1 that the slot accepts (04 R95, R96). -/
noncomputable def lsLegal (m : DecodeMap) (l : Bool) (k : Nat) (w : BitVec 32) : Bool :=
  match mapEntry m (wordOp w) with
  | .nop => true
  | .invalid => false
  | .op n =>
    l && slotAccepts k (opClassOf n) && w.getLsbD 0 &&
      match opMk n with
      | some (.a3 _) => true
      | _ => false

/-- The header checks of 04 R96. -/
noncomputable def headerOk (m : DecodeMap) (h : Header) (w1 w2 w3 : BitVec 32) : Bool :=
  (!h.ls.getLsbD 0 || lsLegal m h.l 1 w1) && (!h.ls.getLsbD 1 || lsLegal m h.l 2 w2) &&
    (!h.ls.getLsbD 2 || lsLegal m h.l 3 w3)

/-- A decoded bundle: its header, if any, and the operations of its four slots; a header bundle's S slot is a NOP
(04 R94). -/
structure Bundle where
  header : Option Header
  s : Instr
  v1 : Instr
  v2 : Instr
  m : Instr
deriving DecidableEq, Repr

/-- Slot word k of a bundle (04 R94). -/
def bundleWord (b : BitVec 128) (k : Nat) : BitVec 32 := b.extractLsb' (32 * k) 32

/-- Whether the bundle carries a literal word (04 R96). -/
def bundleHasLiteral (b : BitVec 128) : Bool :=
  match wordHeader (bundleWord b 0) with
  | some h => h.l
  | none => false

/-- A decoded slot operation that also passes a check of its operands at dispatch (04 R106 check 3, 01 R28). -/
def checked (ok : Instr → Bool) (r : Except DecodeErr Instr) : Except DecodeErr Instr :=
  match r with
  | .ok i => if ok i then .ok i else .error .operandInvalid
  | .error e => .error e

/-- Decode a bundle with its literal word: the header checks first, then the slots in order; a failure names the slot
it is reported for (04 R106). `ok` is the check of the operands against the team's VREGS and NTILE (01 R28). -/
noncomputable def decodeBundle (m : DecodeMap) (ok : Instr → Bool) (b lit : BitVec 128) :
    Except (DecodeErr × Nat) Bundle :=
  let h := wordHeader (bundleWord b 0)
  let ctx (k : Nat) : SlotCtx := match h with
    | some x => x.ctx k lit
    | none => .none
  let slot (k : Nat) := checked ok (decodeSlot m k (ctx k) (bundleWord b k))
  let hdr := match h with
    | some x => headerOk m x (bundleWord b 1) (bundleWord b 2) (bundleWord b 3)
    | none => true
  let s0 : Except DecodeErr Instr := match h with
    | some _ => .ok (.nop 0)
    | none => slot 0
  if !hdr then .error (.operandInvalid, 0)
  else match s0, slot 1, slot 2, slot 3 with
    | .ok i0, .ok i1, .ok i2, .ok i3 => .ok ⟨h, i0, i1, i2, i3⟩
    | .error e, _, _, _ => .error (e, 0)
    | .ok _, .error e, _, _ => .error (e, 1)
    | .ok _, .ok _, .error e, _ => .error (e, 2)
    | .ok _, .ok _, .ok _, .error e => .error (e, 3)

/-! ### Belvedere -/

/-- How a Belvedere operation is formed (23 Table 23-3). -/
inductive BelvMk where
  | br (f : BrOp → Instr)
  | bi (f : BiOp → Instr)
  | bj (f : BiOp → Instr)
  | bl (f : BlOp → Instr)

/-- The Belvedere opcode map (23 Table 23-3). -/
noncomputable def belvTable : List (Nat × BelvMk) := [
  (0x01, .br .gadd),
  (0x02, .br .gsub),
  (0x03, .br .gmul),
  (0x04, .br .gand),
  (0x05, .br .gor),
  (0x06, .br .gxor),
  (0x07, .br .gshl),
  (0x08, .br .gshr),
  (0x09, .br .gcmplt),
  (0x0A, .br .gcmpeq),
  (0x0B, .bi .gmovi),
  (0x0C, .bj .belvBr),
  (0x0D, .bj .brf),
  (0x0E, .bl .belvLoop),
  (0x0F, .br .waittk),
  (0x10, .br .pose),
  (0x11, .br .bend),
  (0x40, .br .padd),
  (0x41, .br .psub),
  (0x42, .br .pmul),
  (0x43, .br .pfma),
  (0x44, .br .pmin),
  (0x45, .br .pmax),
  (0x46, .br .pcmplt),
  (0x47, .br .psel),
  (0x48, .br .pcvt),
  (0x49, .br .plerp),
  (0x4A, .br .prcp),
  (0x4B, .br .prsq),
  (0x4C, .br .plane),
  (0x4D, .br .pmovg),
  (0x4E, .br .pxform),
  (0x80, .br .lld),
  (0x81, .br .lst),
  (0x82, .br .xfetch),
  (0x83, .br .gather),
  (0x84, .br .warps),
  (0x85, .br .mld),
  (0x86, .br .mst),
  (0x87, .br .mmul),
  (0x88, .br .mconv),
  (0x89, .br .emit),
  (0x8A, .br .fbwait),
  (0x8B, .br .fallbk)]

/-- The slot an opcode belongs to: 0 C, 1 P, 2 L (23 Table 23-3). -/
def belvSlot (op : Nat) : Nat := if op < 0x40 then 0 else if op < 0x80 then 1 else 2

/-- The fields of a form BR word (23 Table 23-1). -/
def wordBr (w : BitVec 32) : BrOp :=
  ⟨w.extractLsb' 18 6, w.extractLsb' 12 6, w.extractLsb' 6 6, w.extractLsb' 3 3, w.extractLsb' 0 3⟩

/-- The fields of a form BI or BJ word. -/
def wordBi (w : BitVec 32) : BiOp := ⟨w.extractLsb' 18 6, w.extractLsb' 0 18⟩

/-- The fields of a form BL word; bits 17:16 are checked by the decoder. -/
def wordBl (w : BitVec 32) : BlOp := ⟨w.extractLsb' 18 6, w.extractLsb' 0 16⟩

/-- The scalar operations GADD to GCMPEQ: MOD[2] = 0, MOD[1] = 0 but for GCMPLT, G = 0, g registers in range
(23 R446, R447, R451). -/
def belvScalarOk (op : Nat) (o : BrOp) : Bool :=
  decide (o.d.toNat < 32) && decide (o.a.toNat < 32) && o.g == 0 && !o.m.getLsbD 2 &&
    (!o.m.getLsbD 1 || op == 0x09) && (o.m.getLsbD 0 || decide (o.b.toNat < 32))

/-- The B operand of a P operation: g[B] with MOD[1] = 1, else k[B] (23 R457). -/
def belvPB (o : BrOp) : Bool := !o.m.getLsbD 1 || decide (o.b.toNat < 32)

/-- The operand checks of a form BR operation (23 R446, R447, R451-R464). -/
def belvBrOk (op : Nat) (o : BrOp) : Bool :=
  if op ≤ 0x0A then belvScalarOk op o
  else if op = 0x0F then belvScalarOk op o
  else if op = 0x10 then decide (o.d.toNat < 32) && o.a == 0 && o.g == 0 && o.m == 0 && decide (o.b.toNat < 32)
  else if op = 0x11 then o.d == 0 && o.a == 0 && o.b == 0 && o.g == 0 && o.m == 0
  else if op = 0x46 then decide (o.d.toNat < 8) && !o.m.getLsbD 2 && belvPB o
  else if (0x40 ≤ op ∧ op ≤ 0x47) ∨ op = 0x49 then !o.m.getLsbD 2 && belvPB o
  else if op = 0x48 then o.b == 0 && decide (o.m.toNat ≤ 4)
  else if op = 0x4A ∨ op = 0x4B then o.b == 0 && !o.m.getLsbD 2 && !o.m.getLsbD 1
  else if op = 0x4C then o.a == 0 && o.b == 0 && !o.m.getLsbD 2 && !o.m.getLsbD 1
  else if op = 0x4D then decide (o.a.toNat < 32) && o.b == 0 && !o.m.getLsbD 2 && !o.m.getLsbD 1
  else if op = 0x4E then
    decide (o.d.toNat ≤ 61) && decide (o.a.toNat ≤ 61) && decide (o.b.toNat < 8) && o.m == 0
  else if op = 0x80 ∨ op = 0x81 then
    decide (o.a.toNat < 32) && (o.m.getLsbD 0 || decide (o.b.toNat < 32)) && !o.m.getLsbD 1 && !o.m.getLsbD 2
  else if op = 0x82 then
    decide (o.m.toNat ≤ 2) && (o.m != 0 || decide (o.d.toNat % 4 = 0)) && (o.m != 2 || decide (o.d.toNat % 2 = 0))
  else if op = 0x83 then decide (o.b.toNat < 32) && o.m == 0
  else if op = 0x84 then decide (o.m.toNat ≤ 1) && decide (o.d.toNat % 4 = 0)
  else if op = 0x85 ∨ op = 0x86 then
    decide (o.d.toNat < 8) && decide (o.a.toNat < 32) && o.b == 0 && o.g == 0 && o.m == 0
  else if op = 0x87 ∨ op = 0x88 then
    decide (o.d.toNat < 8) && decide (o.a.toNat < 8) && decide (o.b.toNat < 8) && o.g == 0 && decide (o.m.toNat ≤ 1) &&
      o.d != o.a && o.d != o.b
  else if op = 0x89 then
    decide (o.d.toNat < 32) && decide (o.a.toNat % 4 = 0) && decide (o.b.toNat < 32) && !o.m.getLsbD 1 && !o.m.getLsbD 2
  else if op = 0x8A then o.d == 0 && o.a == 0 && o.b == 0 && o.g == 0 && o.m == 0
  else if op = 0x8B then o.d == 0 && decide (o.a.toNat < 32) && o.b == 0 && o.g == 0 && o.m == 0
  else false

/-- The operand checks of forms BI and BJ: g registers in range, BRF's mode 0 to 2 (23 R452, R453). -/
def belvBiOk (op : Nat) (o : BiOp) : Bool :=
  if op = 0x0D then decide (o.d.toNat % 8 ≤ 2) else decide (o.d.toNat < 32)

/-- Decode a Belvedere slot word; the map is fixed (23 R449). -/
noncomputable def decodeBelv (slot : Nat) (w : BitVec 32) : Except DecodeErr Instr :=
  let op := (w.extractLsb' 24 8).toNat
  if op = 0 then .ok (.belvNop (w.extractLsb' 0 24))
  else match belvTable.lookup op with
    | none => .error .opcodeInvalid
    | some mk =>
      if belvSlot op = slot then
        match mk with
        | .br f => if belvBrOk op (wordBr w) then .ok (f (wordBr w)) else .error .operandInvalid
        | .bi f => if belvBiOk op (wordBi w) then .ok (f (wordBi w)) else .error .operandInvalid
        | .bj f => if belvBiOk op (wordBi w) then .ok (f (wordBi w)) else .error .operandInvalid
        | .bl f =>
          if w.extractLsb' 16 2 = 0 ∧ (wordBl w).len ≠ 0 ∧ (wordBl w).d.toNat < 32 then .ok (f (wordBl w))
          else .error .operandInvalid
      else .error .slotClass

/-! ### Encoders -/

/-- The encoding fields of an operation: its opcode and its form. -/
inductive Enc where
  | nop (x : BitVec 22)
  | a3 (op : Nat) (o : A3)
  | atom (op : Nat) (o : AtomOp)
  | j19 (op : Nat) (o : J19)
  | lp (op : Nat) (o : LpOp)
  | c16 (op : Nat) (o : C16)
  | bnop (x : BitVec 24)
  | br (op : Nat) (o : BrOp)
  | bi (op : Nat) (o : BiOp)
  | bl (op : Nat) (o : BlOp)
  | step
deriving DecidableEq, Repr

/-- The opcode and form of every operation; the machine's own steps have no encoding (05 Tables 5-1 to 5-4,
23 Table 23-3). -/
def Instr.enc : Instr → Enc
  | .deviceReset _ => .step
  | .bringupPhaseComplete _ => .step
  | .attestationRequest _ => .step
  | .keyBlobInstall _ _ => .step
  | .cxlLinkTraining _ _ => .step
  | .hostCacheWriteSnoop _ _ => .step
  | .hostCxlMemAccess _ _ _ _ => .step
  | .registerWrite _ _ _ => .step
  | .lqcfgEnable _ _ _ => .step
  | .lqcfgDisable _ => .step
  | .lqtailWrite _ _ => .step
  | .lqEntryRead _ => .step
  | .launchDescriptorCheck _ => .step
  | .argCopy _ => .step
  | .gangPlacement => .step
  | .victimTileSave _ => .step
  | .teamSwitchIn _ => .step
  | .blockParkTimeout _ => .step
  | .teamWake _ => .step
  | .bundleFetch _ => .step
  | .coreClockGate _ => .step
  | .coreWake _ => .step
  | .overlayFill _ _ => .step
  | .faultReport _ => .step
  | .gangFenceCheckpoint _ => .step
  | .debugStop _ => .step
  | .dbgresResume _ _ => .step
  | .dbgresStep _ _ => .step
  | .teamSlotFree _ => .step
  | .wqbindEnable _ _ _ => .step
  | .wqbindDisable _ _ _ => .step
  | .wqCloseWriteback _ _ => .step
  | .wqAgeExpiry _ _ => .step
  | .tlslotHostWrite _ _ _ => .step
  | .partctlShadowWrite _ _ => .step
  | .partctlHalt _ => .step
  | .partitionHalted _ => .step
  | .partctlSave _ => .step
  | .partitionSaved _ => .step
  | .partctlRestore _ => .step
  | .partitionRestored _ => .step
  | .partctlResume _ => .step
  | .partctlStart _ => .step
  | .partctlStop _ => .step
  | .tlbiGo _ _ => .step
  | .tlbiComplete _ => .step
  | .fxcfgWrite _ => .step
  | .ilimcfgWrite _ => .step
  | .domcfgWrite _ => .step
  | .collrstWrite _ _ => .step
  | .dbgholdHold => .step
  | .dbgholdRelease => .step
  | .holdNoticeReceived _ => .step
  | .releaseNoticeReceived _ => .step
  | .collectiveEnd _ _ _ _ _ => .step
  | .collectiveExpiry _ _ => .step
  | .remoteAccessIncoming _ _ => .step
  | .remoteResponse _ _ => .step
  | .remoteTimeout _ => .step
  | .remoteStoreAck _ _ => .step
  | .copyStart _ => .step
  | .copyComplete _ => .step
  | .trellisArrayGrant _ => .step
  | .trellisPortGrant _ => .step
  | .trellisCommandComplete _ _ => .step
  | .codebookFill _ => .step
  | .walkerEntry _ _ => .step
  | .rayTraversal _ _ => .step
  | .splatJobStart _ => .step
  | .splatJobEnd _ => .step
  | .l2LineEvict _ => .step
  | .recipeStorePerform _ => .step
  | .memoryUncorrectableError _ _ => .step
  | .thermalSample _ _ _ => .step
  | .headctlEnable _ _ _ => .step
  | .headctlDisable _ _ => .step
  | .headStopped _ => .step
  | .hpdChange _ _ => .step
  | .lineTick _ => .step
  | .bandStart _ => .step
  | .matrixEngineServe => .step
  | .poseMailboxWrite _ _ _ _ _ => .step
  | .poseMailboxCommit _ _ _ => .step
  | .trcctlEnable _ => .step
  | .trcctlDisable _ => .step
  | .traceLinkReady => .step
  | .traceLinkLost => .step
  | .nop x => .nop x
  | .sadd o => .a3 0x001 o
  | .ssub o => .a3 0x002 o
  | .smul o => .a3 0x003 o
  | .smulh o => .a3 0x004 o
  | .smulhn o => .a3 0x005 o
  | .sdiv o => .a3 0x006 o
  | .sdivn o => .a3 0x007 o
  | .srem o => .a3 0x008 o
  | .sremn o => .a3 0x009 o
  | .sand o => .a3 0x00A o
  | .sor o => .a3 0x00B o
  | .sxor o => .a3 0x00C o
  | .sandn o => .a3 0x00D o
  | .sshl o => .a3 0x00E o
  | .sshr o => .a3 0x00F o
  | .ssra o => .a3 0x010 o
  | .smin o => .a3 0x011 o
  | .smax o => .a3 0x012 o
  | .sminn o => .a3 0x013 o
  | .smaxn o => .a3 0x014 o
  | .sabs o => .a3 0x015 o
  | .spopc o => .a3 0x016 o
  | .sclz o => .a3 0x017 o
  | .sctz o => .a3 0x018 o
  | .sbfx o => .a3 0x019 o
  | .sbfi o => .a3 0x01A o
  | .ssel o => .a3 0x01B o
  | .scmpeq o => .a3 0x01C o
  | .scmpne o => .a3 0x01D o
  | .scmplt o => .a3 0x01E o
  | .scmple o => .a3 0x01F o
  | .scmpltn o => .a3 0x020 o
  | .scmplen o => .a3 0x021 o
  | .cand o => .a3 0x022 o
  | .cor o => .a3 0x023 o
  | .cxor o => .a3 0x024 o
  | .cnot o => .a3 0x025 o
  | .smov o => .a3 0x026 o
  | .smovi o => .c16 0x027 o
  | .smovh o => .c16 0x028 o
  | .br o => .j19 0x040 o
  | .brnot o => .j19 0x041 o
  | .call o => .j19 0x042 o
  | .ret o => .a3 0x043 o
  | .jidx o => .a3 0x044 o
  | .vjidx o => .a3 0x045 o
  | .djoin o => .a3 0x046 o
  | .loopOp o => .lp 0x047 o
  | .loopw o => .lp 0x048 o
  | .lbrk o => .a3 0x049 o
  | .mpush o => .a3 0x04A o
  | .minv o => .a3 0x04B o
  | .mpop o => .a3 0x04C o
  | .mbez o => .j19 0x04D o
  | .mread o => .a3 0x04E o
  | .tfork o => .a3 0x04F o
  | .tjoin o => .a3 0x050 o
  | .endOp o => .a3 0x051 o
  | .wnext o => .a3 0x052 o
  | .yield o => .a3 0x053 o
  | .trap o => .a3 0x054 o
  | .tret o => .a3 0x055 o
  | .bkpt o => .a3 0x056 o
  | .ckpt o => .a3 0x057 o
  | .setf o => .a3 0x058 o
  | .movc o => .a3 0x059 o
  | .setc o => .a3 0x05A o
  | .movtc o => .a3 0x05B o
  | .movbd o => .a3 0x05C o
  | .vaddI32 o => .a3 0x100 o
  | .vaddI64 o => .a3 0x101 o
  | .vsubI32 o => .a3 0x102 o
  | .vsubI64 o => .a3 0x103 o
  | .vaddsS32 o => .a3 0x104 o
  | .vaddsN32 o => .a3 0x105 o
  | .vsubsS32 o => .a3 0x106 o
  | .vsubsN32 o => .a3 0x107 o
  | .vmulI32 o => .a3 0x108 o
  | .vmulI64 o => .a3 0x109 o
  | .vmulhS32 o => .a3 0x10A o
  | .vmulhN32 o => .a3 0x10B o
  | .vmadI32 o => .a3 0x10C o
  | .vminS32 o => .a3 0x10D o
  | .vminN32 o => .a3 0x10E o
  | .vminS64 o => .a3 0x10F o
  | .vminN64 o => .a3 0x110 o
  | .vmaxS32 o => .a3 0x111 o
  | .vmaxN32 o => .a3 0x112 o
  | .vmaxS64 o => .a3 0x113 o
  | .vmaxN64 o => .a3 0x114 o
  | .vabsS32 o => .a3 0x115 o
  | .vabsS64 o => .a3 0x116 o
  | .vandB32 o => .a3 0x117 o
  | .vorB32 o => .a3 0x118 o
  | .vxorB32 o => .a3 0x119 o
  | .vandnB32 o => .a3 0x11A o
  | .vshlB32 o => .a3 0x11B o
  | .vshlB64 o => .a3 0x11C o
  | .vshrB32 o => .a3 0x11D o
  | .vshrB64 o => .a3 0x11E o
  | .vsraS32 o => .a3 0x11F o
  | .vsraS64 o => .a3 0x120 o
  | .vpopcB32 o => .a3 0x121 o
  | .vclzB32 o => .a3 0x122 o
  | .vbfxS32 o => .a3 0x123 o
  | .vbfxN32 o => .a3 0x124 o
  | .vbfiB32 o => .a3 0x125 o
  | .vcmpeqI32 o => .a3 0x126 o
  | .vcmpeqI64 o => .a3 0x127 o
  | .vcmpneI32 o => .a3 0x128 o
  | .vcmpneI64 o => .a3 0x129 o
  | .vcmpltS32 o => .a3 0x12A o
  | .vcmpltN32 o => .a3 0x12B o
  | .vcmpltS64 o => .a3 0x12C o
  | .vcmpltN64 o => .a3 0x12D o
  | .vcmpleS32 o => .a3 0x12E o
  | .vcmpleN32 o => .a3 0x12F o
  | .vcmpleS64 o => .a3 0x130 o
  | .vcmpleN64 o => .a3 0x131 o
  | .vselB32 o => .a3 0x132 o
  | .vselB64 o => .a3 0x133 o
  | .faddF32 o => .a3 0x140 o
  | .faddF64 o => .a3 0x141 o
  | .faddH2 o => .a3 0x142 o
  | .faddBh2 o => .a3 0x143 o
  | .fsubF32 o => .a3 0x144 o
  | .fsubF64 o => .a3 0x145 o
  | .fsubH2 o => .a3 0x146 o
  | .fsubBh2 o => .a3 0x147 o
  | .fmulF32 o => .a3 0x148 o
  | .fmulF64 o => .a3 0x149 o
  | .fmulH2 o => .a3 0x14A o
  | .fmulBh2 o => .a3 0x14B o
  | .ffmaF32 o => .a3 0x14C o
  | .ffmaF64 o => .a3 0x14D o
  | .ffmaH2 o => .a3 0x14E o
  | .ffmaBh2 o => .a3 0x14F o
  | .fminF32 o => .a3 0x150 o
  | .fminF64 o => .a3 0x151 o
  | .fminH2 o => .a3 0x152 o
  | .fminBh2 o => .a3 0x153 o
  | .fmaxF32 o => .a3 0x154 o
  | .fmaxF64 o => .a3 0x155 o
  | .fmaxH2 o => .a3 0x156 o
  | .fmaxBh2 o => .a3 0x157 o
  | .fcmpeqF32 o => .a3 0x158 o
  | .fcmpeqF64 o => .a3 0x159 o
  | .fcmpltF32 o => .a3 0x15A o
  | .fcmpltF64 o => .a3 0x15B o
  | .fcmpleF32 o => .a3 0x15C o
  | .fcmpleF64 o => .a3 0x15D o
  | .fcmpunF32 o => .a3 0x15E o
  | .fcmpunF64 o => .a3 0x15F o
  | .frndF32 o => .a3 0x160 o
  | .frndF64 o => .a3 0x161 o
  | .fclassF32 o => .a3 0x162 o
  | .fclassF64 o => .a3 0x163 o
  | .fdot4B8x4 o => .a3 0x164 o
  | .fdot2H2 o => .a3 0x165 o
  | .fdot2Bh2 o => .a3 0x166 o
  | .frcpF32 o => .a3 0x170 o
  | .frcpF64 o => .a3 0x171 o
  | .frsqF32 o => .a3 0x172 o
  | .frsqF64 o => .a3 0x173 o
  | .fsqrtF32 o => .a3 0x174 o
  | .fsqrtF64 o => .a3 0x175 o
  | .fdivF32 o => .a3 0x176 o
  | .fdivF64 o => .a3 0x177 o
  | .fexp2F32 o => .a3 0x178 o
  | .flog2F32 o => .a3 0x179 o
  | .fsinpF32 o => .a3 0x17A o
  | .fcospF32 o => .a3 0x17B o
  | .cvtS32 o => .a3 0x180 o
  | .cvtN32 o => .a3 0x181 o
  | .cvtS64 o => .a3 0x182 o
  | .cvtN64 o => .a3 0x183 o
  | .cvtF64 o => .a3 0x184 o
  | .cvtF32 o => .a3 0x185 o
  | .cvtF16 o => .a3 0x186 o
  | .cvtBf16 o => .a3 0x187 o
  | .cvtB8 o => .a3 0x188 o
  | .cvtsrB8 o => .a3 0x189 o
  | .cvtsrBf16 o => .a3 0x18A o
  | .cvtsrF16 o => .a3 0x18B o
  | .vpackB8x4 o => .a3 0x18C o
  | .vpackH2 o => .a3 0x18D o
  | .vpackBh2 o => .a3 0x18E o
  | .vunpkB8x4 o => .a3 0x18F o
  | .vunpkH2 o => .a3 0x190 o
  | .vunpkBh2 o => .a3 0x191 o
  | .vmovB32 o => .a3 0x1A0 o
  | .vmovB64 o => .a3 0x1A1 o
  | .vmovsB32 o => .a3 0x1A2 o
  | .vmovsB64 o => .a3 0x1A3 o
  | .vlane o => .a3 0x1A4 o
  | .vldix o => .a3 0x1A5 o
  | .vstix o => .a3 0x1A6 o
  | .pand o => .a3 0x1A7 o
  | .por o => .a3 0x1A8 o
  | .pxor o => .a3 0x1A9 o
  | .pandn o => .a3 0x1AA o
  | .pmovv o => .a3 0x1AB o
  | .vmovp o => .a3 0x1AC o
  | .xperm o => .a3 0x1B0 o
  | .xbcast o => .a3 0x1B1 o
  | .xswz o => .a3 0x1B2 o
  | .xany o => .a3 0x1B3 o
  | .xall o => .a3 0x1B4 o
  | .xballot o => .a3 0x1B5 o
  | .xredI32 o => .a3 0x1B6 o
  | .xredF32 o => .a3 0x1B7 o
  | .xredminS32 o => .a3 0x1B8 o
  | .xredminN32 o => .a3 0x1B9 o
  | .xredminF32 o => .a3 0x1BA o
  | .xredmaxS32 o => .a3 0x1BB o
  | .xredmaxN32 o => .a3 0x1BC o
  | .xredmaxF32 o => .a3 0x1BD o
  | .xscanI32 o => .a3 0x1BE o
  | .xscanF32 o => .a3 0x1BF o
  | .treord o => .a3 0x1C0 o
  | .rsvupd o => .a3 0x1D0 o
  | .rsvmrg o => .a3 0x1D1 o
  | .ldB8 o => .a3 0x280 o
  | .ldB16 o => .a3 0x281 o
  | .ldB32 o => .a3 0x282 o
  | .ldB64 o => .a3 0x283 o
  | .ldB128 o => .a3 0x284 o
  | .stB8 o => .a3 0x285 o
  | .stB16 o => .a3 0x286 o
  | .stB32 o => .a3 0x287 o
  | .stB64 o => .a3 0x288 o
  | .stB128 o => .a3 0x289 o
  | .ldvB32 o => .a3 0x28A o
  | .ldvB64 o => .a3 0x28B o
  | .ldvB128 o => .a3 0x28C o
  | .stvB32 o => .a3 0x28D o
  | .stvB64 o => .a3 0x28E o
  | .stvB128 o => .a3 0x28F o
  | .ldgsB32 o => .a3 0x290 o
  | .ldgsB64 o => .a3 0x291 o
  | .ldgsB128 o => .a3 0x292 o
  | .stgsB32 o => .a3 0x293 o
  | .stgsB64 o => .a3 0x294 o
  | .stgsB128 o => .a3 0x295 o
  | .sldB32 o => .a3 0x296 o
  | .sldB64 o => .a3 0x297 o
  | .sstB32 o => .a3 0x298 o
  | .sstB64 o => .a3 0x299 o
  | .ldaB32 o => .atom 0x29A o
  | .ldaB64 o => .atom 0x29B o
  | .stlB32 o => .atom 0x29C o
  | .stlB64 o => .atom 0x29D o
  | .ldroB32 o => .a3 0x29E o
  | .ldroB64 o => .a3 0x29F o
  | .ldroB128 o => .a3 0x2A0 o
  | .pref o => .a3 0x2A1 o
  | .qinit o => .a3 0x2B0 o
  | .qcommit o => .a3 0x2B1 o
  | .qpop o => .a3 0x2B2 o
  | .wbind o => .a3 0x2B3 o
  | .wstart o => .a3 0x2B4 o
  | .wstop o => .a3 0x2B5 o
  | .cpy o => .a3 0x2B6 o
  | .cpyy o => .a3 0x2B7 o
  | .lock o => .a3 0x2B8 o
  | .unlock o => .a3 0x2B9 o
  | .cflush o => .a3 0x2BA o
  | .cinvro o => .a3 0x2BB o
  | .tld o => .a3 0x2C0 o
  | .tst o => .a3 0x2C1 o
  | .tzero o => .a3 0x2C2 o
  | .tmma o => .a3 0x2C3 o
  | .tmmaq o => .a3 0x2C4 o
  | .tmmav o => .a3 0x2C5 o
  | .tchain o => .a3 0x2C6 o
  | .tcvt o => .a3 0x2C7 o
  | .ttov o => .a3 0x2C8 o
  | .vtot o => .a3 0x2C9 o
  | .cbload o => .a3 0x2CA o
  | .seal o => .a3 0x2D0 o
  | .rpin o => .a3 0x2D1 o
  | .runpin o => .a3 0x2D2 o
  | .rdrop o => .a3 0x2D3 o
  | .rstat o => .a3 0x2D4 o
  | .rdone o => .a3 0x2D5 o
  | .atomaddI32 o => .atom 0x2E0 o
  | .atomaddI64 o => .atom 0x2E1 o
  | .atomaddF32 o => .atom 0x2E2 o
  | .atomminS32 o => .atom 0x2E3 o
  | .atomminN32 o => .atom 0x2E4 o
  | .atommaxS32 o => .atom 0x2E5 o
  | .atommaxN32 o => .atom 0x2E6 o
  | .atomandB32 o => .atom 0x2E7 o
  | .atomorB32 o => .atom 0x2E8 o
  | .atomxorB32 o => .atom 0x2E9 o
  | .atomxchgB32 o => .atom 0x2EA o
  | .atomxchgB64 o => .atom 0x2EB o
  | .atomcasB32 o => .atom 0x2EC o
  | .atomcasB64 o => .atom 0x2ED o
  | .fence o => .atom 0x2EE o
  | .fencero o => .atom 0x2EF o
  | .tlsig o => .atom 0x2F0 o
  | .tlwait o => .atom 0x2F1 o
  | .tlread o => .a3 0x2F2 o
  | .bararv o => .a3 0x2F3 o
  | .barwt o => .a3 0x2F4 o
  | .bufacq o => .a3 0x2F5 o
  | .bufrel o => .a3 0x2F6 o
  | .wqpush o => .a3 0x2F7 o
  | .launch o => .a3 0x2F8 o
  | .rayq o => .a3 0x300 o
  | .rayqd o => .a3 0x301 o
  | .raycand o => .a3 0x302 o
  | .rayacc o => .a3 0x303 o
  | .rayfin o => .a3 0x304 o
  | .splatq o => .a3 0x305 o
  | .splatrun o => .a3 0x306 o
  | .sample o => .a3 0x307 o
  | .sampleg o => .a3 0x308 o
  | .samplel o => .a3 0x309 o
  | .coll o => .a3 0x310 o
  | .belvNop x => .bnop x
  | .gadd o => .br 0x01 o
  | .gsub o => .br 0x02 o
  | .gmul o => .br 0x03 o
  | .gand o => .br 0x04 o
  | .gor o => .br 0x05 o
  | .gxor o => .br 0x06 o
  | .gshl o => .br 0x07 o
  | .gshr o => .br 0x08 o
  | .gcmplt o => .br 0x09 o
  | .gcmpeq o => .br 0x0A o
  | .gmovi o => .bi 0x0B o
  | .belvBr o => .bi 0x0C o
  | .brf o => .bi 0x0D o
  | .belvLoop o => .bl 0x0E o
  | .waittk o => .br 0x0F o
  | .pose o => .br 0x10 o
  | .bend o => .br 0x11 o
  | .padd o => .br 0x40 o
  | .psub o => .br 0x41 o
  | .pmul o => .br 0x42 o
  | .pfma o => .br 0x43 o
  | .pmin o => .br 0x44 o
  | .pmax o => .br 0x45 o
  | .pcmplt o => .br 0x46 o
  | .psel o => .br 0x47 o
  | .pcvt o => .br 0x48 o
  | .plerp o => .br 0x49 o
  | .prcp o => .br 0x4A o
  | .prsq o => .br 0x4B o
  | .plane o => .br 0x4C o
  | .pmovg o => .br 0x4D o
  | .pxform o => .br 0x4E o
  | .lld o => .br 0x80 o
  | .lst o => .br 0x81 o
  | .xfetch o => .br 0x82 o
  | .gather o => .br 0x83 o
  | .warps o => .br 0x84 o
  | .mld o => .br 0x85 o
  | .mst o => .br 0x86 o
  | .mmul o => .br 0x87 o
  | .mconv o => .br 0x88 o
  | .emit o => .br 0x89 o
  | .fbwait o => .br 0x8A o
  | .fallbk o => .br 0x8B o
  | .powerLoss => .step

/-- The static operand checks of an operation: what decoding refuses as OPERAND_INVALID from the word and header alone.
A step of the machine itself is not an encoded operation and has none. -/
def Instr.wf (i : Instr) : Bool :=
  match i.enc with
  | .a3 op o => a3Ok op o
  | .atom op o => atomOk op o
  | .lp op o => lpOk op o
  | .br op o => belvBrOk op o
  | .bi op o => belvBiOk op o
  | .bl _ o => o.len != 0 && decide (o.d.toNat < 32)
  | _ => true

/-- The B field and K bit of an A3 word. -/
def SrcB.bits : SrcB → BitVec 7
  | .reg x => x.extractLsb' 0 6 ++ 0#1
  | .imm i => i ++ 1#1
  | .lit sel _ => 0#4 ++ sel ++ 1#1

/-- The extension bits of the B field. -/
def SrcB.ext : SrcB → BitVec 2
  | .reg x => x.extractLsb' 6 2
  | _ => 0

/-- The slot word of an encoded operation (04 Table 4-2, 23 Table 23-1); 0 for a step of the machine itself. -/
def Enc.word : Enc → BitVec 32
  | .nop x => 0#10 ++ x
  | .a3 op o => BitVec.ofNat 10 op ++ o.g ++ o.d.extractLsb' 0 6 ++ o.a.extractLsb' 0 6 ++ o.b.bits
  | .atom op o =>
    BitVec.ofNat 10 op ++ o.g ++ o.d.extractLsb' 0 6 ++ o.a.extractLsb' 0 6 ++ o.scope ++ BitVec.ofBool o.nr ++ 0#3
  | .j19 op o => BitVec.ofNat 10 op ++ o.g ++ o.off
  | .lp op o => BitVec.ofNat 10 op ++ o.n ++ o.len
  | .c16 op o => BitVec.ofNat 10 op ++ o.d ++ o.imm
  | .bnop x => 0#8 ++ x
  | .br op o => BitVec.ofNat 8 op ++ o.d ++ o.a ++ o.b ++ o.g ++ o.m
  | .bi op o => BitVec.ofNat 8 op ++ o.d ++ o.i
  | .bl op o => BitVec.ofNat 8 op ++ o.d ++ 0#2 ++ o.len
  | .step => 0

/-- What the operation needs of its bundle's header: extensions, LS and the literal word (04 R95, R96). -/
def Enc.ctx : Enc → SlotCtx
  | .a3 _ o =>
    match o.b with
    | .lit _ w => ⟨o.d.extractLsb' 6 2, o.a.extractLsb' 6 2, 0, true, w⟩
    | b => ⟨o.d.extractLsb' 6 2, o.a.extractLsb' 6 2, b.ext, false, 0⟩
  | .atom _ o => ⟨o.d.extractLsb' 6 2, o.a.extractLsb' 6 2, 0, false, 0⟩
  | _ => .none

/-- The slot word of an operation. -/
def encode (i : Instr) : BitVec 32 := i.enc.word

/-- The header context an operation's word is read under. -/
def encodeCtx (i : Instr) : SlotCtx := i.enc.ctx

/-- A slot that accepts the operation: 0 for class 0, 1 for class 1, 2 for class 2, 3 for class 3; the C, P or L slot
of a Belvedere operation. -/
def Instr.homeSlot (i : Instr) : Nat :=
  match i.enc with
  | .a3 op _ => opClassOf op
  | .atom op _ => opClassOf op
  | .br op _ => belvSlot op
  | _ => 0

/-- Whether an operation is one of Belvedere's. -/
def Instr.isBelv (i : Instr) : Bool :=
  match i.enc with
  | .bnop _ => true
  | .br _ _ => true
  | .bi _ _ => true
  | .bl _ _ => true
  | _ => false

/-- Read a word as the bundle holding it alone would be read: the slot of its map-0 class, no header, map 0. -/
noncomputable def decodeSimtWord (w : BitVec 32) : Option Instr :=
  match mapEntry none (wordOp w) with
  | .op n => (decodeSlot none (if opClassOf n = 3 then 3 else opClassOf n) .none w).toOption
  | .nop => some (.nop (w.extractLsb' 0 22))
  | .invalid => none

/-- Read a word as a Belvedere slot word in the slot its opcode belongs to. -/
noncomputable def decodeBelvWord (w : BitVec 32) : Option Instr :=
  (decodeBelv (belvSlot (w.extractLsb' 24 8).toNat) w).toOption

/-- The instruction the decoders read from a table word: the cores' map 0 first, and Belvedere's map for a word that
map 0 refuses (the two instruction sets share the same 32-bit words; DESIGN CHOICE, log 3). A row the table gives no bits, or a width
other than 32, names a step of the machine, which no word encodes. -/
noncomputable def decodeTableWord (nbits w : Nat) : Option Instr :=
  if nbits = 32 ∧ w < 2 ^ 32 then
    match decodeSimtWord (BitVec.ofNat 32 w) with
    | some i => some i
    | none => decodeBelvWord (BitVec.ofNat 32 w)
  else none

/-! ### Operands as the dispatch checks see them (01 R28) -/

/-- One more than the highest vector register the operation names directly. -/
def Instr.vTop (i : Instr) : Nat :=
  match i.enc with
  | .a3 op o =>
    let b := match (sigOf op).b, o.b with
      | .regOnly c, .reg x => c.vTop x
      | .value c _, .reg x => c.vTop x
      | .b8x4 c, .reg x => c.vTop x
      | _, _ => 0
    let d := if op = 0x1C0 then o.d.toNat + o.b.code + 1 else (sigOf op).d.vTop o.d
    max d (max ((aClass op o).vTop o.a) b)
  | .atom op o => max ((sigOf op).d.vTop o.d) ((atomAClass op o).vTop o.a)
  | _ => 0

/-- One more than the highest tile or tile control register the operation names (01 R28). -/
def Instr.tTop (i : Instr) : Nat :=
  match i.enc with
  | .a3 op o =>
    let d := if op = 0x05B ∨ (0x2C0 ≤ op ∧ op ≤ 0x2C7) ∨ op = 0x2C9 then o.d.toNat + 1 else 0
    let a := if (0x2C3 ≤ op ∧ op ≤ 0x2C5) ∨ op = 0x2C7 ∨ op = 0x2C8 then o.a.toNat + 1 else 0
    let b := if 0x2C3 ≤ op ∧ op ≤ 0x2C5 then o.b.code + 1 else 0
    max d (max a b)
  | _ => 0

/-- The guard field of an operation that has one. -/
def Instr.guard (i : Instr) : BitVec 3 :=
  match i.enc with
  | .a3 _ o => o.g
  | .atom _ o => o.g
  | .j19 _ o => o.g
  | _ => 0

/-- The map-0 opcode of a slot operation, 0 for NOP and for anything else. -/
def Instr.opNum (i : Instr) : Nat :=
  match i.enc with
  | .a3 op _ => op
  | .atom op _ => op
  | .j19 op _ => op
  | .lp op _ => op
  | .c16 op _ => op
  | _ => 0

end Sys2Proof
end

