-- ==== Sys2Proof/Machine/Table.lean ====
section
/-!
DEFINITION. Sparse tables and memories as plain data. A table is a list of keys and values; a memory is a list of
addresses and bytes in one canonical form: addresses strictly rising and no entry equal to what an unlisted address
reads as, which is the zero byte (00 R6, 26 R474: storage is zeroed by a device reset; DESIGN CHOICE, log 6).
-/

namespace Sys2Proof.Machine

/-- The value at key k, `d` where the table does not list it. -/
def tget {α : Type} (d : α) : Table α → Nat → α
  | [], _ => d
  | (j, v) :: r, k => if j = k then v else if k < j then d else tget d r k

/-- The value at key k, if listed. -/
def tfind {α : Type} : Table α → Nat → Option α
  | [], _ => none
  | (j, v) :: r, k => if j = k then some v else if k < j then none else tfind r k

/-- The table with v at key k. -/
def tset {α : Type} : Table α → Nat → α → Table α
  | [], k, v => [(k, v)]
  | (j, w) :: r, k, v => if j = k then (k, v) :: r else if k < j then (k, v) :: (j, w) :: r else (j, w) :: tset r k v

/-- The table without key k. -/
def tdel {α : Type} : Table α → Nat → Table α
  | [], _ => []
  | (j, w) :: r, k => if j = k then r else if k < j then (j, w) :: r else (j, w) :: tdel r k

/-- The table with `f` applied at key k, where it is listed. -/
def tmod {α : Type} : Table α → Nat → (α → α) → Table α
  | [], _, _ => []
  | (j, w) :: r, k, f => if j = k then (k, f w) :: r else if k < j then (j, w) :: r else (j, w) :: tmod r k f

/-- Keys strictly rising. -/
def tsorted {α : Type} : Table α → Bool
  | [] => true
  | [_] => true
  | (a, _) :: (b, w) :: r => decide (a < b) && tsorted ((b, w) :: r)

/-- A memory: the bytes that differ from zero, by rising address. -/
abbrev Memory := List Host.Cell

/-- One byte of a memory; an unlisted address reads zero. -/
def Memory.read (m : Memory) (a : Nat) : Byte := tget 0 m a

/-- A memory with one byte written; writing zero unlists the address. -/
def Memory.write (m : Memory) (a : Nat) (b : Byte) : Memory := if b = 0 then tdel m a else tset m a b

/-- The canonical form: addresses strictly rising, no zero byte listed. -/
def Memory.wf (m : Memory) : Bool := tsorted m && m.all (fun c => c.2 != 0)

/-- `n` bytes from address a, lowest first. -/
def Memory.readBytes (m : Memory) (a : Nat) : Nat → List Byte
  | 0 => []
  | n + 1 => Memory.read m a :: Memory.readBytes m (a + 1) n

/-- A memory with bytes written from address a, lowest first. -/
def Memory.writeBytes (m : Memory) (a : Nat) : List Byte → Memory
  | [] => m
  | b :: r => Memory.writeBytes (Memory.write m a b) (a + 1) r

/-- The little-endian number of a byte list (00 R10). -/
def bytesNat : List Byte → Nat
  | [] => 0
  | b :: r => b.toNat + 256 * bytesNat r

/-- The low n bytes of a number, lowest first (00 R10). -/
def natBytes (x : Nat) : Nat → List Byte
  | 0 => []
  | n + 1 => BitVec.ofNat 8 x :: natBytes (x / 256) n

/-- Bits hi..lo of a number. -/
def bitsOf (x hi lo : Nat) : Nat := (x / 2 ^ lo) % 2 ^ (hi + 1 - lo)

/-- The little-endian field of `n` bytes at offset `off` of a byte list. -/
def fieldAt (l : List Byte) (off n : Nat) : Nat := bytesNat ((l.drop off).take n)

/-- Replace the bytes of a list from an offset on. -/
def setBytes (l : List Byte) (off : Nat) (d : List Byte) : List Byte :=
  l.take off ++ d ++ l.drop (off + d.length)

/-- The ceiling of a quotient. -/
def ceilDiv (a b : Nat) : Nat := (a + b - 1) / b

end Sys2Proof.Machine
end

