-- ==== Sys2Proof/Machine/State.lean ====
section
/-!
DEFINITION. The state of the machine as plain data: everything the spec gives it, each piece in one place, and the
state after reset (26 R474). Records named after a table of the spec hold that table's fields.
-/

namespace Sys2Proof.Machine

/-! ### Faults of the model's own interface -/

/-- Why a step stops. -/
inductive Fault where
  /-- Raised by `step` while the main rail is off (26 R476, 02 R68): nothing runs until a device reset restores power.
  Safe: the spec gives the dies no step without power. -/
  | railDown
deriving DecidableEq, Repr

/-- Why an instruction has no meaning. -/
inductive Refusal where
  /-- Raised by `exec` for an operation that has no meaning in the model. Safe. -/
  | notModelled (mnemonic : String)
deriving DecidableEq, Repr

/-! ### Fault codes -/

/-- The fault codes of 19 Table 19-3. -/
inductive FaultCode where
  | opcodeInvalid | slotClass | operandInvalid | dispatchRange | maskStack | maskMismatch | loopNest
  | xlate | permission | alignment | gangSpan | poison | keyInvalid | ringConfig
  | tileShape | tileBudget | chainOverflow | chainProgram | codebook
  | recipeDepth | recipeInvalid | recipeIllegal | recipeSealedWrite | recipeQuota
  | softwareTrap | breakpoint | doubleFault | rayRecord | replayDiverge | fabricError | collectiveTimeout
deriving DecidableEq, Repr, Inhabited

/-- The number of a fault code (19 Table 19-3). -/
def FaultCode.num : FaultCode → Nat
  | .opcodeInvalid => 0x01
  | .slotClass => 0x02
  | .operandInvalid => 0x03
  | .dispatchRange => 0x04
  | .maskStack => 0x05
  | .maskMismatch => 0x06
  | .loopNest => 0x07
  | .xlate => 0x10
  | .permission => 0x11
  | .alignment => 0x12
  | .gangSpan => 0x13
  | .poison => 0x14
  | .keyInvalid => 0x15
  | .ringConfig => 0x18
  | .tileShape => 0x20
  | .tileBudget => 0x21
  | .chainOverflow => 0x22
  | .chainProgram => 0x23
  | .codebook => 0x24
  | .recipeDepth => 0x30
  | .recipeInvalid => 0x31
  | .recipeIllegal => 0x32
  | .recipeSealedWrite => 0x33
  | .recipeQuota => 0x34
  | .softwareTrap => 0x40
  | .breakpoint => 0x41
  | .doubleFault => 0x42
  | .rayRecord => 0x50
  | .replayDiverge => 0x51
  | .fabricError => 0x60
  | .collectiveTimeout => 0x61

/-- The fault codes. -/
def FaultCode.all : List FaultCode :=
  [.opcodeInvalid, .slotClass, .operandInvalid, .dispatchRange, .maskStack, .maskMismatch, .loopNest, .xlate,
   .permission, .alignment, .gangSpan, .poison, .keyInvalid, .ringConfig, .tileShape, .tileBudget,
   .chainOverflow, .chainProgram, .codebook, .recipeDepth, .recipeInvalid, .recipeIllegal, .recipeSealedWrite, .recipeQuota,
   .softwareTrap, .breakpoint, .doubleFault, .rayRecord, .replayDiverge, .fabricError, .collectiveTimeout]

/-- The fault code of a number, `d` where no code has it. -/
def FaultCode.ofNum (n : Nat) (d : FaultCode) : FaultCode := (FaultCode.all.find? fun c => c.num == n).getD d

/-- One failure: its code and the address field that goes with it (19 Table 19-3). -/
structure Failure where
  code : FaultCode
  addr : Word
deriving DecidableEq, Repr, Inhabited

/-- A fault of a slot operation: failure, slot and lanes (19 R394). -/
structure FaultInfo where
  code : FaultCode
  addr : Word
  slot : Nat
  lanes : LaneMask
deriving DecidableEq, Repr, Inhabited

/-! ### Launch objects (01) -/

/-- One entry of the overlay table (01 Table 1-2). -/
structure OvlEntry where
  first : Nat
  count : Nat
  preload : Bool
deriving DecidableEq, Repr, Inhabited

/-- What Fordom keeps of a kernel image (01 Table 1-1, R25, R26). `trapVec` is none for 0xFFFF_FFFF. -/
structure Image where
  base : Word
  handle : Word
  gen : BitVec 32
  ovls : List OvlEntry
  trapVec : Option Nat
  dtBase : Word
  dtLen : Nat
  decMap : DecodeMap
  codeBase : Word
  codeLen : Nat
deriving DecidableEq, Repr, Inhabited

/-- A role record (01 Table 1-4); `lanes` is the width in lanes. -/
structure Role where
  entry : Nat
  vregs : Nat
  teams : Nat
  lanes : Nat
  roleArg : Nat
deriving DecidableEq, Repr, Inhabited

/-- The fields of a launch descriptor (01 Table 1-3). -/
structure LaunchDesc where
  image : Word
  args : Word
  argLen : Nat
  gangs : Nat
  keyId : BitVec 12
  hndEn : Bool
  abort1 : Bool
  cluster : Bool
  part : Nat
  prio : Nat
  tileKb : Nat
  ntile : Nat
  gstore : Nat
  faultArea : Word
  faultLen : Nat
  doneSlot : Nat
  doneVal : Word
  workBase : Word
  workEnd : Word
  status : Word
  roles : List Role
deriving DecidableEq, Repr, Inhabited

/-- What a consumer launch takes from its work queue (01 R41). -/
structure WqTake where
  slot : Nat
  first : Word
  n : Nat
  rpg : Nat
  descAddr : Word
deriving DecidableEq, Repr, Inhabited

/-- A launch in flight (01 R27-R35, 02 R51). `seq` orders the launches of a queue; `argAddr` is 0 with no arguments. -/
structure Launch where
  queue : Nat
  seq : Nat
  desc : LaunchDesc
  descAddr : Word
  image : Image
  prio : Nat
  argAddr : Word
  argPages : Nat
  work : Word
  nextGang : Nat
  retired : Nat
  nfault : Nat
  ndone : Nat
  first : Nat
  faulted : Bool
  aborted : Bool
  wq : Option WqTake
deriving DecidableEq, Repr, Inhabited

/-- A launch-queue entry (02 Table 2-3); `wq` marks a consumer launch a work queue submitted (01 R41). -/
structure LqEntry where
  desc : Word
  waitSlot : Nat
  waitEn : Bool
  serial : Bool
  waitVal : Word
  wq : Option WqTake
deriving DecidableEq, Repr, Inhabited

/-- How far the entry at a queue's head has come (02 R51). -/
inductive QPhase where
  | idle
  | waiting (e : LqEntry)
  | checked (launch : Nat)
  | placing (launch : Nat)
deriving DecidableEq, Repr, Inhabited

/-- A launch queue (02 Table 2-2). `built` holds the entries of the ring positions a work queue's consumer launches took
(01 R41); `stale` says that the entry in progress dates from before the queue was last enabled (02 R53). -/
structure Queue where
  part : Nat
  pcap : Nat
  sizeLog : Nat
  device : Bool
  en : Bool
  base : Word
  head : BitVec 32
  tail : BitVec 32
  errCnt : BitVec 32
  phase : QPhase
  nextSeq : Nat
  built : Table LqEntry
  stale : Bool
deriving DecidableEq, Repr, Inhabited

/-- A work-queue slot (01 Tables 1-8, 1-9). `ticks` holds the append tick of each unlaunched record, `covers` the
consumer gangs still covering launched records, `pending` the consumer launches built while queue LQ was full; `bound`
holds from a valid bind to the write-back that ends it, `desc` is the descriptor of that bind and `addr` the ADDR field. -/
structure WorkQueue where
  addr : Word
  desc : Word
  bound : Bool
  err : Bool
  enable : Bool
  store : Word
  thresh : Nat
  rsize : Nat
  capLog : Nat
  lq : Nat
  rpg : Nat
  ageMax : Nat
  closeSlot : Nat
  closeEn : Bool
  closeVal : Word
  template : Word
  freed : Word
  launched : Word
  tail : Word
  ticks : List Nat
  covers : List (Word × Nat)
  pending : List WqTake
deriving DecidableEq, Repr, Inhabited

/-! ### Registers of a team -/

/-- An entry of the mask stack (06 R140, 08 Table 8-2); its summary word is computed from its mask. -/
structure MaskEntry where
  mask : LaneMask
  disp : Bool
  group : Bool
  idxReg : BitVec 6
  join : BitVec 32
deriving DecidableEq, Repr, Inhabited

/-- A loop record (08 Table 8-3); `home` is the loop's own bundle index, kept for trace (21 R423). -/
structure LoopRec where
  first : BitVec 32
  last : BitVec 32
  remain : BitVec 64
  walker : BitVec 3
  dim : BitVec 2
  loopw : Bool
  home : Nat
deriving DecidableEq, Repr, Inhabited

/-- One vector register: the lanes from lane 0; a lane past the end of the list reads zero (07 R149). -/
abbrev VReg := List Lane

/-- A candidate handed to a team by RAYCAND (17 R357). -/
structure Cand where
  record : Word
  uid : BitVec 32
  job : Nat
  tcur : Word
deriving DecidableEq, Repr, Inhabited

/-- A list a SPLATQ has queued for the next SPLATRUN (17 R363). -/
structure SplatList where
  addr : Word
  count : Nat
deriving DecidableEq, Repr, Inhabited

/-- The state of a team that a checkpoint records and a rollback restores (19 R386): register files, FMT with its
pending values, WNEXT results with the bundles they still wait, mask stack and loop records (innermost first), the
lists SPLATQ has queued. `masks` has the top entry first and entry 0 last. `fmt` is the FMT in force for the bundle
being executed. -/
structure Regs where
  s : Table Word
  v : Table VReg
  c : BitVec 8
  p : Table LaneMask
  fmt : BitVec 32
  fmtPend : List (Nat × BitVec 32)
  wnextPend : List (Nat × BitVec 8 × Word)
  masks : List MaskEntry
  loops : List LoopRec
  rcpDepth : BitVec 4
  splats : List SplatList
deriving DecidableEq, Repr, Inhabited

/-! ### Memory accesses -/

/-- Where a byte lies once its address is resolved: offset in the gang store of a gang, a physical address under the key
ID of its page (02 R65), or byte `off` of recipe tile n of the team's partition. -/
inductive Loc where
  | gang (a : Nat)
  | phys (pa : Nat) (key : BitVec 12)
  | recipe (n off : Nat)
deriving DecidableEq, Repr, Inhabited

/-- A cached leaf translation (10 R236): partition, page base, page size in bytes and the leaf entry. -/
structure TlbEntry where
  part : Nat
  page : Nat
  size : Nat
  leaf : Word
deriving DecidableEq, Repr, Inhabited

/-- How a command stands to the invalidation markers of its partition (10 R238): the translations of its pages as they
stood when it was issued, and with `ahead`, that a marker stands behind it. -/
structure Mapping where
  pages : List TlbEntry
  ahead : Bool
deriving DecidableEq, Repr, Inhabited

/-- A store held in a team's release buffer (19 R387); `va` is the address the team named, `ahead` says that a marker
stands behind it (10 R238), `key` is the key ID of its page; `region` is the CKPTCNT of the region that a released one left. -/
structure HeldStore where
  loc : Loc
  va : Word
  data : List Byte
  ahead : Bool
  key : BitVec 12
  region : Nat
deriving DecidableEq, Repr, Inhabited

/-- What a waiting team waits for (03 Table 3-5). -/
inductive WaitCond where
  | ringFilled (q n : Nat)
  | ringFree (q n : Nat)
  | tileIdle (t : Nat) (write : Bool)
  | barrier (addr : Nat) (phase : Bool)
  | buffer (addr : Nat)
  | join
  | timeline (des : Word) (value : Word)
  | workQueue (slot n : Nat)
  | copyQueue
  | copyNumber (n : Word) (cont : Nat)
  | engineTable
  | engineIdle
  | recompute (tile : Nat) (lanes : LaneMask) (pc : Nat)
  | candidate
  | raySlots
  | remote
  | storeQueue
  | room (need : Nat)
  | frames
  | newTiles
  | lanes
  | service
  | slotUnit (k : Nat)
deriving DecidableEq, Repr, Inhabited

/-- The states of a team (03 Table 3-5). -/
inductive TeamState where
  | runnable | blocked | parked | out | draining
deriving DecidableEq, Repr, Inhabited

/-- How flow leaves a bundle (08 R176, R180): on to the next position, out of the loop whose last position is given,
to a target, or nowhere because the team ends or parks. -/
inductive Flow where
  | seq
  | leave (last : Nat)
  | jump (t : Nat)
  | ended
  | tret (mode : Nat)
  | cont (n : Word) (target : Nat)
deriving DecidableEq, Repr, Inhabited

/-- What the bundle in progress has replaced outside the register files, as its slots still read it (06 R129): a tile
control register, a bond register, and a ring's head and tail. -/
structure Olds where
  tc : Option (Nat × Word)
  bd : Option (Nat × Word)
  ring : Option (Nat × BitVec 32 × BitVec 32)
deriving DecidableEq, Repr, Inhabited

/-- A checkpoint (19 R385): its bundle, DONE, MLANES, its sequential successor `next` and the flow an S slot in DONE
chose (19 Table 19-1), and the recorded state: `before` and `olds` as it stood before bundle n, which slots outside DONE
read (19 R391), and `regs` with what the slots in DONE have committed (19 R390). `landed` says that the FMT and WNEXT
values due at that bundle have landed in both (06 R135, R136). -/
structure Ckpt where
  n : Nat
  done : BitVec 4
  mlanes : LaneMask
  next : Nat
  flow : Flow
  before : Regs
  regs : Regs
  olds : Olds
  landed : Bool
deriving DecidableEq, Repr, Inhabited

/-- The bundle a team is executing: its decoding, the slots that have completed, where flow goes, how many stores were
withheld and which registers stood when it started (06 R129), the MLANES already performed (19 R391), the lanes this
execution has committed, what its slots have replaced, and the slots whose operations its units have started (06 R142). -/
structure Flight where
  bundle : Bundle
  lit : Bool
  done : BitVec 4
  mlanes : LaneMask
  performed : LaneMask
  flow : Flow
  heldAt : Nat
  before : Regs
  oversize : Bool
  committing : Bool
  olds : Olds
  started : BitVec 4
deriving DecidableEq, Repr

/-- The trap frame (19 Table 19-1). -/
structure Frame where
  code : FaultCode
  slot : Nat
  kind : Nat
  done : BitVec 4
  bundle : Word
  faddr : Word
  ckpt : Nat
  next : Nat
  tick : Word
  saved : List Word
  lanes : LaneMask
  mlanes : LaneMask
deriving DecidableEq, Repr, Inhabited

/-- What a team in its trap handler keeps of the interrupted state (19 R395). -/
structure Handler where
  frame : Frame
  ckpt : Ckpt
  masks : List MaskEntry
  loops : List LoopRec
  fmtPend : List (Nat × BitVec 32)
  wnextPend : List (Nat × BitVec 8 × Word)
deriving DecidableEq, Repr, Inhabited

/-- The engine and command on whose behalf memory is accessed: a copy, Trellis, splat or collective command by its
number, the ray of a slot of a cluster, a walker, the codebook fills of a cluster. -/
inductive EngId where
  | none
  | copy (num : Word)
  | trellis (num : Word)
  | ray (cluster slot : Nat)
  | splat (num : Word)
  | coll (num : Word)
  | walker (n : Nat)
  | book (cluster : Nat)
deriving DecidableEq, Repr, Inhabited

/-- The recomputed bytes of a tile, for the access that had parked on it: an engine's command, or the team's own operation in
the bundle at `pc` (13 R311). -/
structure Given where
  eng : EngId
  tile : Nat
  bytes : Memory
  pc : Nat
deriving DecidableEq, Repr, Inhabited

/-- A copy command in a team's queue (11 R259): its number, record, captured FMT, CPYY continuation, and whether the
copy engine has started it and it has completed; `row` rows have been read, `todo` lists what they still have to write,
by space, address and bytes. -/
structure CopyCmd where
  num : Word
  rec_ : List Byte
  fmt : BitVec 32
  cont : Option Nat
  started : Bool
  done : Bool
  old : Mapping
  row : Nat
  todo : List (Nat × Word × List Byte)
deriving DecidableEq, Repr, Inhabited

/-- A failure of an engine command that no wait has raised yet (11 R263, 12 R275). -/
structure EngineFail where
  num : Word
  team : Nat
  fail : Failure
deriving DecidableEq, Repr, Inhabited

/-- A request to another device of the domain (18 R372): the owner's index, the request, the virtual address that named
it, the tick it left, the owner's answer once it has arrived, whether a marker stands behind it (10 R238), and the
engine that made it. -/
structure RemoteOut where
  device : Nat
  req : RemoteReq
  va : Word
  sentAt : Nat
  answer : Option RemoteResp
  ahead : Bool
  eng : EngId
deriving DecidableEq, Repr, Inhabited

/-- A team (03 R77-R79). `uid` keys the team table; `teamId` is TEAMID; `pc` is the index of the next bundle;
`copyNum` the last copy number assigned, `copyTl` the copy timeline; `storeQ` the released stores not yet performed
(13 R478); `storeFails` the store failures to raise at the next committing instruction or END (13 R478, 18 R374);
`counters` the slot counters by register number (21 R415, R416); `cands` the team's candidate queue (17 R357);
`unacked`, `remote` and `engRemote` the requests to other devices of its stores, of the
operation it executes and of its engines (18 R372-R374); `dispatched` the bundles dispatched since the checkpoint
(21 R415 ROLLB), `kept` says that every operation of the checkpoint's own bundle is in DONE; `engFails` the failed recomputes its engine commands have yet to meet, with the tile (13 R304); `given`
the bytes of recomputed tiles for accesses that had parked on them (13 R311); `old` the mapping of an M operation that has
translated and waits (10 R238); `contNum` the number of the CPYY at whose continuation the team stands, `contFails` the
failures of its CPYY copies that no continuation has met yet (11 R263, R264); `birth` the CKPTCNT and the tick of the TFORK
that made it, until its first bundle is dispatched (08 R185); `opened` says that the capacity checkpoint of the bundle at
`pc` has been taken and its dispatch waits for room (19 R388). -/
structure Team where
  gang : Nat
  teamId : Nat
  role : Nat
  ordinal : Nat
  lanes : Nat
  vregs : Nat
  parent : Option Nat
  core : Nat
  slot : Nat
  img : Word
  st : TeamState
  waits : List WaitCond
  since : Nat
  readySince : Nat
  pc : Nat
  skipLand : Bool
  regs : Regs
  flight : Option Flight
  ckpt : Ckpt
  ckptCnt : BitVec 32
  migr : BitVec 32
  joinCnt : BitVec 32
  held : List HeldStore
  shadow : List Nat
  storeQ : List HeldStore
  storeFails : List Failure
  unacked : List RemoteOut
  remote : List RemoteOut
  engRemote : List RemoteOut
  handler : Option Handler
  contNum : Option Word
  contFails : List EngineFail
  stopped : Bool
  stepOne : Bool
  stopAsked : Option FaultInfo
  fenced : Bool
  copyNum : Word
  copyTl : Word
  copyQ : List CopyCmd
  copyFails : List EngineFail
  counters : Table Word
  cands : List Cand
  ended : Bool
  rdone : Bool
  dispatched : Nat
  kept : Bool
  engFails : List (EngId × Nat × Failure)
  given : List Given
  old : Mapping
  birth : Option (Nat × Nat)
  opened : Bool
deriving DecidableEq, Repr

/-! ### Gang state -/

/-- A ring (11 Table 11-2); `broken` is the failure of the walker read that broke its bound walker off, raised until QINIT
(11 R258; kept in the bytes 0x10 to 0x1F that are reserved to Fordom). -/
structure Ring where
  base : Nat
  nentM1 : Nat
  eszM1 : Nat
  init : Bool
  bound : Bool
  walker : Nat
  head : BitVec 32
  tail : BitVec 32
  broken : Option (FaultCode × Word)
deriving DecidableEq, Repr, Inhabited

/-- A walker (11 R254, R255); `team` is the team whose WSTART set it running, `lastE` the last entry of the walk that
was popped. -/
structure Walker where
  desc : List Byte
  ring : Nat
  bound : Bool
  run : Bool
  fault : Bool
  start : BitVec 32
  produced : Nat
  faultAddr : Word
  faultCode : FaultCode
  team : Nat
  lastE : Option Nat
deriving DecidableEq, Repr, Inhabited

/-- A tile: the bytes of its data followed by those of its scales, by offset, with its busy bits (12 R269, R271). -/
structure Tile where
  bytes : Memory
  wb : Bool
  rb : Nat
  bad : List Nat
deriving DecidableEq, Repr, Inhabited

/-- A step of an order program (12 Table 12-5). -/
structure ChainStep where
  k : Nat
  right : Bool
  cfmt : Nat
  bf16 : Bool
  m : Nat
  n : Nat
  p : Nat
  u : Bool
  x : Bool
  cb : Nat
  caddr : Word
  scl : Word
  rscl : Word
deriving DecidableEq, Repr, Inhabited

/-- A Trellis command with what it captured (12 R272-R290): tile control registers are `tcs` by tile number,
codebook addresses `cbs` by codebook number, bonds `bds`. -/
inductive TrellisOp where
  | tld (t : Nat) (rec_ : List Byte)
  | tst (t : Nat) (rec_ : List Byte)
  | tzero (t : Nat)
  | tmma (kind : Nat) (d a b : Nat)
  | tchain (d h batch cores : Nat) (steps : List ChainStep)
  | tcvt (d a : Nat)
  | cbload (n : Nat) (addr : Word)
deriving DecidableEq, Repr, Inhabited

/-- An entry of the reservation table (12 R272). `running` is set by the grant, `fail` by a failed run; `step` counts the
steps of a chain that have run. -/
structure TrellisCmd where
  num : Word
  team : Nat
  op : TrellisOp
  tcs : Table Word
  cbs : Table Word
  bds : Table Word
  fmt : BitVec 32
  order : Nat
  step : Nat
  running : Bool
  filled : Bool
  fail : Option Failure
  old : Mapping
deriving DecidableEq, Repr, Inhabited

/-- The recompute a recompute gang carries out (13 R299): its tile, depth, path, limit, the sources it holds and the
engine commands that wait on it, with their teams; `live` until it is done (13 R311). -/
structure Recompute where
  tile : Nat
  depth : Nat
  path : List Nat
  limit : Nat
  sources : List Nat
  engines : List (Nat × EngId)
  live : Bool
deriving DecidableEq, Repr, Inhabited

/-- A collective in its gang's queue (18 R376): descriptor bytes, number, issue tick, unheld ticks counted and whether
it is due to expire; `outcome` holds the outcome of one that only has its RESULT still to write. -/
structure CollCmd where
  num : Word
  team : Nat
  desc : List Byte
  addr : Word
  gnum : Nat
  held : Nat
  due : Option Nat
  done : Bool
  old : Mapping
  outcome : Option (Option FaultCode)
deriving DecidableEq, Repr, Inhabited

/-- A job on a gang's ray-job or splat-job timeline: its number and the units of work outstanding. -/
structure JobState where
  num : Word
  team : Nat
  left : Nat
deriving DecidableEq, Repr, Inhabited

/-- Bytes of a gang store as they were before a copy of a team wrote them: an engine may still read them until the team
has acquired the copy (11 R262, 15 R322, R342). The copies of a child that is no more are acquired by the TJOIN of its
creator, `team` with `join` set (08 R186). -/
structure Unseen where
  team : Nat
  join : Bool
  num : Word
  addr : Nat
  old : List Byte
deriving DecidableEq, Repr, Inhabited

/-- A gang (03 R70-R76, Table 3-3). `place` is the core of a single-core gang or the cluster of a cluster gang;
`order` its place in the order of placements. `newTiles` is set while the tiles of a pre-empted victim still occupy the
budget the gang was given (03 R85). -/
structure Gang where
  launch : Option Nat
  part : Nat
  index : Nat
  prio : Nat
  cluster : Bool
  place : Nat
  order : Nat
  gstore : Nat
  ntile : Nat
  tileKb : Nat
  keyId : BitVec 12
  hndEn : Bool
  image : Image
  img : Word
  imgLen : Nat
  suspended : Bool
  tilesOut : Bool
  newTiles : Bool
  fenced : Bool
  store : Memory
  tc : Table Word
  bd : Table Word
  rings : Table Ring
  walkers : Table Walker
  tiles : Table Tile
  cbs : Table Word
  locks : List Nat
  trellisNum : Word
  trellisTl : Word
  trellis : List TrellisCmd
  trellisFails : List EngineFail
  rayNum : Word
  rayTl : Word
  rayJobs : List JobState
  splatNum : Word
  splatTl : Word
  splatJobs : List JobState
  collNum : Word
  collTl : Word
  colls : List CollCmd
  recompute : Option Recompute
  bad : List Nat
  unseen : List Unseen
deriving DecidableEq, Repr

/-! ### Cores -/

/-- An overlay resident in an instruction store (04 R90): its tag, the positions filled, when its fill completed, the
teams that waited on it and have not fetched since (04 R91). -/
structure Overlay where
  part : Nat
  handle : Word
  gen : BitVec 32
  num : Nat
  first : Nat
  count : Nat
  words : Table (BitVec 128)
  filledAt : Nat
  guards : List Nat
deriving DecidableEq, Repr, Inhabited

/-- A fill in progress (04 R90): the teams waiting on it with the address each was fetching, and the translations of its
pages when it was asked for (10 R238). -/
structure Fill where
  part : Nat
  image : Image
  num : Nat
  first : Nat
  count : Nat
  waiting : List (Nat × Word)
  team : Nat
  old : Mapping
deriving DecidableEq, Repr, Inhabited

/-- One of the units S, V1, V2 and M of a core: the first cycle in which it may start an operation, and the teams it has
served, the latest first (06 R142). -/
structure SlotUnit where
  free : Nat
  rota : List Nat
deriving DecidableEq, Repr, Inhabited

/-- A core: its instruction store, least recently fetched first (04 R91); the governor's window of charges by cycle, the
charges `due` in later cycles by the passes and request groups of operations in progress, and its freeze count
(06 R144, R145); the clock gate (06 R143); the team that fetched last and the teams it has chosen, the latest first
(06 R141), its four slot units by slot number, and the cycle in which it acted last (06 R145). -/
structure Core where
  store : List Overlay
  fills : List Fill
  charges : List (Nat × Nat)
  due : List (Nat × Nat)
  frz : Word
  frozenAt : Option Nat
  gated : Bool
  wakeAt : Nat
  fetched : Option (Nat × Nat)
  rota : List Nat
  units : Table SlotUnit
  acted : Option Nat
deriving DecidableEq, Repr, Inhabited

/-! ### Partitions -/

/-- The states of a partition (02 Table 2-5). -/
inductive PState where
  | off | running | halting | halted | saving | saved | restoring
deriving DecidableEq, Repr, Inhabited

/-- A recipe tile (13 R295, R296): what Fordom keeps beside the record in memory. `holder` is the gang charged,
`lines` the lines charged, `readAt` orders tiles by last read, `bad` the poisoned lines (10 R228). -/
structure RTile where
  pins : BitVec 16
  bytes : Memory
  resident : Bool
  holder : Option Nat
  lines : List Nat
  readAt : Nat
  bad : List Nat
deriving DecidableEq, Repr, Inhabited

/-- A partition: the registers of 01 Table 1-11, 02 Table 2-4 and R59, 03 Table 3-2, 10 Tables 10-6, 10-7,
13 Table 13-1, 18 R375, 19 Table 19-4, its timeline slots, work queues, error and debug logs, recipe tiles and the
pages its context pool and argument area have given out. -/
structure Part where
  st : PState
  err : Bool
  shadow : BitVec 8
  root : Word
  mask : BitVec 96
  keySet : BitVec 4096
  ctxBase : Word
  ctxSize : BitVec 16
  parkThr : BitVec 7
  argBase : Word
  argSize : BitVec 16
  lockQuota : BitVec 16
  tlbiAddr : Word
  tlbiVal : Word
  tlbiSlot : BitVec 16
  tlbiCount : BitVec 16
  tlbiCode : Bool
  tlbiAll : Bool
  tlbiBusy : Bool
  rcpWin : Word
  rcpBase : Word
  rcpLen : BitVec 24
  rcpImg : Word
  rcpCfg : Word
  collGrp : Word
  dbgGstop : Bool
  dbgEn : Bool
  dbgBpa : Table Word
  dbgBph : Table Word
  dbgEvCnt : Word
  dbgEv : Table (List Byte)
  slots : Table Word
  wqs : Table WorkQueue
  qelCnt : Word
  qel : Table (List Byte)
  pool : List (Nat × Nat)
  args : List (Nat × Nat)
  rtiles : Table RTile
  heldByDebug : Bool
deriving DecidableEq, Repr

/-! ### Memory system -/

/-- An entry of a walk cache (10 R236): a table pointer met at a level, 4 to 1, by the address bits above it. -/
structure WalkEntry where
  part : Nat
  level : Nat
  top : Nat
  entry : Word
deriving DecidableEq, Repr, Inhabited

/-- The memory system: physical memory (10 Table 10-1), the key ID other than 0 that a line of HBM was last written under
(02 R65), what Fordom's own accesses have sent to other devices, the latest first (18 R372), poisoned lines (10 R228), lines held in the L2 with their dirty
mark (10 R225, R227), lines of the exposed range the host caches (02 R46), the sampler caches by cluster (10 R231), the
translation caches by core, cluster and die (10 R236) and the lookup SRAMs by cluster (12 R285): keys are physical
address × 4096 + key ID of a resident codebook, most recently used first, with the bytes filled. -/
structure MemSys where
  mem : Memory
  lineKeys : Table Nat
  sent : List (Nat × RemoteReq)
  poisoned : List Nat
  l2 : Table Bool
  hostLines : List Nat
  sampler : Table (Table (List Byte))
  l0 : Table (List TlbEntry)
  l1 : Table (List TlbEntry)
  walks : Table (List WalkEntry)
  lookup : Table (List (Nat × List Byte))
deriving DecidableEq, Repr

/-! ### Ray and splat units -/

/-- What a ray does next in its traversal (17 R348): a box node or triangle block to visit, a user primitive to
decide, with the tnear it was hit at; or a program's decision still to be logged. Addresses of user primitives are those
of their nodes. -/
inductive RayWork where
  | node (addr : Word) (tnear : Word)
  | block (addr : Word) (tnear : Word)
  | user (uid : BitVec 32) (addr : Word) (tnear : Word)
  | decided (addr : Word) (accepted ends : Bool)
deriving DecidableEq, Repr, Inhabited

/-- A ray in a ray slot (17 R346-R356): `addr` is its record's virtual address, `geom` the control block and geometry
read when it started, `hit` the best hit so far as PRIM, T, U, V in binary64; `ending` the code of a ray whose hit block
is still to be written. -/
structure Ray where
  gang : Nat
  team : Nat
  job : Nat
  addr : Word
  wide : Bool
  log : Bool
  replay : Bool
  free : Bool
  geom : Option (List Byte)
  stack : List RayWork
  tcur : Word
  hit : Option (BitVec 32 × Word × Word × Word)
  logN : Nat
  logIdx : Nat
  logOvf : Bool
  diverged : Bool
  paused : Option (BitVec 32)
  pausedAt : Word
  old : Mapping
  ending : Option Nat
deriving DecidableEq, Repr, Inhabited

/-- A splat job (17 R361-R364): its descriptor and the lists it composites; `outcome` holds the records composited and
skipped and the failure of a job that only has its STAT still to write. -/
structure SplatJob where
  gang : Nat
  team : Nat
  num : Word
  addr : Word
  desc : List Byte
  lists : List SplatList
  started : Bool
  old : Mapping
  outcome : Option (Nat × Nat × Option Failure)
deriving DecidableEq, Repr, Inhabited

/-! ### Belvedere -/

/-- A loop record of a line core (23 R453). -/
structure BLoop where
  first : Nat
  last : Nat
  left : Nat
deriving DecidableEq, Repr, Inhabited

/-- The registers g, k, f and m of a line core (23 Table 23-2). -/
structure BRegs where
  g : Table Lane
  k : Table (List Lane)
  f : Table (BitVec 64)
  m : Table (List Lane)
deriving DecidableEq, Repr, Inhabited

/-- The band a line core runs: head, presented frame and its first line tick, band, and the selected sequence with its
header. -/
structure BandRun where
  head : Nat
  frame : Nat
  start : Word
  band : Nat
  sel : Word
  header : List Byte
deriving DecidableEq, Repr, Inhabited

/-- A line core (22 R426, 23 R447): instruction memory by bundle, registers, LINE, BAND, POSE_0 to POSE_15, line memory
and its poisoned lines (10 R228), the bundle index and loop records of the band run. `before` holds the registers as the slots of the bundle in progress
read them (23 R448), `flow` the way its C slot chose, `waiting` and `failed` that one of its slots waits or fails;
`matrix` is the operation at the display
matrix engine, an MCONV where the mark is set. -/
structure LineCore where
  imem : Table (BitVec 96)
  regs : BRegs
  before : BRegs
  line : BitVec 32
  band : BitVec 32
  pose : List Lane
  lmem : Memory
  bad : List Nat
  pc : Nat
  loops : List BLoop
  run : Option BandRun
  flow : Flow
  waiting : Bool
  failed : Option (Nat × Failure)
  matrix : Option (Bool × BrOp)
deriving DecidableEq, Repr

/-- What a head keeps of a released band of the frame being presented (22 R433-R440): its place in release order, its
selection, frame header and pose; frameless; its core; started; ended. -/
structure BandState where
  order : Nat
  sel : Word
  header : List Byte
  pose : List Lane
  frameless : Bool
  core : Nat
  started : Bool
  ended : Bool
deriving DecidableEq, Repr, Inhabited

/-- A line of the frame being presented in the scan-out FIFO (23 R463): the pixels written, the others being BORDER;
complete; holding one of the eight buffers; owed to the fallback path by FALLBK (23 R464). -/
structure FifoLine where
  px : Table (BitVec 64)
  complete : Bool
  buffer : Bool
  owed : Bool
deriving DecidableEq, Repr, Inhabited

/-- A head (22 Table 22-1, R427-R444). `desc` and `tt` are the descriptor and timetable read at enable; `frame` and
`start` the presented frame and its first line tick; `epoch` the device-timer tick at which frame 0 started; `stopping` says that
a line tick has come since EN was cleared; `released`
counts the bands released since enable; `live` and `shadow` are its pose mailbox; `onLink` the values of the line last
sent on the link, three to a pixel (22 R443). -/
structure Head where
  descVa : Word
  part : Nat
  err : Bool
  run : Bool
  en : Bool
  frames : BitVec 32
  slips : BitVec 16
  badf : BitVec 8
  hpd : Bool
  ltc : Word
  epoch : Nat
  stopping : Bool
  desc : List Byte
  tt : List (Nat × Nat)
  frame : Nat
  start : Word
  released : Nat
  firstSel : Option Word
  lastSel : Word
  bands : Table BandState
  fifo : Table FifoLine
  slipped : Bool
  live : List Byte
  shadow : List Byte
  blank : Bool
  onLink : List Nat
deriving DecidableEq, Repr

/-! ### Trace, management and the rest -/

/-- What trace keeps of one entity (21 R421-R425): the high bits of the address and the tick of its last SYNC, the tick of
its last packet, the reasons of the SYNCs it owes, in order, and whether its team has yet to fetch in this slot. -/
structure TraceEnt where
  syncHi : Nat
  syncAt : Nat
  lastAt : Nat
  pending : List Nat
  fresh : Bool
deriving DecidableEq, Repr, Inhabited

/-- Trace (21 Table 21-3, R419-R424): `everUp` says that the link has been up since reset, `buffer` is the on-die buffer, oldest word first, `sent` the words that have left
the die, newest first. -/
structure Trace where
  syncPer : BitVec 16
  parts : BitVec 8
  hfilt : Bool
  en : Bool
  handle : Word
  lost : BitVec 32
  link : Bool
  everUp : Bool
  buffer : List Word
  sent : List Word
  ents : Table TraceEnt
  drops : Nat
  firstDrop : Nat
deriving DecidableEq, Repr

/-- An attestation report (02 R68): the caller's nonce, the signature index used, the measurements of the firmware, the
partition configuration (enable bit, root, cluster mask, key set and SHADOW by partition), and the signature. -/
structure AttReport where
  nonce : BitVec 256
  index : Nat
  measures : List (BitVec 256)
  config : List (Nat × Bool × Word × BitVec 96 × BitVec 4096 × BitVec 8)
  signature : List Byte
deriving DecidableEq, Repr, Inhabited

/-- Management, power and the host link (02 R43, R46, R65-R68, 26 R474-R477). `attCount` lives in non-volatile
storage; `coolAt` is one more than the tick since which every TEMP has been cool, 0 while one is not; `hdm` has the size
in GiB in bits 9:0, the base in GiB in 24:16 and the key ID in 43:32 (DESIGN CHOICE, log 16); `failedImage` is the firmware
image reported in recovery, `images` the images that run (02 R67, R68). -/
structure Mgmt where
  railOn : Bool
  phase : BitVec 3
  recov : Bool
  failedImage : Option Nat
  images : List (List Byte)
  throt : Bool
  temps : List (BitVec 16)
  modPwr : BitVec 32
  energy : BitVec 64
  trip : BitVec 8
  throtAt : BitVec 8
  restore : BitVec 16
  coolAt : Nat
  errCnt : Word
  errLog : Table (List Byte)
  attCount : Nat
  attReport : Option AttReport
  attError : Bool
  linkWidth : Nat
  linkRate : Nat
  linkUp : Bool
  hdm : Word
  keys : List Nat
  hostRead : Option (List Byte)
deriving DecidableEq, Repr

/-- Device-wide registers: the governor's limit (06 Table 6-3), FXCFG (10 Table 10-3), HBMCFG (10 Table 10-4), DOMCFG
(18 Table 18-1), DBGHOLD (18 R383), the notices received from members (18 R384), the collective groups' counts and
FAILED marks by partition × 65536 + group (18 R375, R381), the answer to the last peer request (18 R372), and the queue whose
launch the distributor served last (02 R58). -/
structure DevRegs where
  ilim : BitVec 16
  fxErr : Bool
  fxPart : BitVec 3
  fxSize : BitVec 4
  dispRes : BitVec 7
  ndev : BitVec 13
  self : BitVec 12
  domPart : BitVec 3
  domErr : Bool
  domEn : Bool
  hold : Bool
  held : Bool
  notices : List Nat
  sentNotices : List (Nat × Bool)
  groups : Table (Nat × Option FaultCode)
  peerAnswer : Option RemoteResp
  served : Nat
deriving DecidableEq, Repr

/-- Who moves next: a step of the machine itself, a team, a line core; `part` is a team's turn in which an atomic performs
at most n lanes at places of this device, so that others' accesses fall between two lanes (15 R326); `now` is a team's
turn that belongs to the step just taken; `teams` is a cycle of one core in which several of its teams act. -/
inductive Act where
  | ev (i : Instr)
  | team (uid : Nat)
  | teams (uids : List Nat)
  | part (uid n : Nat)
  | lineCore (n : Nat)
  | now (uid : Nat)
deriving DecidableEq, Repr

/-- One turn of the schedule: the arithmetic cycles that pass, then who moves. -/
structure Turn where
  dt : Nat
  act : Act
deriving DecidableEq, Repr

/-- The work being executed: its team and slot, or its line core and slot, the translations it keeps from before a
marker (10 R238), the engine that executes it, if one does, and how many lanes of an atomic this turn performs at most,
all of them where none (15 R326). -/
structure Issue where
  team : Nat
  slot : Nat
  core : Nat
  pages : List TlbEntry
  eng : EngId
  quota : Option Nat
deriving DecidableEq, Repr, Inhabited

/-- The state of the machine. `cycle` counts arithmetic cycles since reset, three to a tick (00 R5); `agenda` is the
schedule, which the world outside the model and the spec's open choices of order fix; `uids` hands out table keys;
`free` numbers the bytes the spec leaves open (Config.freeByte), a field of the model's own (DESIGN CHOICE, log 2). -/
structure State where
  cycle : Nat
  agenda : List Turn
  issue : Issue
  free : Nat
  uids : Nat
  teams : Table Team
  gangs : Table Gang
  launches : Table Launch
  queues : Table Queue
  parts : Table Part
  cores : Table Core
  ms : MemSys
  rays : Table (Table Ray)
  splats : Table (List SplatJob)
  lineCores : Table LineCore
  heads : Table Head
  trace : Trace
  mgmt : Mgmt
  dev : DevRegs
deriving DecidableEq, Repr

/-! ### Values at rest -/

/-- The register state of a team whose every register holds 0. -/
def Regs.zero : Regs where
  s := []
  v := []
  c := 0
  p := []
  fmt := 0
  fmtPend := []
  wnextPend := []
  masks := [⟨0, false, false, 0, 0⟩]
  loops := []
  rcpDepth := 4
  splats := []

/-- The checkpoint of a team that has taken none. -/
def Ckpt.zero : Ckpt := ⟨0, 0, 0, 0, .seq, Regs.zero, Regs.zero, ⟨.none, .none, .none⟩, true⟩

/-- What a look-up of a team that does not exist finds. -/
def Team.absent : Team where
  gang := 0
  teamId := 0
  role := 0
  ordinal := 0
  lanes := 32
  vregs := 8
  parent := .none
  core := 0
  slot := 0
  img := 0
  st := .draining
  waits := []
  since := 0
  readySince := 0
  pc := 0
  skipLand := true
  regs := Regs.zero
  flight := .none
  ckpt := Ckpt.zero
  ckptCnt := 0
  migr := 0
  joinCnt := 0
  held := []
  shadow := []
  storeQ := []
  storeFails := []
  unacked := []
  remote := []
  engRemote := []
  handler := .none
  contNum := .none
  contFails := []
  stopped := false
  stepOne := false
  stopAsked := .none
  fenced := false
  copyNum := 0
  copyTl := 0
  copyQ := []
  copyFails := []
  counters := []
  cands := []
  ended := false
  rdone := false
  dispatched := 0
  kept := false
  engFails := []
  given := []
  old := ⟨[], false⟩
  birth := .none
  opened := false

/-- A descriptor with every field 0. -/
def LaunchDesc.absent : LaunchDesc :=
  ⟨0, 0, 0, 0, 0, false, false, false, 0, 0, 0, 0, 0, 0, 0, 0, 0, 0, 0, 0, []⟩

/-- An image with no code. -/
def Image.absent : Image := ⟨0, 0, 0, [], .none, 0, 0, .none, 0, 0⟩

/-- What a look-up of a launch that does not exist finds. -/
def Launch.absent : Launch :=
  ⟨0, 0, LaunchDesc.absent, 0, Image.absent, 0, 0, 0, 0, 0, 0, 0, 0, 0, false, false, .none⟩

/-- What a look-up of a gang that does not exist finds. -/
def Gang.absent : Gang where
  launch := .none
  part := 0
  index := 0
  prio := 0
  cluster := false
  place := 0
  order := 0
  gstore := 0
  ntile := 0
  tileKb := 0
  keyId := 0
  hndEn := false
  image := Image.absent
  img := 0
  imgLen := 0
  suspended := false
  tilesOut := false
  newTiles := false
  fenced := false
  store := []
  tc := []
  bd := []
  rings := []
  walkers := []
  tiles := []
  cbs := []
  locks := []
  trellisNum := 0
  trellisTl := 0
  trellis := []
  trellisFails := []
  rayNum := 0
  rayTl := 0
  rayJobs := []
  splatNum := 0
  splatTl := 0
  splatJobs := []
  collNum := 0
  collTl := 0
  colls := []
  recompute := .none
  bad := []
  unseen := []

/-- A queue after reset: every register 0 (02 Table 2-2). -/
def Queue.reset : Queue := ⟨0, 0, 0, false, false, 0, 0, 0, 0, .idle, 0, [], false⟩

/-- A work-queue slot after reset: every register 0 (01 Table 1-8). -/
def WorkQueue.reset : WorkQueue :=
  ⟨0, 0, false, false, false, 0, 0, 0, 0, 0, 0, 0, 0, false, 0, 0, 0, 0, 0, [], [], []⟩

/-- A core after reset. -/
def Core.reset : Core := ⟨[], [], [], [], 0, .none, false, 0, .none, [], [], .none⟩

/-- A partition after reset: OFF, PARKTHR 16 (03 Table 3-2), QUOTA 0x400 (10 Table 10-7), every other register 0. The
spec gives the page-table root, the cluster mask and the key set no reset value: 0 (DESIGN CHOICE, log 7). -/
def Part.reset : Part where
  st := .off
  err := false
  shadow := 0
  root := 0
  mask := 0
  keySet := 0
  ctxBase := 0
  ctxSize := 0
  parkThr := 16
  argBase := 0
  argSize := 0
  lockQuota := 0x400
  tlbiAddr := 0
  tlbiVal := 0
  tlbiSlot := 0
  tlbiCount := 0
  tlbiCode := false
  tlbiAll := false
  tlbiBusy := false
  rcpWin := 0
  rcpBase := 0
  rcpLen := 0
  rcpImg := 0
  rcpCfg := 0
  collGrp := 0
  dbgGstop := false
  dbgEn := false
  dbgBpa := []
  dbgBph := []
  dbgEvCnt := 0
  dbgEv := []
  slots := []
  wqs := []
  qelCnt := 0
  qel := []
  pool := []
  args := []
  rtiles := []
  heldByDebug := false

/-- A recipe tile Fordom has not touched (13 R295). -/
def RTile.reset : RTile := ⟨0, [], false, .none, [], 0, []⟩

/-- A line core after reset: line memory 0 (26 R474); the spec gives g, k, f, m, LINE, BAND and POSE no reset value:
0 (DESIGN CHOICE, log 8). -/
def LineCore.reset : LineCore where
  imem := []
  regs := ⟨[], [], [], []⟩
  before := ⟨[], [], [], []⟩
  line := 0
  band := 0
  pose := List.replicate 16 0
  lmem := []
  bad := []
  pc := 0
  loops := []
  run := .none
  flow := .seq
  waiting := false
  failed := .none
  matrix := .none

/-- A head after reset: every register 0 (22 Table 22-1). -/
def Head.reset : Head where
  descVa := 0
  part := 0
  err := false
  run := false
  en := false
  frames := 0
  slips := 0
  badf := 0
  hpd := false
  ltc := 0
  epoch := 0
  stopping := false
  desc := []
  tt := []
  frame := 0
  start := 0
  released := 0
  firstSel := .none
  lastSel := 0
  bands := []
  fifo := []
  slipped := false
  live := List.replicate 64 0
  shadow := List.replicate 64 0
  blank := true
  onLink := []

/-- Trace after reset (21 Table 21-3). -/
def Trace.reset : Trace := ⟨0, 0, false, false, 0, 0, false, false, [], [], [], 0, 0⟩

/-- Management after reset: bring-up at phase 0, THRCFG TRIP 110 and THROT 100 (26 Table 26-3). `n` is the signature
counter, which a reset preserves (26 R474). -/
def Mgmt.reset (n : Nat) : Mgmt where
  railOn := true
  phase := 0
  recov := false
  failedImage := .none
  images := []
  throt := false
  temps := [0, 0, 0, 0, 0]
  modPwr := 0
  energy := 0
  trip := 110
  throtAt := 100
  restore := 0x1900
  coolAt := 0
  errCnt := 0
  errLog := []
  attCount := n
  attReport := .none
  attError := false
  linkWidth := 0
  linkRate := 0
  linkUp := false
  hdm := 0
  keys := []
  hostRead := .none

/-- Device registers after reset: ILIMCFG.LIMIT 0x1900 (06 Table 6-3), DOMCFG.NDEV 1 (18 Table 18-1), the rest 0. -/
def DevRegs.reset : DevRegs :=
  ⟨0x1900, false, 0, 0, 0, 1, 0, 0, false, false, false, false, [], [], [], .none, 0⟩

/-- The machine right after a device reset with `n` signatures used (26 R474). -/
def State.resetWith (n : Nat) : State where
  cycle := 0
  agenda := []
  issue := ⟨0, 0, 0, [], .none, none⟩
  free := 0
  uids := 1
  teams := []
  gangs := []
  launches := []
  queues := []
  parts := []
  cores := []
  ms := ⟨[], [], [], [], [], [], [], [], [], [], []⟩
  rays := []
  splats := []
  lineCores := []
  heads := []
  trace := Trace.reset
  mgmt := Mgmt.reset n
  dev := DevRegs.reset

/-- The machine right after reset (26 R474); a table that lists nothing holds the reset record of its kind at every
key. -/
def State.reset : State := State.resetWith 0

end Sys2Proof.Machine
end

