-- ==== Sys2Proof/Machine/Mem.lean ====
section
/-!
DEFINITION. The memory system (10): look-ups of the tables of State, physical addresses, page walks and their caches,
the checks of an access, and reading and writing bytes where they lie.
-/

namespace Sys2Proof.Machine

/-! ### Look-ups -/

/-- The team with key u. -/
def State.team (s : State) (u : Nat) : Team := tget Team.absent s.teams u

/-- The state with team u replaced. -/
def State.setTeam (s : State) (u : Nat) (t : Team) : State := { s with teams := tset s.teams u t }

/-- The state with `f` applied to team u. -/
def State.modTeam (s : State) (u : Nat) (f : Team → Team) : State := s.setTeam u (f (s.team u))

/-- The gang with key g. -/
def State.gang (s : State) (g : Nat) : Gang := tget Gang.absent s.gangs g

/-- The state with gang g replaced. -/
def State.setGang (s : State) (g : Nat) (x : Gang) : State := { s with gangs := tset s.gangs g x }

/-- The state with `f` applied to gang g. -/
def State.modGang (s : State) (g : Nat) (f : Gang → Gang) : State := s.setGang g (f (s.gang g))

/-- Partition p. -/
def State.part (s : State) (p : Nat) : Part := tget Part.reset s.parts p

/-- A partition is resident in every state except OFF and SAVED (02 Table 2-5). -/
def Part.resident (p : Part) : Bool := p.st != .off && p.st != .saved

/-- The partition of a gang runs. -/
def State.runs (s : State) (g : Gang) : Bool := (s.part g.part).st == .running

/-- The partition of a gang is resident on its clusters. -/
def State.onDie (s : State) (g : Gang) : Bool := (s.part g.part).resident

/-- The host's registers act in phase READY of bring-up only (26 Table 26-2). -/
def State.ready (s : State) (k : State) : State := if s.mgmt.phase = 4 then k else s

/-- The state with `f` applied to partition p. -/
def State.modPart (s : State) (p : Nat) (f : Part → Part) : State := { s with parts := tset s.parts p (f (s.part p)) }

/-- Core n. -/
def State.core (s : State) (n : Nat) : Core := tget Core.reset s.cores n

/-- The state with `f` applied to core n. -/
def State.modCore (s : State) (n : Nat) (f : Core → Core) : State := { s with cores := tset s.cores n (f (s.core n)) }

/-- Queue q. -/
def State.queue (s : State) (q : Nat) : Queue := tget Queue.reset s.queues q

/-- The state with `f` applied to queue q. -/
def State.modQueue (s : State) (q : Nat) (f : Queue → Queue) : State :=
  { s with queues := tset s.queues q (f (s.queue q)) }

/-- The state with `f` applied to launch l, where it exists. -/
def State.modLaunch (s : State) (l : Nat) (f : Launch → Launch) : State := { s with launches := tmod s.launches l f }

/-- Head h. -/
def State.head (s : State) (h : Nat) : Head := tget Head.reset s.heads h

/-- The state with `f` applied to head h. -/
def State.modHead (s : State) (h : Nat) (f : Head → Head) : State := { s with heads := tset s.heads h (f (s.head h)) }

/-- Line core n. -/
def State.lineCore (s : State) (n : Nat) : LineCore := tget LineCore.reset s.lineCores n

/-- The state with `f` applied to line core n. -/
def State.modLineCore (s : State) (n : Nat) (f : LineCore → LineCore) : State :=
  { s with lineCores := tset s.lineCores n (f (s.lineCore n)) }

/-- The device timer in ticks (00 R5, R6). -/
def State.tick (s : State) : Nat := s.cycle / 3

/-- The device timer (00 R6). -/
def State.timer (s : State) : Word := BitVec.ofNat 64 s.tick

/-! ### Physical addresses -/

/-- What a physical address names (10 Table 10-1). -/
inductive Target where
  | hbm | host | fx | remote | reserved
deriving DecidableEq, Repr, Inhabited

/-- Bytes of the frame exchange partition (10 R229). -/
def State.fxBytes (s : State) : Nat := s.dev.fxSize.toNat * 2 ^ 25

/-- The target of a physical address (10 Table 10-1, R229). -/
def State.target (s : State) (pa : Nat) : Target :=
  if pa < 2 ^ 39 then .hbm
  else if 2 ^ 48 ≤ pa ∧ pa < 2 ^ 49 then .host
  else if 2 ^ 49 ≤ pa ∧ pa < 2 ^ 49 + s.fxBytes then .fx
  else if 2 ^ 51 ≤ pa ∧ pa < 2 ^ 52 then .remote
  else .reserved

/-- The device index of a domain-remote address (00 R4). -/
def remoteDevice (pa : Nat) : Nat := bitsOf pa 50 39

/-- The offset of a domain-remote address in its owner's window (00 R4). -/
def remoteOffset (pa : Nat) : Nat := bitsOf pa 38 0

/-- A domain-remote address is reachable (18 R371). -/
def State.remoteOk (s : State) (pa : Nat) : Bool := s.dev.domEn && decide (remoteDevice pa < s.dev.ndev.toNat)

/-- The 128-byte line of an address. -/
def lineOf (a : Nat) : Nat := a / 128 * 128

/-- The stack of an HBM address: the XOR of the nine 3-bit fields of its bits 38 to 12 (10 R226). -/
def stackOf (pa : Nat) : Nat := (List.range 9).foldl (fun x k => x ^^^ bitsOf pa (14 + 3 * k) (12 + 3 * k)) 0

/-- The compute die an HBM address is homed on (10 R226). -/
def dieOf (pa : Nat) : Nat := stackOf pa / 2

/-- The home slice of an HBM line: its die, and its slice there by the hash that software cannot observe. -/
def homeOf (pa : Nat) : Nat × Nat := (dieOf pa, Config.sliceOf (lineOf pa))

/-- The home slice of line n of the frame exchange range, of the 384, and its reserved frame there (10 R226). -/
def exchangeHome (n : Nat) : Nat × Nat := (n % 384, n / 384)

/-- The lines that n bytes from a touch. -/
def linesOf (a n : Nat) : List Nat :=
  (List.range ((a % 128 + n + 127) / 128)).map fun i => lineOf a + 128 * i

/-- A byte range meets a poisoned line; the first such line (10 R228). -/
def State.poisonIn (s : State) (pa n : Nat) : Option Nat := (linesOf pa n).find? fun l => s.ms.poisoned.contains l

/-- The first poisoned line of a list that a byte range meets (10 R228). -/
def badLine (bad : List Nat) (a n : Nat) : Option Nat := (linesOf a n).find? bad.contains

/-- The poisoned lines left where a write reached some bytes: those it did not write whole (10 R228). -/
def mendedBy (bad : List Nat) (wrote : Nat → Bool) : List Nat :=
  bad.filter fun l => !(List.range 128).all fun k => wrote (l + k)

/-- The poisoned lines left after a write of n bytes at a: those it does not write whole (10 R228). -/
def mended (bad : List Nat) (a n : Nat) : List Nat :=
  if n < 128 then bad else bad.filter fun l => !(decide (a ≤ l) && decide (l + 128 ≤ a + n))

/-- The lines of a range that an access under key ID `key` does not find written under it: HBM is encrypted line by line
under the key of the line's key ID (02 R65). -/
def State.otherKeyed (s : State) (key : BitVec 12) (pa n : Nat) : List Nat :=
  (linesOf pa n).filter fun l => s.target l == .hbm && tget 0 s.ms.lineKeys l != key.toNat

/-- Every line of a range was written under key ID `key`, or is not encrypted. -/
def State.keyed (s : State) (key : BitVec 12) (pa n : Nat) : Bool := (s.otherKeyed key pa n).isEmpty

/-- The 128 bytes of a line of HBM under a key ID that is not its own: what the spec does not state (02 R65; log 76). -/
def State.otherLine (s : State) (key : BitVec 12) (l : Nat) : List Byte :=
  (List.range 128).map (Config.otherKey key.toNat (tget 0 s.ms.lineKeys l) l (Memory.readBytes s.ms.mem l 128))

/-- Physical memory as an access under a key ID finds it. -/
def State.memUnder (s : State) (key : BitVec 12) (pa n : Nat) : Memory :=
  (s.otherKeyed key pa n).foldl (fun m l => Memory.writeBytes m l (s.otherLine key l)) s.ms.mem

/-- Bytes of physical memory, read under a key ID. -/
def State.physRead (s : State) (key : BitVec 12) (pa n : Nat) : List Byte := Memory.readBytes (s.memUnder key pa n) pa n

/-- Write bytes of physical memory under a key ID: the lines it touches are encrypted under it from then on, with the
bytes it leaves in them as a read under it finds them (02 R65); a write of a whole line clears its poison, the line is held
dirty in the L2, and a copy the host caches is invalidated first (10 R228, R225, 02 R46). -/
def State.physWrite (s : State) (key : BitVec 12) (pa : Nat) (data : List Byte) : State :=
  let touched := linesOf pa data.length
  let whole := touched.filter fun l => decide (pa ≤ l) && decide (l + 128 ≤ pa + data.length)
  { s with ms := { s.ms with
      mem := Memory.writeBytes (s.memUnder key pa data.length) pa data
      lineKeys := (s.otherKeyed key pa data.length).foldl
        (fun m l => if key = 0 then tdel m l else tset m l key.toNat) s.ms.lineKeys
      poisoned := s.ms.poisoned.filter fun l => !whole.contains l
      l2 := touched.foldl (fun m l => tset m l true) s.ms.l2
      hostLines := s.ms.hostLines.filter fun l => !touched.contains l } }

/-! ### Keys -/

/-- The key check of 02 R66 for partition p. -/
def State.keyOk (s : State) (p : Nat) (k : BitVec 12) : Bool :=
  (s.part p).keySet.getLsbD k.toNat && (k == 0 || s.mgmt.keys.contains k.toNat)

/-! ### Page walks (10 R233, R234) -/

/-- A leaf page-table entry as an access uses it. -/
structure Leaf where
  pa : Nat
  key : BitVec 12
  recipe : Bool
  r : Bool
  w : Bool
  x : Bool
deriving DecidableEq, Repr, Inhabited

/-- A virtual address is canonical (10 R221). -/
def canonical (va : Word) : Bool := va.extractLsb' 56 8 == 0 || va.extractLsb' 56 8 == 0xFF

/-- The lowest address bit a level's index starts at: 48, 39, 30, 21, 16 for levels 4 to 0 (10 R233). -/
def levelShift (lvl : Nat) : Nat := if lvl = 0 then 16 else 12 + 9 * lvl

/-- The index of an address at a level. -/
def levelIndex (va : Nat) (lvl : Nat) : Nat := if lvl = 0 then bitsOf va 20 16 else bitsOf va (levelShift lvl + 8) (levelShift lvl)

/-- An entry is a well-formed table pointer at its level (10 R234). -/
def tableOk (e : Word) (lvl : Nat) : Bool :=
  e.getLsbD 0 && e.getLsbD 1 && decide (lvl ≠ 0) && e.extractLsb' 2 6 == 0 &&
    (if lvl = 1 then true else e.extractLsb' 8 4 == 0)

/-- An entry is a well-formed leaf at its level (10 R234). -/
def leafOk (e : Word) (lvl : Nat) : Bool :=
  e.getLsbD 0 && !e.getLsbD 1 && decide (lvl ≤ 2) && !e.getLsbD 7 && !e.getLsbD 6 && (e.getLsbD 2 || !e.getLsbD 3) &&
    decide (bitsOf e.toNat 51 8 * 256 % 2 ^ levelShift lvl = 0)

/-- The leaf an entry and an address give. -/
def leafOf (e : Word) (size va : Nat) : Leaf :=
  ⟨bitsOf e.toNat 51 8 * 256 + va % size, e.extractLsb' 52 12, e.getLsbD 5, e.getLsbD 2, e.getLsbD 3, e.getLsbD 4⟩

/-- An entry read at a level: from the walk cache of the die, else from memory with the key of the pointer to its table
(10 R233, R236). A read the key check refuses is KEY_INVALID, of a poisoned line POISON, of anything but local HBM,
host memory or the frame exchange range XLATE. -/
def State.readEntry (s : State) (die p lvl base : Nat) (key : BitVec 12) (va : Nat) : Except FaultCode Word :=
  match (tget [] s.ms.walks die).find? (fun e => e.part == p && e.level == lvl && e.top == va / 2 ^ levelShift lvl) with
  | some e => .ok e.entry
  | none =>
    let a := base + 8 * levelIndex va lvl
    if s.target a == .reserved || s.target a == .remote then .error .xlate
    else if !s.keyOk p key then .error .keyInvalid
    else if (s.poisonIn a 8).isSome then .error .poison
    else .ok (BitVec.ofNat 64 (bytesNat (s.physRead key a 8)))

/-- Walk the tables of partition p from a level down to a leaf: the leaf entry with its page size, and the table
pointers met. -/
def State.walkFrom (s : State) (die p : Nat) (va : Nat) : Nat → Nat → BitVec 12 →
    Except FaultCode (Word × Nat × List WalkEntry)
  | lvl, base, key =>
    match s.readEntry die p lvl base key va with
    | .error c => .error c
    | .ok e =>
      if leafOk e lvl then .ok (e, 2 ^ levelShift lvl, [])
      else if tableOk e lvl then
        match lvl with
        | 0 => .error .xlate
        | l + 1 =>
          match s.walkFrom die p va l (bitsOf e.toNat 51 8 * 256) (e.extractLsb' 52 12) with
          | .error c => .error c
          | .ok (leaf, size, met) => .ok (leaf, size, ⟨p, l + 1, va / 2 ^ levelShift (l + 1), e⟩ :: met)
      else .error .xlate

/-- Who accesses memory: its partition, the core whose translation caches it uses (384 for the I/O die), the team on whose
behalf, if any, and the key ID it uses in place of its pages' (01 R35, 03 R75), if it does. -/
structure Ctx where
  part : Nat
  who : Nat
  team : Option Nat
  key : Option (BitVec 12)
deriving DecidableEq, Repr, Inhabited

/-- A cached leaf for an address: what the work being executed keeps from before a marker (10 R238), then the L0 of the
core, then the L1 of the cluster (10 R236). -/
def State.cachedLeaf (s : State) (c : Ctx) (va : Nat) : Option TlbEntry :=
  let hit := fun (e : TlbEntry) => e.part == c.part && e.page == va / e.size
  (s.issue.pages.find? hit).or
    (((tget [] s.ms.l0 c.who).find? hit).or ((tget [] s.ms.l1 (c.who / 4)).find? hit))

/-- The walk of an address of partition p. -/
def State.walk (s : State) (c : Ctx) (va : Nat) : Except FaultCode (Word × Nat × List WalkEntry) :=
  let root := (s.part c.part).root
  s.walkFrom (c.who / 96) c.part va 4 (bitsOf root.toNat 51 12 * 4096) (root.extractLsb' 52 12)

/-- Translate an address (10 R221, R234, R236, 18 R371, 13 R294). -/
def State.xlate (s : State) (c : Ctx) (va : Word) : Except FaultCode Leaf :=
  if !canonical va then .error .xlate
  else
    let a := va.toNat % 2 ^ 57
    let found : Except FaultCode Leaf :=
      match s.cachedLeaf c a with
      | some e => .ok (leafOf e.leaf e.size a)
      | none =>
        match s.walk c a with
        | .error f => .error f
        | .ok (e, size, _) => .ok (leafOf e size a)
    match found with
    | .error f => .error f
    | .ok l =>
      match s.target l.pa with
      | .reserved => .error .xlate
      | .remote => if s.remoteOk l.pa && !l.recipe then .ok l else .error .xlate
      | .hbm => .ok l
      | _ => if l.recipe then .error .xlate else .ok l

/-- The translation of an address as it stands, if it has one. -/
def State.pageOf (s : State) (c : Ctx) (va : Nat) : Option TlbEntry :=
  match s.cachedLeaf c va with
  | some e => some e
  | none => match s.walk c va with
    | .ok (e, size, _) => some ⟨c.part, va / size, size, e⟩
    | .error _ => none

/-- The mapping of a command issued now over some ranges of virtual memory (10 R238). -/
def State.mapping (s : State) (c : Ctx) (ranges : List (Word × Nat)) : Mapping :=
  ⟨(ranges.flatMap fun r =>
    let a := r.1.toNat % 2 ^ 57
    (List.range ((a % 65536 + r.2 + 65535) / 65536)).filterMap fun k =>
      s.pageOf c ((a / 65536 + k) * 65536)).eraseDups, false⟩

/-- The leaves that a table at a level reaches, `va` being the lowest address it maps. -/
def State.leavesFrom (s : State) (die p : Nat) : Nat → Nat → BitVec 12 → Nat → List TlbEntry
  | lvl, base, key, va =>
    (List.range (if lvl = 0 then 32 else 512)).flatMap fun i =>
      let a := va + i * 2 ^ levelShift lvl
      match s.readEntry die p lvl base key a with
      | .error _ => []
      | .ok e =>
        if leafOk e lvl then [⟨p, a / 2 ^ levelShift lvl, 2 ^ levelShift lvl, e⟩]
        else if tableOk e lvl then
          match lvl with
          | 0 => []
          | l + 1 => s.leavesFrom die p l (bitsOf e.toNat 51 8 * 256) (e.extractLsb' 52 12) a
        else []

/-- Every translation of a partition as it stands, for a command whose further accesses hang on bytes that it has yet to
wait for (10 R238). -/
def State.allPages (s : State) (c : Ctx) : Mapping :=
  let root := (s.part c.part).root
  let mine := fun (l : List TlbEntry) => l.filter fun e => e.part == c.part
  ⟨s.issue.pages ++ mine (tget [] s.ms.l0 c.who) ++ mine (tget [] s.ms.l1 (c.who / 4)) ++
    s.leavesFrom (c.who / 96) c.part 4 (bitsOf root.toNat 51 12 * 4096) (root.extractLsb' 52 12) 0, false⟩

/-- Carry out the work of an engine under the translations its command keeps (10 R238); a failing address is walked as
it stands. -/
def State.under (s : State) (e : EngId) (m : Mapping) (k : State → State) : State :=
  let s1 := k { s with issue := { s.issue with pages := m.pages, eng := e } }
  { s1 with issue := { s1.issue with pages := [], eng := .none } }

/-- Carry out the work of an engine under the translations in use. -/
def State.asEngine (s : State) (e : EngId) (k : State → State) : State :=
  let s1 := k { s with issue := { s.issue with eng := e } }
  { s1 with issue := { s1.issue with eng := .none } }

/-- Keep a list to its first n entries. -/
def keep {α : Type} (n : Nat) (l : List α) : List α := l.take n

/-- The state with the translation of an address cached, as an access that used it leaves it (10 R236). -/
def State.noteXlate (s : State) (c : Ctx) (va : Word) : State :=
  let a := va.toNat % 2 ^ 57
  match s.cachedLeaf c a with
  | some _ => s
  | none =>
    match s.walk c a with
    | .error _ => s
    | .ok (e, size, met) =>
      let t : TlbEntry := ⟨c.part, a / size, size, e⟩
      let die := c.who / 96
      let old := tget [] s.ms.walks die
      let new := met.filter fun m => !old.any fun o => o.part == m.part && o.level == m.level && o.top == m.top
      { s with ms := { s.ms with
          l0 := tset s.ms.l0 c.who (keep 64 (t :: tget [] s.ms.l0 c.who))
          l1 := tset s.ms.l1 (c.who / 4) (keep 2048 (t :: tget [] s.ms.l1 (c.who / 4)))
          walks := tset s.ms.walks die (keep 4096 (new ++ old)) } }

/-! ### The checks of an access (10 R235) -/

/-- What an access does. -/
inductive Access where
  | load | readOnly | store | atomic | timeline | fetch | dispatch | lock
deriving DecidableEq, Repr, Inhabited

/-- The access writes. -/
def Access.writes : Access → Bool
  | .store => true
  | .atomic => true
  | .timeline => true
  | _ => false

/-- The permission bits an access needs (10 R235). -/
def Leaf.permits (l : Leaf) : Access → Bool
  | .load => l.r
  | .readOnly => l.r
  | .store => l.w
  | .atomic => l.r && l.w
  | .timeline => l.r && l.w
  | .fetch => l.x
  | .dispatch => l.r || l.x
  | .lock => l.r

/-- The kind of access may reach the place a leaf gives: the read-only path no host memory and no other device's (10 R231,
11 R248), LOCK only local HBM outside recipe pages (10 R239), a timeline local HBM or the frame exchange outside recipe
pages (15 R329). -/
def State.reaches (s : State) (l : Leaf) : Access → Bool
  | .readOnly => s.target l.pa != .host && s.target l.pa != .remote
  | .lock => s.target l.pa == .hbm && !l.recipe
  | .timeline => (s.target l.pa == .hbm || s.target l.pa == .fx) && !l.recipe
  | _ => true

/-- The key check at the requester: of a place named through the domain window the installed key is its owner's to check
(02 R66, 18 R372). -/
def State.keyMay (s : State) (p : Nat) (l : Leaf) : Bool :=
  if s.target l.pa == .remote then (s.part p).keySet.getLsbD l.key.toNat else s.keyOk p l.key

/-- A range [a, a + n) meets [b, b + m); an empty one meets none. -/
def overlaps (a n b m : Nat) : Bool := decide (0 < n) && decide (0 < m) && decide (a < b + m) && decide (b < a + n)

/-- An access of a team keeps off the context pool, the argument area but for its own launch's pages, and stores to its
dispatch table (01 R25, R34, R35, 03 R75). -/
def State.areaOk (s : State) (c : Ctx) (k : Access) (va : Nat) (n : Nat) : Bool :=
  match c.team with
  | none => true
  | some u =>
    let p := s.part c.part
    let g := s.gang (s.team u).gang
    let pool := overlaps va n p.ctxBase.toNat (p.ctxSize.toNat * 2 ^ 21) ||
      p.pool.any fun a => overlaps va n (p.ctxBase + BitVec.ofNat 64 a.1).toNat a.2
    let area := overlaps va n p.argBase.toNat (p.argSize.toNat * 2 ^ 21) ||
      p.args.any fun a => overlaps va n (p.argBase + BitVec.ofNat 64 (4096 * a.1)).toNat (4096 * a.2)
    let own := match g.launch.bind (tfind s.launches) with
      | some l => decide (l.argPages ≠ 0) && decide (l.argAddr.toNat ≤ va) &&
          decide (va + n ≤ l.argAddr.toNat + 4096 * l.argPages)
      | none => false
    let table := overlaps va n g.image.dtBase.toNat (4 * g.image.dtLen)
    !pool && (!area || (own && !k.writes)) && !(k.writes && table)

/-- The recipe tile of an address of partition p (13 R293). -/
def State.tileOf (s : State) (p : Nat) (va : Word) : Option Nat :=
  let w := (s.part p).rcpWin.toNat
  if va.toNat < w then none
  else if (va.toNat - w) / 65536 < (s.part p).rcpLen.toNat then some ((va.toNat - w) / 65536) else none

/-- The recompute a team carries out (13 R305). -/
def State.recomputeOf (s : State) (c : Ctx) : Option Recompute := c.team.bind fun u => (s.gang (s.team u).gang).recompute

/-- Recipe code may touch the place (13 Table 13-5): no remote address, no recipe tile but its own and, to read, its
sources, and no store outside its own tile. A timeline it may name it only reads (13 R307). -/
def State.recipeMay (s : State) (c : Ctx) (k : Access) (l : Leaf) (va : Word) : Bool :=
  match s.recomputeOf c with
  | none => true
  | some r =>
    if k == .fetch || k == .dispatch then true
    else if k.writes && k != .timeline then l.recipe && s.tileOf c.part va == some r.tile
    else if s.target l.pa == .remote then false
    else if l.recipe then
      match s.tileOf c.part va with
      | some n => n == r.tile || r.sources.contains n
      | none => true
    else true

/-- The place an access to virtual memory reaches, after the checks of 10 R235 in their order: ALIGNMENT (to `al`
bytes), canonical form and walk, permission, key; then the recipe window (13 R293) and what recipe code may do. -/
def State.check (s : State) (c : Ctx) (k : Access) (va : Word) (n al : Nat) : Except FaultCode (Loc × Leaf) :=
  if va.toNat % al ≠ 0 then .error .alignment
  else match s.xlate c va with
    | .error f => .error f
    | .ok page =>
      let l := { page with key := c.key.getD page.key }
      let own := match s.recomputeOf c with
        | some r => l.recipe && s.tileOf c.part va == some r.tile
        | none => false
      if !(l.permits k || (k == .store && own)) || !s.reaches l k || !s.areaOk c k va.toNat n then .error .permission
      else if s.target l.pa == .fx && s.dev.fxPart.toNat != c.part then .error .permission
      else if !s.keyMay c.part l then .error .keyInvalid
      else if !s.recipeMay c k l va then .error .recipeIllegal
      else if l.recipe then
        match s.tileOf c.part va with
        | none => .error .recipeInvalid
        | some t => .ok (.recipe t (va.toNat % 65536), l)
      else .ok (.phys l.pa l.key, l)

/-! ### The gang store (10 R223) -/

/-- The cores a gang's store spans. -/
def Gang.span (g : Gang) : Nat := if g.cluster then 4 else 1

/-- Check an access of n bytes, aligned to al, at a gang-store address: ALIGNMENT, then GANG_SPAN. -/
def Gang.checkStore (g : Gang) (a : Word) (n al : Nat) : Except FaultCode Loc :=
  if a.toNat % al ≠ 0 then .error .alignment
  else if a.toNat < 2 ^ 22 ∧ bitsOf a.toNat 21 20 < g.span ∧ a.toNat % 2 ^ 20 + n ≤ g.gstore * 4096 then
    .ok (.gang a.toNat)
  else .error .gangSpan

/-! ### Bytes where they lie -/

/-- What Fordom keeps of recipe tile n of partition p. -/
def Part.rtile (p : Part) (n : Nat) : RTile := tget RTile.reset p.rtiles n

/-- The bytes at a place, as memory and stores performed give them. -/
def State.readLoc (s : State) (p gang : Nat) (l : Loc) (n : Nat) : List Byte :=
  match l with
  | .gang a => Memory.readBytes (s.gang gang).store a n
  | .phys pa key => s.physRead key pa n
  | .recipe t off => Memory.readBytes ((s.part p).rtile t).bytes off n

/-- A read of n bytes at a place meets a poisoned line (10 R228). -/
def State.badAt (s : State) (p gang : Nat) (l : Loc) (n : Nat) : Bool :=
  match l with
  | .gang a => (badLine (s.gang gang).bad a n).isSome
  | .phys pa _ => (s.poisonIn pa n).isSome
  | .recipe t off => (badLine ((s.part p).rtile t).bad off n).isSome

/-- Bytes of gang g's store as an engine reads them: where a copy wrote that its team has not acquired, it may find what lay
there before (15 R322, R342; the free value Config.staleByte, log 4). -/
def State.bankBytes (s : State) (g a n : Nat) : List Byte :=
  let now := Memory.readBytes (s.gang g).store a n
  if (s.gang g).unseen.isEmpty then now
  else now.zipIdx.map fun b =>
    let at_ := a + b.2
    match (s.gang g).unseen.find? fun x => decide (x.addr ≤ at_ ∧ at_ < x.addr + x.old.length) with
    | some x => if Config.staleByte s.cycle at_ then x.old.getD (at_ - x.addr) b.1 else b.1
    | none => b.1

/-- Team u has acquired its copies up to a number: what they overwrote is seen no more (15 R322, R331). -/
def State.acquireCopies (s : State) (u n : Nat) : State :=
  s.modGang (s.team u).gang fun g => { g with unseen := g.unseen.filter fun x => !(x.team == u && !x.join && decide (x.num.toNat ≤ n)) }

/-- Team u has acquired, by TJOIN, the copies of its children that are no more (08 R186). -/
def State.acquireJoined (s : State) (u : Nat) : State :=
  s.modGang (s.team u).gang fun g => { g with unseen := g.unseen.filter fun x => !(x.team == u && x.join) }

/-- The place a read of n bytes of gang g's store reaches: the checks of the store, then poison (10 R223, R228). -/
def State.storeRead (s : State) (g : Nat) (a : Word) (n al : Nat) : Except FaultCode Loc :=
  match (s.gang g).checkStore a n al with
  | .error f => .error f
  | .ok l => if s.badAt 0 g l n then .error .poison else .ok l

/-- The bytes of a tile given to the access at work when the tile's recompute ended (13 R311). -/
def State.givenTile (s : State) (c : Ctx) (n : Nat) : Option Memory :=
  c.team.bind fun u => ((s.team u).given.find? fun x => x.eng == s.issue.eng && x.tile == n).map (·.bytes)

/-- The bytes at a place for an access of a team or of its engines. -/
def State.readFor (s : State) (c : Ctx) (gang : Nat) (l : Loc) (n : Nat) : List Byte :=
  match l with
  | .recipe t off => (match s.givenTile c t with
    | some b => Memory.readBytes b off n
    | none => s.readLoc c.part gang l n)
  | _ => s.readLoc c.part gang l n

/-- The gang with bytes written in its store: what lay there before is no longer seen (15 R322), and a line written whole is
mended (10 R228). -/
def Gang.write (g : Gang) (a : Nat) (data : List Byte) : Gang :=
  { g with
    store := Memory.writeBytes g.store a data
    bad := mended g.bad a data.length
    unseen := g.unseen.filter fun x => !overlaps a data.length x.addr x.old.length }

/-- The state with bytes written at a place. -/
def State.writeLoc (s : State) (p gang : Nat) (l : Loc) (data : List Byte) : State :=
  match l with
  | .gang a => s.modGang gang fun g => g.write a data
  | .phys pa key => s.physWrite key pa data
  | .recipe t off => s.modPart p fun q =>
      { q with rtiles := tset q.rtiles t { q.rtile t with
          bytes := Memory.writeBytes (q.rtile t).bytes off data, bad := mended (q.rtile t).bad off data.length } }

/-- The byte of a withheld store at a place, if it writes it. -/
def HeldStore.byteAt (h : HeldStore) (l : Loc) : Option Byte :=
  match h.loc, l with
  | .gang a, .gang b => if a ≤ b then h.data[b - a]? else none
  | .phys a _, .phys b _ => if a ≤ b then h.data[b - a]? else none
  | .recipe t a, .recipe u b => if t = u ∧ a ≤ b then h.data[b - a]? else none
  | _, _ => none

/-- The place k bytes further on. -/
def Loc.plus (l : Loc) (k : Nat) : Loc :=
  match l with
  | .gang a => .gang (a + k)
  | .phys a key => .phys (a + k) key
  | .recipe t a => .recipe t (a + k)

/-- Bytes as a team's load sees them: its latest store to a byte while it is withheld or queued, otherwise memory
(11 R244). Stores are listed oldest first. -/
def forward (stores : List HeldStore) (l : Loc) : Nat → List Byte → List Byte
  | _, [] => []
  | k, b :: r => ((stores.reverse.findSome? fun h => h.byteAt (l.plus k)).getD b) :: forward stores l (k + 1) r

/-! ### Accesses of Fordom itself -/

/-- A place owned by this device but named through the domain window is its local place (18 R371). -/
def State.homeLoc (s : State) (l : Loc) : Loc :=
  match l with
  | .phys pa key => if s.target pa == .remote && remoteDevice pa == s.dev.self.toNat then .phys (remoteOffset pa) key else l
  | _ => l

/-- A place is another device's. -/
def State.isRemote (s : State) (l : Loc) : Bool :=
  match l with
  | .phys pa _ => s.target pa == .remote && remoteDevice pa != s.dev.self.toNat
  | _ => false

/-- An access of key k to a place named through this device's own window fails its owner's key check (18 R371, R372). -/
def State.selfRefuses (s : State) (l : Loc) (k : BitVec 12) : Bool :=
  s.homeLoc l != l && !s.keyOk s.dev.domPart.toNat k

/-- The address field a failure of an access at `va` carries (19 Table 19-3). -/
def faultAddr (c : FaultCode) (va : Word) : Word :=
  match c with
  | .recipeInvalid => va - BitVec.ofNat 64 (va.toNat % 65536)
  | .poison => va - BitVec.ofNat 64 (va.toNat % 128)
  | _ => va

/-- What the owner of a place on another device answers to an access of Fordom's own (18 R372, R373): its data or its
failure, which one device does not determine (log 13). -/
def State.ownerAnswer (s : State) (pa n : Nat) : Except FaultCode (List Byte) :=
  match Config.ownerCode s.cycle (remoteDevice pa) (remoteOffset pa) n with
  | 0 => .ok ((List.range n).map fun k => Config.ownerByte s.cycle (remoteDevice pa) (remoteOffset pa + k))
  | 1 => .error .poison
  | 2 => .error .keyInvalid
  | _ => .error .fabricError

/-- Read n bytes at a checked place, which lie within one line: a place on another device is read by its owner, one named
through this device's own window as its owner checks it (18 R371, R372), and a poisoned line fails (10 R228). -/
def State.readPiece (s : State) (c : Ctx) (l : Loc) (leaf : Leaf) (va : Word) (n : Nat) : Except Failure (List Byte) :=
  if s.isRemote l then
    match s.ownerAnswer leaf.pa n with
    | .ok b => .ok b
    | .error f => .error ⟨f, va⟩
  else if s.selfRefuses l leaf.key then .error ⟨.keyInvalid, va⟩
  else if s.badAt c.part 0 (s.homeLoc l) n then .error ⟨.poison, va - BitVec.ofNat 64 (va.toNat % 128)⟩
  else .ok (s.readLoc c.part (match c.team with | some u => (s.team u).gang | none => 0) (s.homeLoc l) n)

/-- Check and read bytes of virtual memory at once: pages apart are checked apart, and a piece that `gate` stops fails
with what it says. The failing address comes with the code. Pieces stay within 128-byte lines. -/
def State.readVa (s : State) (gate : Loc → Option Failure) (c : Ctx) (k : Access) (va : Word) :
    Nat → Nat → Except Failure (List Byte)
  | _, 0 => .ok []
  | 0, _ => .ok []
  | fuel + 1, n =>
    let m := min n (128 - va.toNat % 128)
    match s.check c k va m 1 with
    | .error f => .error ⟨f, faultAddr f va⟩
    | .ok (l, leaf) =>
      match gate l with
      | some f => .error f
      | none =>
        match s.readPiece c l leaf va m with
        | .error f => .error f
        | .ok b =>
          match s.readVa gate c k (va + BitVec.ofNat 64 m) fuel (n - m) with
          | .error e => .error e
          | .ok rest => .ok (b ++ rest)

/-- The context of an access Fordom makes for partition p itself, on the I/O die. -/
def sysCtx (p : Nat) : Ctx := ⟨p, 384, none, none⟩

/-- Fordom's own accesses to a context image or an argument copy: under the key ID of its launch (01 R35, 03 R75). -/
def keyCtx (p : Nat) (k : BitVec 12) : Ctx := ⟨p, 384, none, some k⟩

/-- The context of an access of team u. -/
def State.teamCtx (s : State) (u : Nat) : Ctx := ⟨(s.gang (s.team u).gang).part, (s.team u).core, some u, none⟩

end Sys2Proof.Machine
end

