-- ==== Sys2Proof/Machine/Churn.lean ====
section
/-!
DEFINITION. Kernel images as Fordom reads them (01 R19-R26) and the states of recipe tiles (13 R293-R297).
-/

namespace Sys2Proof.Machine

/-! ### Kernel images -/

/-- The zero test of a byte range. -/
def allZero (l : List Byte) : Bool := l.all (· == 0)

/-- Overlay entries in order cover 0 to n without gaps, each within its range (01 R23, Table 1-2). -/
def ovlsCover : List OvlEntry → Nat → Nat → Bool
  | [], at_, n => at_ == n
  | e :: r, at_, n => e.first == at_ && decide (1 ≤ e.count ∧ e.count ≤ 8192) && ovlsCover r (at_ + e.count) n

/-- Split a byte list into pieces of m bytes. -/
def pieces (m : Nat) : Nat → List Byte → List (List Byte)
  | 0, _ => []
  | k + 1, l => l.take m :: pieces m k (l.drop m)

/-- The overlay table's entries, with whether their reserved fields are 0 (01 Table 1-2). -/
def parseOvls (n : Nat) (l : List Byte) : List (OvlEntry × Bool) :=
  (pieces 16 n l).map fun e =>
    (⟨fieldAt e 0 4, fieldAt e 4 4, fieldAt e 8 4 % 2 == 1⟩, decide (fieldAt e 8 4 < 2) && allZero (e.drop 12))

/-- The decode map's entries (01 R26). -/
def parseMap (l : List Byte) : Table (BitVec 16) :=
  ((pieces 2 1024 l).zipIdx.map fun e => (e.2, BitVec.ofNat 16 (bytesNat e.1))).filter fun e => e.2 != 0

/-- The header's own ranges and alignments, and that its tables lie within IMGSIZE (01 R20, R24). -/
def headerFits (h : List Byte) : Bool :=
  let size := fieldAt h 0x14 4
  let novl := fieldAt h 0x18 2
  let ovl := fieldAt h 0x1C 4
  let trap := fieldAt h 0x20 4
  let dt := fieldAt h 0x24 4
  let dtLen := fieldAt h 0x28 4
  let map := fieldAt h 0x2C 4
  let code := fieldAt h 0x30 4
  let codeLen := fieldAt h 0x34 4
  decide (fieldAt h 0 4 = 0x494B4446) && decide (fieldAt h 4 2 = 1) && decide (fieldAt h 6 2 = 0) &&
    decide (fieldAt h 8 8 ≠ 0) && decide (size % 4096 = 0) && decide (size ≤ 2 ^ 26) && decide (1 ≤ novl ∧ novl ≤ 512) &&
    decide (fieldAt h 0x1A 2 = 0) && decide (ovl % 16 = 0) && decide (dt % 4 = 0) && decide (dtLen ≤ 65536) &&
    decide (map % 64 = 0) && decide (code % 16 = 0) && decide (1 ≤ codeLen ∧ codeLen ≤ 4194304) &&
    decide (trap = 0xFFFFFFFF ∨ trap < codeLen) && allZero (h.drop 0x38) &&
    decide (ovl + 16 * novl ≤ size) && decide (dt + 4 * dtLen ≤ size) && decide (map = 0 ∨ map + 2048 ≤ size) &&
    decide (code + 16 * codeLen ≤ size)

/-! ### Recipe records and tile states -/

/-- The virtual address of a recipe tile (13 R293). -/
def Part.tileVa (p : Part) (n : Nat) : Word := p.rcpWin + BitVec.ofNat 64 (65536 * n)

/-- The virtual address of a tile's record (13 R293). -/
def Part.recordVa (p : Part) (n : Nat) : Word := p.rcpBase + BitVec.ofNat 64 (64 * n)

/-- Read a tile's record; a failure carries the record's address (13 R295). -/
def State.record (s : State) (p n : Nat) : Except Failure (List Byte) :=
  match s.readVa (fun _ => none) (sysCtx p) .load ((s.part p).recordVa n) 2 64 with
  | .error f => .error ⟨f.code, (s.part p).recordVa n⟩
  | .ok r => .ok r

/-- The gang rebuilding tile n of partition p (13 R301). -/
def State.recomputeGang (s : State) (p n : Nat) : Option Nat :=
  (s.gangs.find? fun g => g.2.part == p && match g.2.recompute with | some r => r.live && r.tile == n | none => false).map (·.1)

/-- The state of a tile (13 Table 13-3). -/
inductive TileState where
  | free | opened | sealed | dropped | recompute
deriving DecidableEq, Repr, Inhabited

/-- The number of a tile state in a record (13 Table 13-2). -/
def TileState.num : TileState → Nat
  | .free => 0
  | .opened => 1
  | .sealed => 2
  | .dropped => 3
  | .recompute => 4

/-- The state the Churn acts on (13 R295): what the record holds, but a SEALED tile with a line not resident, or a
RECOMPUTE without its recompute, is DROPPED, and a reserved value is RECIPE_INVALID with the tile's address. -/
def State.tileState (s : State) (p n : Nat) : Except Failure TileState :=
  match s.record p n with
  | .error f => .error f
  | .ok r =>
    match fieldAt r 0 1 % 16 with
    | 0 => .ok .free
    | 1 => .ok .opened
    | 2 => .ok (if ((s.part p).rtile n).resident then .sealed else .dropped)
    | 3 => .ok .dropped
    | 4 => .ok (if (s.recomputeGang p n).isSome then .recompute else .dropped)
    | _ => .error ⟨.recipeInvalid, (s.part p).tileVa n⟩

/-- Send a store of Fordom's own to another device (18 R372). -/
def State.sendOwner (s : State) (pa : Nat) (key : BitVec 12) (data : List Byte) : State :=
  { s with ms := { s.ms with
      sent := (remoteDevice pa, ⟨.store data, remoteOffset pa, data.length, key, s.dev.ndev.toNat⟩) :: s.ms.sent } }

/-- Fordom's own write of a record's STATE, with GEN advanced on a return to FREE (13 R295, R296): where the record is read,
be that a recipe page, this device's own window or another device. -/
def State.setTileState (s : State) (p n : Nat) (st : TileState) (bumpGen : Bool) : State :=
  match s.check (sysCtx p) .load ((s.part p).recordVa n) 64 1, s.record p n with
  | .ok (l, leaf), .ok old =>
    let b0 := BitVec.ofNat 8 (fieldAt old 0 1 / 16 * 16 + st.num)
    let gen := if bumpGen then natBytes (fieldAt old 4 4 + 1) 4 else (old.drop 4).take 4
    let new := b0 :: ((old.drop 1).take 3 ++ gen)
    if s.isRemote l then s.sendOwner leaf.pa leaf.key new else s.writeLoc p 0 (s.homeLoc l) new
  | _, _ => s

/-- Partition p with `f` applied to tile n. -/
def State.modTile (s : State) (p n : Nat) (f : RTile → RTile) : State :=
  s.modPart p fun q => { q with rtiles := tset q.rtiles n (f (q.rtile n)) }

/-- The tile becomes DROPPED: its lines are discarded and its charge released (13 R296, R297). -/
def State.dropTile (s : State) (p n : Nat) : State :=
  (s.setTileState p n .dropped false).modTile p n fun t =>
    { t with bytes := [], resident := false, holder := none, lines := [], bad := [] }

/-- The tile returns to FREE: lines discarded, PINS 0, charge released, GEN + 1 (13 R296). -/
def State.freeTile (s : State) (p n : Nat) : State :=
  (s.setTileState p n .free true).modTile p n fun t =>
    { t with bytes := [], resident := false, holder := none, lines := [], pins := 0, bad := [] }

/-- HPIN of a tile (13 R296): a running recompute holds it as a source. -/
def State.hpin (s : State) (p n : Nat) : Bool :=
  s.gangs.any fun g => g.2.part == p && match g.2.recompute with | some r => r.live && r.sources.contains n | none => false

/-- The lines charged to a gang: the lines it has locked and those of the recipe tiles it holds (10 R239, 13 R297). -/
def State.charged (s : State) (g : Nat) : Nat :=
  (s.gang g).locks.length +
    (((s.part (s.gang g).part).rtiles.filter fun t => t.2.holder == some g).map (·.2.lines.length)).sum

/-- The charged, resident, sealed tiles of a gang, with whether each may be dropped (13 R297). -/
def State.sealedOf (s : State) (g : Nat) : List (Nat × RTile × Bool) :=
  let p := (s.gang g).part
  ((s.part p).rtiles.filter fun t => t.2.holder == some g && (s.tileState p t.1).toOption == some .sealed).map fun t =>
    (t.1, t.2, t.2.pins == 0 && !s.hpin p t.1)

/-- The droppable tile of a gang that was read longest ago (13 R297). -/
def oldestDroppable : List (Nat × RTile × Bool) → Option (Nat × Nat)
  | [] => none
  | (n, t, ok) :: r =>
    match oldestDroppable r with
    | none => if ok then some (n, t.readAt) else none
    | some (m, at_) => if ok ∧ t.readAt < at_ then some (n, t.readAt) else some (m, at_)

/-- Ways reserved for the frame exchange and for partition shadows, and those left for general use (10 R225). -/
def State.generalWays (s : State) : Nat :=
  let shadow := ((s.parts.filter fun p => p.2.st != .off).map fun p => p.2.shadow.toNat).sum
  12 - ceilDiv (s.dev.fxSize.toNat * 32) 48 - ceilDiv shadow 48

/-- The lines locked by the gangs. -/
def State.lockedLines (s : State) : List Nat := s.gangs.flatMap fun g => g.2.locks

/-- No line of the tile may be evicted: it is OPEN or RECOMPUTE, or sealed and pinned (13 R296, R297). -/
def State.tilePinned (s : State) (p n : Nat) : Bool :=
  match s.tileState p n with
  | .ok .opened => true
  | .ok .recompute => true
  | .ok .sealed => ((s.part p).rtile n).pins != 0 || s.hpin p n
  | _ => false

/-- The address that gives a tile's line its home (13 R294). -/
def State.tileLinePa (s : State) (p n off : Nat) : Option Nat :=
  (s.xlate (sysCtx p) ((s.part p).tileVa n + BitVec.ofNat 64 off)).toOption.map (·.pa)

/-- The lines that are pinned in general frames: locked ones and those of tiles that may not be evicted. -/
def State.pinnedTileLines (s : State) : List (Nat × Nat × Nat) :=
  s.parts.flatMap fun q => (q.2.rtiles.filter fun t => s.tilePinned q.1 t.1).flatMap fun t =>
    t.2.lines.map fun o => (q.1, t.1, o)

/-- A sealed tile may leave the L2: it is resident and neither pinned nor held as a source (13 Table 13-3). -/
def State.mayDrop (s : State) (p n : Nat) : Bool :=
  (s.tileState p n).toOption == some .sealed && ((s.part p).rtile n).pins == 0 && !s.hpin p n

/-- The lines of resident recipe tiles. -/
def State.tileLines (s : State) : List (Nat × Nat × Nat) :=
  s.parts.flatMap fun q => (q.2.rtiles.filter fun t => t.2.resident).flatMap fun t => t.2.lines.map fun o => (q.1, t.1, o)

/-- A line's contents match a pattern by which it fills half a frame (10 R227): its words of `n` bytes, modulo their width,
each differ from the first by a signed value of `k` bits. A line of zeros is one such. -/
def deltasFit (b : List Byte) (n k : Nat) : Bool :=
  (List.range (128 / n)).all fun i =>
    decide ((fieldAt b (n * i) n + 2 ^ (8 * n) + 2 ^ (k - 1) - fieldAt b 0 n) % 2 ^ (8 * n) < 2 ^ k)

/-- The half frames a line of a tile fills in its slice (10 R227). -/
def State.tileLineLoad (s : State) (p n off : Nat) : Nat :=
  let b := Memory.readBytes ((s.part p).rtile n).bytes off 128
  if deltasFit b 4 8 || deltasFit b 8 24 then 1 else 2

/-- The lines that hold general frames, with the half frames each fills: the locked ones, uncompressed (10 R239), and those of
recipe tiles, of all or of those that may not be evicted. -/
def State.lineLoads (s : State) (pinned : Bool) : List (Nat × Nat) :=
  s.lockedLines.eraseDups.map (fun a => (a, 2)) ++
    (if pinned then s.pinnedTileLines else s.tileLines).filterMap fun x =>
      (s.tileLinePa x.1 x.2.1 x.2.2).map fun a => (a, s.tileLineLoad x.1 x.2.1 x.2.2)

/-- The home slices of some lines in which the lines that hold frames do not fit (10 R225, R226). A total within one slice's
frames needs no look at the slices. -/
def State.crowded (s : State) (pinned : Bool) (pas : List Nat) : List (Nat × Nat) :=
  let cap := s.generalWays * 1024
  if s.lockedLines.length + (if pinned then s.pinnedTileLines else s.tileLines).length ≤ cap then []
  else (pas.map homeOf).filter fun h =>
    decide (2 * cap < (((s.lineLoads pinned).filter fun x => homeOf x.1 == h).map (·.2)).sum)

/-- Sealed tiles leave the L2 while home slices of some lines are full: of those with a line there the one read longest ago
first (13 Table 13-3; which one the L2 selects the spec does not say: DESIGN CHOICE, log 71). -/
def State.evictTiles (s : State) (pas : List Nat) : Nat → State
  | 0 => s
  | fuel + 1 =>
    match s.crowded false pas with
    | [] => s
    | h :: _ =>
      let there := fun (q m : Nat) => ((s.part q).rtile m).lines.any fun o => ((s.tileLinePa q m o).map homeOf) == some h
      let cands := s.parts.flatMap fun q => (q.2.rtiles.filter fun t => s.mayDrop q.1 t.1 && there q.1 t.1).map fun t => (q.1, t.1, t.2.readAt)
      match cands with
      | [] => s
      | x :: r =>
        let y := r.foldl (fun b c => if c.2.2 < b.2.2 then c else b) x
        (s.dropTile y.1 y.2.1).evictTiles pas fuel

/-- Find frames for some lines that the state now holds: sealed tiles leave where a home slice is full; none where its
frames are all pinned (13 R297). -/
def State.findFrames (s : State) (pas : List Nat) : Option State :=
  if s.crowded true pas = [] then some (s.evictTiles pas (s.parts.map fun q => q.2.rtiles.length).sum) else none

/-- What a store to a tile comes to (13 R297). -/
inductive Quota where
  | fits (s : State)
  | wait (tile : Nat)
  | beyond

/-- Make room in a gang's quota for `need` more lines by dropping its sealed tiles, least recently read first. -/
def State.makeRoom (s : State) (g need : Nat) : Nat → Quota
  | 0 => .beyond
  | fuel + 1 =>
    if s.charged g + need ≤ (s.part (s.gang g).part).lockQuota.toNat then .fits s
    else match oldestDroppable (s.sealedOf g) with
      | some (n, _) => (s.dropTile (s.gang g).part n).makeRoom g need fuel
      | none => match s.sealedOf g with
        | (n, _, _) :: _ => .wait n
        | [] => .beyond

/-- The outcome of a store performed on a recipe tile (13 Table 13-3, R297, R478). -/
inductive TileStore where
  | done (s : State)
  | refused (f : Failure)
  | wait (tile : Nat)

/-- Do a store's write once the lines it writes have frames, each compressed anew (10 R227): it waits while those of their
home slices are all pinned. -/
def State.framed (s : State) (p n : Nat) (at_ : List Nat) (put : State → State) : TileStore :=
  let s1 := put s
  match s1.findFrames (at_.filterMap (s1.tileLinePa p n)) with
  | some x => .done x
  | none => .wait n

/-- Perform a store of gang g, or of none, to bytes of tile n; `va` is the store's address. It waits while every general
frame of the home slice of a new line is pinned. -/
def State.tileStore (s : State) (p : Nat) (g : Option Nat) (n off : Nat) (va : Word) (data : List Byte) : TileStore :=
  let own := g.isSome && s.recomputeGang p n == g
  let at_ := linesOf off data.length
  let put := fun (x : State) => x.modTile p n fun t => { t with
    bytes := Memory.writeBytes t.bytes off data
    bad := mended t.bad off data.length
    lines := t.lines ++ at_.filter fun l => !t.lines.contains l }
  match s.tileState p n with
  | .error f => .refused f
  | .ok .recompute =>
    if !own then .refused ⟨.recipeSealedWrite, va⟩
    else s.framed p n at_ put
  | .ok .sealed => .refused ⟨.recipeSealedWrite, va⟩
  | .ok .dropped => .refused ⟨.recipeSealedWrite, va⟩
  | .ok st =>
    let s0 := if st == .free then (s.setTileState p n .opened false).modTile p n fun t =>
        { t with bytes := [], resident := true, holder := g, lines := [], bad := [] } else s
    let t := (s0.part p).rtile n
    let fresh := at_.filter fun l => !t.lines.contains l
    match t.holder with
    | none => s0.framed p n at_ put
    | some h =>
      if fresh.isEmpty then s0.framed p n at_ put
      else match s0.makeRoom h fresh.length ((s0.part p).rtiles.length + 1) with
        | .fits s1 => s1.framed p n at_ put
        | .wait m => .wait m
        | .beyond => .refused ⟨.recipeQuota, BitVec.ofNat 64 (lineOf va.toNat)⟩

/-! ### Accesses of Fordom itself -/

/-- What a read of Fordom's own, or of a table a team names, meets at a recipe tile (13 Table 13-3): a FREE tile, or one that
is not resident, fails it; R301 has teams and engine commands start a recompute (DESIGN CHOICE, log 13). -/
def State.tileGate (s : State) (c : Ctx) (l : Loc) : Option Failure :=
  match l with
  | .recipe t _ =>
    let none_ : Failure := ⟨.recipeInvalid, (s.part c.part).tileVa t⟩
    (match s.tileState c.part t with
    | .error f => some f
    | .ok .opened => none
    | .ok .sealed => none
    | .ok .recompute => if s.recomputeGang c.part t == c.team.map fun u => (s.team u).gang then none else some none_
    | .ok _ => some none_)
  | _ => none

/-- Read n bytes of virtual memory at device scope. -/
def State.readMem (s : State) (c : Ctx) (k : Access) (va : Word) (n : Nat) : Except Failure (List Byte) :=
  s.readVa (s.tileGate c) c k va (n / 128 + 2) n

/-- Check and write bytes of virtual memory; what precedes a failing piece has been written. A recipe tile is met as a store
meets it (13 Table 13-3, R297), and one with no frame free fails the write with RECIPE_QUOTA (DESIGN CHOICE, log 13); a place on another device is sent to
its owner, whose failure is the write's (18 R372, R373). -/
def State.writeVa (s : State) (c : Ctx) (va : Word) : Nat → List Byte → State × Option Failure
  | 0, _ => (s, none)
  | fuel + 1, data =>
    if data.isEmpty then (s, none)
    else
      let m := 128 - va.toNat % 128
      let d := data.take m
      let g := c.team.map fun u => (s.team u).gang
      let go := fun (x : State) => x.writeVa c (va + BitVec.ofNat 64 m) fuel (data.drop m)
      match s.check c .store va d.length 1 with
      | .error f => (s, some ⟨f, faultAddr f va⟩)
      | .ok (.recipe n off, _) =>
        (match s.tileStore c.part g n off va d with
        | .refused f => (s, some f)
        | .wait _ => (s, some ⟨.recipeQuota, va⟩)
        | .done s1 => go s1)
      | .ok (l, leaf) =>
        if s.isRemote l then
          match s.ownerAnswer leaf.pa d.length with
          | .error f => (s, some ⟨f, va⟩)
          | .ok _ => go (s.sendOwner leaf.pa leaf.key d)
        else if s.selfRefuses l leaf.key then (s, some ⟨.keyInvalid, va⟩)
        else go (s.writeLoc c.part (g.getD 0) (s.homeLoc l) d)

/-- Write bytes of virtual memory at device scope; the state after what could be written, and the failure. -/
def State.writeMem (s : State) (c : Ctx) (va : Word) (data : List Byte) : State × Option Failure :=
  s.writeVa c va (data.length / 128 + 2) data

/-- Write bytes only if every piece passes its checks. -/
def State.writeAll (s : State) (c : Ctx) (va : Word) (data : List Byte) : State × Option Failure :=
  match s.writeMem c va data with
  | (_, some f) => (s, some f)
  | (s1, none) => (s1, none)

/-! ### Reading an image -/

/-- Read and check a kernel image; a contents check that fails is OPERAND_INVALID with the image's address
(01 R20-R26, Table 1-5 check 1). The opcode map is read at one instant (DESIGN CHOICE, log 4: 05 R123 admits the old or the
new value of each word written meanwhile). -/
def State.loadImage (s : State) (c : Ctx) (base : Word) : Except Failure Image :=
  match s.readMem c .load base 256 with
  | .error f => .error f
  | .ok h =>
    if base.toNat % 4096 ≠ 0 || !headerFits h then .error ⟨.operandInvalid, base⟩
    else
      let at_ := fun (off : Nat) => base + BitVec.ofNat 64 (fieldAt h off 4)
      match s.readMem c .load (at_ 0x1C) (16 * fieldAt h 0x18 2) with
      | .error f => .error f
      | .ok o =>
        let ovls := parseOvls (fieldAt h 0x18 2) o
        if !(ovls.all (·.2) && ovlsCover (ovls.map (·.1)) 0 (fieldAt h 0x34 4)) then .error ⟨.operandInvalid, base⟩
        else
          let build := fun (m : DecodeMap) =>
            ({ base := base, handle := BitVec.ofNat 64 (fieldAt h 8 8), gen := BitVec.ofNat 32 (fieldAt h 0x10 4),
               ovls := ovls.map (·.1),
               trapVec := if fieldAt h 0x20 4 = 0xFFFFFFFF then none else some (fieldAt h 0x20 4),
               dtBase := at_ 0x24, dtLen := fieldAt h 0x28 4, decMap := m, codeBase := at_ 0x30,
               codeLen := fieldAt h 0x34 4 } : Image)
          if fieldAt h 0x2C 4 = 0 then .ok (build none)
          else
            match s.readMem c .load (at_ 0x2C) 2048 with
            | .error f => .error f
            | .ok m => .ok (build (some (parseMap m)))

end Sys2Proof.Machine
end

