-- ==== Sys2Proof/Machine/Ops.lean ====
section
/-!
DEFINITION. The named operations of the machine: the registers of the team being executed (04 Table 4-3, 06 R129), the
completion and waiting of slot operations, trace packets (21 R421-R424), fault records and error logs (19 R402, 02 R64,
26 R477), checkpoints and rollback (19 R385-R392), withheld stores (19 R387, 13 R478), the end of a team, containment
(19 R400), recompute failure (13 R304), and taking a fault (19 R393-R396), one operation for every fault.
-/

namespace Sys2Proof

/-- The slots of a bundle by number. -/
def Bundle.slot (b : Bundle) (k : Nat) : Instr :=
  match k with
  | 0 => b.s
  | 1 => b.v1
  | 2 => b.v2
  | _ => b.m

/-- DONE of a bundle's NOP slots, which complete at dispatch (06 R126). -/
def Bundle.nops (b : Bundle) : BitVec 4 :=
  (List.range 4).foldl (fun d k => if (b.slot k).opNum = 0 then d ||| (1#4 <<< k) else d) 0

end Sys2Proof

namespace Sys2Proof.Machine

/-! ### Register files (04 Table 4-3) -/

/-- s0 to s63; s0 reads 0. -/
def Regs.sget (r : Regs) (i : Nat) : Word := if i = 0 then 0 else tget 0 r.s i

/-- Writes to s0 are ignored. -/
def Regs.sset (r : Regs) (i : Nat) (v : Word) : Regs := if i = 0 then r else { r with s := tset r.s i v }

/-- c0 to c7; c0 reads 1. -/
def Regs.cget (r : Regs) (i : Nat) : Bool := decide (i = 0) || r.c.getLsbD i

/-- Writes to c0 are ignored. -/
def Regs.cset (r : Regs) (i : Nat) (b : Bool) : Regs :=
  if i = 0 then r
  else { r with c := if b then r.c ||| (1#8 <<< i) else r.c &&& ~~~(1#8 <<< i) }

/-- The mask of a team's W lanes. -/
def lanesMask (w : Nat) : LaneMask := BitVec.ofNat 1024 (2 ^ w - 1)

/-- p0 to p7; p0 reads all ones. -/
def Regs.pget (r : Regs) (i : Nat) : LaneMask := if i = 0 then BitVec.allOnes 1024 else tget 0 r.p i

/-- Writes to p0 are ignored. -/
def Regs.pset (r : Regs) (i : Nat) (m : LaneMask) : Regs := if i = 0 then r else { r with p := tset r.p i m }

/-- Vector register i. -/
def Regs.vreg (r : Regs) (i : Nat) : VReg := tget [] r.v i

/-- Lane L of vector register i. -/
def Regs.vget (r : Regs) (i l : Nat) : Lane := (r.vreg i).getD l 0

/-- A vector register of a team of W lanes with the lanes of a mask replaced. -/
def VReg.put (w : Nat) (m : LaneMask) (x : Nat → Lane) (old : VReg) : VReg :=
  (List.range w).map fun l => if m.getLsbD l then x l else old.getD l 0

/-- The register state with the lanes of a mask of vector register i replaced. -/
def Regs.vput (r : Regs) (w i : Nat) (m : LaneMask) (x : Nat → Lane) : Regs :=
  { r with v := tset r.v i (VReg.put w m x (r.vreg i)) }

/-- The top entry of the mask stack. -/
def Regs.top (r : Regs) : MaskEntry := r.masks.headD ⟨0, false, false, 0, 0⟩

/-- The summary word of a mask (06 R138, R140). -/
def summary (m : LaneMask) : BitVec 32 :=
  BitVec.ofNat 32 (((List.range 32).filter fun k => m.extractLsb' (32 * k) 32 != 0).map fun k => 2 ^ k).sum

/-- Mask word k. -/
def maskWord (m : LaneMask) (k : Nat) : BitVec 32 := m.extractLsb' (32 * k) 32

/-- The mask with the lanes of a list. -/
def maskOf (l : List Nat) : LaneMask := l.foldl (fun m i => m ||| (1#1024 <<< i)) 0

/-- The lanes of a mask among the first W, ascending. -/
def lanesOf (w : Nat) (m : LaneMask) : List Nat := (List.range w).filter fun l => m.getLsbD l

/-! ### The operation being executed -/

/-- The team whose slot operation is executed. -/
def State.me (s : State) : Team := s.team s.issue.team

/-- The state with that team replaced. -/
def State.setMe (s : State) (t : Team) : State := s.setTeam s.issue.team t

/-- The state with `f` applied to that team. -/
def State.modMe (s : State) (f : Team → Team) : State := s.setMe (f s.me)

/-- The gang of that team. -/
def State.myGang (s : State) : Gang := s.gang s.me.gang

/-- The state with `f` applied to the gang of that team. -/
def State.modMyGang (s : State) (f : Gang → Gang) : State := s.modGang s.me.gang f

/-- The register state that slot operations of the bundle read: as it stands after all earlier bundles (06 R129). -/
def Team.before (t : Team) : Regs :=
  match t.flight with
  | some f => f.before
  | none => t.regs

/-- The register state the operation reads. -/
def State.rd (s : State) : Regs := s.me.before

/-- The state with `f` applied to the registers of the team. -/
def State.modRegs (s : State) (f : Regs → Regs) : State := s.modMe fun t => { t with regs := f t.regs }

/-- The state with `f` applied to the registers of the team and of its checkpoint, as a committing operation writes
(19 R390). -/
def State.modRegsC (s : State) (f : Regs → Regs) : State :=
  s.modMe fun t => { t with regs := f t.regs, ckpt := { t.ckpt with regs := f t.ckpt.regs } }

/-- The operation of the slot has completed (06 R126). -/
def State.fin (s : State) : State :=
  s.modMe fun t => { t with flight := t.flight.map fun f => { f with done := f.done ||| (1#4 <<< s.issue.slot) } }

/-- A committing operation of the slot has completed: its slot joins the checkpoint's DONE (19 R390). -/
def State.finC (s : State) : State :=
  s.modMe fun t =>
    { t with
      flight := t.flight.map fun f => { f with done := f.done ||| (1#4 <<< s.issue.slot) }
      kept := match t.flight with
        | some f => (t.ckpt.done ||| (1#4 <<< s.issue.slot) ||| f.bundle.nops) == 0xF
        | none => t.kept
      ckpt := { t.ckpt with
        done := t.ckpt.done ||| (1#4 <<< s.issue.slot)
        flow := (t.flight.map (·.flow)).getD t.ckpt.flow
        olds := (t.flight.map (·.olds)).getD t.ckpt.olds } }

/-- The operation waits for a condition and is tried again when it holds (06 R142). -/
def State.wait (s : State) (c : WaitCond) : State := s.modMe fun t => { t with waits := t.waits ++ [c] }

/-- Two choices of flow in one bundle: CPYY's continuation stands over a branch, END and TRET over it (11 R264). -/
def Flow.over (old new : Flow) : Flow :=
  match old, new with
  | .cont n t, .jump _ => .cont n t
  | .cont n t, .leave _ => .cont n t
  | .ended, .cont _ _ => .ended
  | .tret m, .cont _ _ => .tret m
  | _, x => x

/-- Flow leaves the bundle as given. -/
def State.flow (s : State) (x : Flow) : State :=
  s.modMe fun t => { t with flight := t.flight.map fun f => { f with flow := f.flow.over x } }

/-- The index of the bundle being executed. -/
def State.pos (s : State) : Nat := s.me.pc

/-- The byte address of a bundle of an image (01 R22). -/
def Image.bundleVa (i : Image) (n : Nat) : Word := i.codeBase + BitVec.ofNat 64 (16 * n)

/-- The byte address of the bundle being executed. -/
def State.bundleVa (s : State) : Word := s.myGang.image.bundleVa s.me.pc

/-- The top mask a V or M operation of the bundle uses (06 R130). -/
def State.topMask (s : State) : LaneMask := s.rd.top.mask

/-- The effective mask of a V or M operation with guard g, less the lanes it has already performed (06 R138, 19 R391). -/
def State.effMask (s : State) (g : BitVec 3) : LaneMask :=
  let m := s.topMask &&& s.rd.pget g.toNat
  if s.issue.slot = 3 then m &&& ~~~((s.me.flight.map (·.mlanes)).getD 0) else m

/-- The active lanes of an effective mask. -/
def State.active (s : State) (m : LaneMask) : List Nat := lanesOf s.me.lanes m

/-! ### Trace (21) -/

/-- A team is traced (21 R418). -/
def State.traced (s : State) (t : Team) : Bool :=
  let g := s.gang t.gang
  s.trace.en && s.trace.parts.getLsbD g.part && (!s.trace.hfilt || s.trace.handle == g.image.handle) && t.st != .out

/-- The trace entity of a team's slot (21 R421); a team with no slot has a number that no slot has. -/
def Team.entity (t : Team) : Nat := if t.slot < Config.coreSlots then t.core * Config.coreSlots + t.slot else 384 * Config.coreSlots

/-- A packet's header word (21 Table 21-4). -/
def traceHeader (type e slot : Nat) (flag : Bool) (dt : Nat) (addr : Word) (npay : Nat) : Word :=
  BitVec.ofNat 64 (type * 2 ^ 60 + e * 2 ^ 46 + slot * 2 ^ 44 + (if flag then 2 ^ 43 else 0) + dt * 2 ^ 32 +
    bitsOf addr.toNat 31 4 * 16 + npay)

/-- An entity no SYNC has bound: it owes one of reason 1 (21 R422). -/
def TraceEnt.unbound : TraceEnt := ⟨0, 0, 0, [1], true⟩

/-- What trace keeps of entity e. -/
def State.ent (s : State) (e : Nat) : TraceEnt := tget TraceEnt.unbound s.trace.ents e

/-- The state with `f` applied to what trace keeps of entity e. -/
def State.modEnt (s : State) (e : Nat) (f : TraceEnt → TraceEnt) : State :=
  { s with trace := { s.trace with ents := tset s.trace.ents e (f (s.ent e)) } }

/-- The entity owes a SYNC of a reason. -/
def TraceEnt.owe (x : TraceEnt) (reason : Nat) : TraceEnt :=
  if x.pending.contains reason then x else { x with pending := x.pending ++ [reason] }

/-- A slot gets a team: its entity owes a SYNC of the reason for that, after one of reason 5 that is still due (21 R419,
R421). -/
def State.bindSlot (s : State) (e reason : Nat) : State :=
  s.modEnt e fun x => ⟨0, 0, 0, (if x.pending.contains 5 then [5] else []) ++ [reason], true⟩

/-- A packet of an entity is dropped and counted; the entity owes a SYNC of reason 5 (21 R419, R422). -/
def State.dropPacket (s : State) (e : Nat) : State :=
  let t := s.trace
  ({ s with trace := { t with
      lost := t.lost + 1
      drops := t.drops + 1
      firstDrop := if t.drops = 0 then s.tick else t.firstDrop } } : State).modEnt e (·.owe 5)

/-- The LOSS packet of the drops outstanding (21 R424). -/
def Trace.loss (t : Trace) : List Word :=
  if t.drops = 0 then [] else [traceHeader 4 0x3FFF 0 false 0 0 2, BitVec.ofNat 64 t.drops, BitVec.ofNat 64 t.firstDrop]

/-- Put a packet's words on the stream: into the buffer, and on to the receiver while the link is up (21 R419, R420). A
packet that does not fit is dropped and counted; one that fits after drops is preceded by a LOSS (21 R424). -/
def State.pushPacket (s : State) (e : Nat) (ws : List Word) : State :=
  let t := s.trace
  if t.buffer.length + t.loss.length + ws.length ≤ 32768 then
    let all := t.buffer ++ t.loss ++ ws
    if t.link then { s with trace := { t with buffer := [], sent := all.reverse ++ t.sent, drops := 0 } }
    else { s with trace := { t with buffer := all, drops := 0 } }
  else s.dropPacket e

/-- The SYNC packet of a team at a bundle address (21 R422). -/
def State.putSync (s : State) (u : Nat) (va : Word) (reason : Nat) : State :=
  let t := s.team u
  let e := t.entity
  let r := t.regs
  let ws := [traceHeader 0 e 0 false 0 va 4, s.timer, va,
    BitVec.ofNat 64 (t.img.toNat / 4096 * 4096 + (s.gang t.gang).part * 256 + t.teamId),
    BitVec.ofNat 64 ((summary r.top.mask).toNat + (r.masks.length - 1) * 2 ^ 32 + r.loops.length * 2 ^ 38 + reason * 2 ^ 42)]
  (s.modEnt e fun x => ⟨va.toNat / 2 ^ 32, s.tick, s.tick, x.pending.filter (· != reason), false⟩).pushPacket e ws

/-- The SYNCs a team's entity owes go out. -/
def State.paySyncs (s : State) (u : Nat) (va : Word) : State :=
  (s.ent (s.team u).entity).pending.foldl (fun x r => x.putSync u va r) s

/-- A traced team emits a SYNC of a reason, after those it owes (21 R418, R419, R422). -/
def State.emitSync (s : State) (u : Nat) (va : Word) (reason : Nat) : State :=
  if s.traced (s.team u) then (s.modEnt (s.team u).entity (·.owe reason)).paySyncs u va else s

/-- A team stands in a slot anew: its entity owes a SYNC of the reason, which goes out at once where the team is traced
(21 R421). -/
def State.rebind (s : State) (u reason : Nat) : State :=
  let t := s.team u
  let s1 := s.bindSlot t.entity reason
  if s.traced t then s1.paySyncs u ((s.gang t.gang).image.bundleVa t.pc) else s1

/-- The SYNCs due before a packet with address `va` of a traced team: those owed, at the bundle where the team stands; one
of reason 6 where the high bits of the address change; else a periodic one (21 R421, R422). -/
def State.syncDue (s : State) (u : Nat) (va : Word) : State :=
  let t := s.team u
  if s.traced t then
    let here := (s.gang t.gang).image.bundleVa t.pc
    let s1 := s.paySyncs u here
    let x := s1.ent t.entity
    if !x.pending.isEmpty then s1
    else if x.syncHi ≠ va.toNat / 2 ^ 32 then s1.putSync u va 6
    else if s.trace.syncPer ≠ 0 ∧ x.syncAt + s.trace.syncPer.toNat * 1024 ≤ s.tick then s1.putSync u here 0
    else s1
  else s

/-- A packet of an entity goes onto the stream, but not before the SYNC the entity still owes: where that did not fit,
the packet is dropped with it (21 R419). -/
def State.sendPacket (s : State) (e : Nat) (ws : List Word) : State :=
  if (s.ent e).pending.isEmpty then s.pushPacket e ws else s.dropPacket e

/-- Emit a control packet of a team (21 R421, R423), after the SYNCs that are due before it. -/
def State.emit (s : State) (u type slot : Nat) (flag : Bool) (va : Word) (pay : List Word) : State :=
  let t := s.team u
  if s.traced t then
    let e := t.entity
    let s1 := s.syncDue u va
    (s1.sendPacket e (traceHeader type e slot flag (min (s1.tick - (s1.ent e).lastAt) 2047) va pay.length :: pay)).modEnt e
      fun x => { x with lastAt := s1.tick }
  else s

/-- The SYNCs due before the packet of the operation being executed, which show the stacks as they stand before it
(21 R422). -/
def State.dueOp (s : State) : State := s.syncDue s.issue.team s.bundleVa

/-- A control packet of the operation being executed. -/
def State.emitOp (s : State) (type : Nat) (flag : Bool) (pay : List Word) : State :=
  s.emit s.issue.team type s.issue.slot flag s.bundleVa pay

/-- The words a MASK packet names: those non-zero in the new top that differ from the old (21 Table 21-5). -/
def maskChanges (old new : LaneMask) : List Word :=
  ((List.range 32).filter fun k => maskWord new k != 0 && maskWord new k != maskWord old k).map fun k =>
    BitVec.ofNat 64 ((maskWord new k).toNat * 2 ^ 32 + k)

/-- The MASK packets of the operation being executed: at most 14 words to a packet (21 R423). -/
def State.emitMask (s : State) (old new : LaneMask) (depth : Nat) : State :=
  let w0 : Word := BitVec.ofNat 64 ((summary new).toNat + (depth - 1) * 2 ^ 32)
  let ws := maskChanges old new
  let s1 := s.emitOp 2 false (w0 :: ws.take 14)
  let s2 := if ws.length > 14 then s1.emitOp 2 true (w0 :: (ws.drop 14).take 14) else s1
  if ws.length > 28 then s2.emitOp 2 true (w0 :: ws.drop 28) else s2

/-! ### Logs -/

/-- A fault record (19 Table 19-2). -/
structure FaultRec where
  code : Nat
  slot : Nat
  kind : Nat
  inner : Nat
  teamId : Nat
  part : Nat
  gang : Nat
  core : Nat
  addr : Word
  faddr : Word
  ckpt : Word
  tick : Word
  teamRef : Word
  lsum : BitVec 32
  first : Nat
deriving DecidableEq, Repr, Inhabited

/-- The 64 bytes of a fault record. -/
def FaultRec.bytes (r : FaultRec) : List Byte :=
  natBytes (r.code + r.slot * 2 ^ 8 + r.kind * 2 ^ 12) 4 ++ natBytes (r.inner + r.teamId * 2 ^ 8 + r.part * 2 ^ 16) 4 ++
    natBytes r.gang 4 ++ natBytes r.core 4 ++ natBytes r.addr.toNat 8 ++ natBytes r.faddr.toNat 8 ++
    natBytes r.ckpt.toNat 8 ++ natBytes r.tick.toNat 8 ++ natBytes r.teamRef.toNat 8 ++ natBytes r.lsum.toNat 4 ++
    natBytes (r.first % 1024) 4

/-- Append a record to a partition's queue error log (02 R64). -/
def State.logQueue (s : State) (p : Nat) (r : FaultRec) : State :=
  s.modPart p fun q => { q with qel := tset q.qel (q.qelCnt.toNat % 16) r.bytes, qelCnt := q.qelCnt + 1 }

/-- Append a record to a partition's debug log (19 Table 19-4). -/
def State.logDebug (s : State) (p : Nat) (r : FaultRec) : State :=
  s.modPart p fun q => { q with dbgEv := tset q.dbgEv (q.dbgEvCnt.toNat % 16) r.bytes, dbgEvCnt := q.dbgEvCnt + 1 }

/-- Append a record to the device error log (26 R477, Table 26-4). -/
def State.logDevice (s : State) (code src unit detail : Nat) (addr : Word) : State :=
  let b := natBytes (code + src * 2 ^ 8 + unit * 2 ^ 16) 4 ++ natBytes detail 4 ++ natBytes addr.toNat 8 ++
    natBytes s.timer.toNat 8 ++ natBytes 0 8
  { s with mgmt := { s.mgmt with
      errLog := tset s.mgmt.errLog (s.mgmt.errCnt.toNat % 64) b, errCnt := s.mgmt.errCnt + 1 } }

/-- A write on behalf of no team, whole or not at all: a refused one is logged as an engine's (19 R401). -/
def State.writeOrLog (s : State) (c : Ctx) (va : Word) (data : List Byte) : State :=
  match s.writeAll c va data with
  | (s1, none) => s1
  | (_, some f) => s.logDevice f.code.num 1 2 0 f.addr

/-- Launch l. -/
def State.launch (s : State) (l : Nat) : Launch := tget Launch.absent s.launches l

/-- Write a fault record of a launch: to its fault area in order of occurrence, to the queue error log where the write
fails, counted either way (01 R32). With FAULTAREA 0 it is counted and written nowhere (DESIGN CHOICE, log 67: the rule
does not say). `fatal` marks an unhandled fault, which makes STATE 2 and may be FIRST
(01 R31, 17 R353). -/
def State.logLaunch (s : State) (l : Nat) (fatal : Bool) (r : FaultRec) : State :=
  let x := s.launch l
  let d := x.desc
  let s1 :=
    if x.nfault < d.faultLen ∧ d.faultArea ≠ 0 then
      match s.writeAll (sysCtx d.part) (d.faultArea + BitVec.ofNat 64 (64 * x.nfault)) r.bytes with
      | (s1, none) => s1
      | (_, some _) => s.logQueue d.part r
    else s
  s1.modLaunch l fun y =>
    { y with nfault := y.nfault + 1, faulted := y.faulted || fatal, first := if fatal && y.first == 0 then r.code else y.first }

/-! ### Stores leaving the release buffer -/

/-- Perform a store at its place. A domain-remote address is sent to its owner, whose acknowledgement is awaited
(18 R372, R374); one that names this device is performed here, under the key set of DOMCFG.PART. -/
def State.performStore (s : State) (u : Nat) (h : HeldStore) : State :=
  let t := s.team u
  let g := s.gang t.gang
  match h.loc with
  | .phys pa _ =>
    if s.target pa == .remote then
      let dev := remoteDevice pa
      if dev = s.dev.self.toNat then
        if s.keyOk s.dev.domPart.toNat h.key then s.physWrite h.key (remoteOffset pa) h.data
        else s.modTeam u fun t => { t with storeFails := t.storeFails ++ [⟨.keyInvalid, h.va⟩] }
      else s.modTeam u fun t =>
        { t with unacked := t.unacked ++
            [⟨dev, ⟨.store h.data, remoteOffset pa, h.data.length, h.key, s.dev.ndev.toNat⟩, h.va, s.tick, none, h.ahead, .none⟩] }
    else s.writeLoc g.part t.gang h.loc h.data
  | _ => s.writeLoc g.part t.gang h.loc h.data

/-- Perform the stores of a team's queue in order, up to the first to recipe-backed memory, which is performed at the
record's home slice (15 R320, 13 R478). -/
def State.drain (s : State) (u : Nat) : Nat → State
  | 0 => s
  | k + 1 =>
    match (s.team u).storeQ with
    | [] => s
    | h :: r =>
      match h.loc with
      | .recipe _ _ => s
      | _ => ((s.performStore u h).modTeam u fun t => { t with storeQ := r }).drain u k

/-- The first k withheld stores of a team become eligible to leave and leave in order (19 R386). -/
def State.release (s : State) (u k : Nat) : State :=
  let s1 := s.modTeam u fun t => { t with
    storeQ := t.storeQ ++ (t.held.take k).map fun h => { h with region := t.ckptCnt.toNat }, held := t.held.drop k }
  s1.drain u (s1.team u).storeQ.length

/-! ### Checkpoints (19 R385, R386) -/

/-- The overlay of an image that holds a bundle index, with its number (01 R23). -/
def Image.ovlOf (i : Image) (n : Nat) : Option (Nat × OvlEntry) :=
  (i.ovls.zipIdx.find? fun e => decide (e.1.first ≤ n ∧ n < e.1.first + e.1.count)).map fun e => (e.2, e.1)

/-- The tag of an overlay (04 R90). -/
def Overlay.tagged (o : Overlay) (p : Nat) (i : Image) (k : Nat) : Bool :=
  o.part == p && o.handle == i.handle && o.gen == i.gen && o.num == k

/-- A team has left its slot of a core: it waits on no fill there and guards no overlay (04 R91). -/
def Core.forget (c : Core) (u : Nat) : Core :=
  { c with
    fills := c.fills.map fun f => { f with waiting := f.waiting.filter fun w => w.1 != u }
    store := c.store.map fun o => { o with guards := o.guards.filter (· != u) } }

/-- Overlay k of an image, where it is resident on a core. -/
def Core.resident (c : Core) (p : Nat) (i : Image) (k : Nat) : Option Overlay := c.store.find? fun o => o.tagged p i k

/-- The sequential successor of a bundle. -/
def nextIndex (n : Nat) (lit : Bool) : Nat := if lit then n + 2 else n + 1

/-- Bundle n of an image in partition p carries a literal word, as memory holds it (04 R96). -/
def Image.litIn (i : Image) (s : State) (p n : Nat) : Bool :=
  match s.readMem (sysCtx p) .fetch (i.bundleVa n) 16 with
  | .ok b => bundleHasLiteral (BitVec.ofNat 128 (bytesNat b))
  | .error _ => false

/-- Bundle n of team u's image carries a literal word (04 R96): as its core's instruction store holds it, else as memory
does. -/
def State.litAt (s : State) (u n : Nat) : Bool :=
  let t := s.team u
  let g := s.gang t.gang
  match (g.image.ovlOf n).bind fun e => (s.core t.core).resident g.part g.image e.1 with
  | some ov => bundleHasLiteral (tget 0 ov.words n)
  | none => g.image.litIn s g.part n

/-- NEXT of a checkpoint (19 Table 19-1): the index its S operation chose when slot 0 is in DONE, else the sequential
successor. -/
def Ckpt.nextIdx (c : Ckpt) : Nat :=
  if c.done.getLsbD 0 then
    match c.flow with
    | .jump t => t
    | .leave l => l + 1
    | _ => c.next
  else c.next

/-- Take a checkpoint of team u at bundle n with the given register state: the region's first k withheld stores are
released, its shadowed lines discarded and the state recorded; CKPTCNT advances (08 R192). -/
def State.checkpoint (s : State) (u n k : Nat) (lit : Bool) (r : Regs) (landed : Bool) : State :=
  let s1 := s.release u k
  s1.modTeam u fun t =>
    { t with
      ckpt := ⟨n, 0, 0, nextIndex n lit, .seq, r, r, ⟨none, none, none⟩, landed⟩
      ckptCnt := t.ckptCnt + 1
      shadow := []
      dispatched := 0
      kept := false }

/-- A checkpoint of team u at a bundle boundary, before bundle n is fetched (19 R385). -/
def State.checkpointAt (s : State) (u n : Nat) : State :=
  s.checkpoint u n (s.team u).held.length (s.litAt u n) (s.team u).regs false

/-- The checkpoint at the bundle being executed, taken when one of its operations turns out to be a committing one
(11 R244): what stood when the bundle started. -/
def State.checkpointHere (s : State) : State :=
  let t := s.me
  match t.flight with
  | none => s
  | some f =>
    if f.committing then s
    else (s.checkpoint s.issue.team t.pc f.heldAt f.lit f.before true).modMe fun t =>
      { t with
        flight := t.flight.map fun f => { f with committing := true, heldAt := 0 }
        dispatched := 1 }

/-- Add one to a counter register of a team (21 R415). -/
def Team.count (t : Team) (reg n : Nat) : Team :=
  { t with counters := tset t.counters reg (tget 0 t.counters reg + BitVec.ofNat 64 n) }

/-- A request is an atomic: once sent it is performed, and its answer is kept for the operation (19 R390). -/
def RemoteOut.isAtomic (r : RemoteOut) : Bool :=
  match r.req.kind with
  | .atomic _ _ _ => true
  | _ => false

/-- Roll a team back to its checkpoint (19 R392): withheld stores are discarded and the recorded state restored; ROLLB
counts the bundles whose effects are discarded (21 R415): not that of the checkpoint where DONE holds its every
operation. -/
def State.rollback (s : State) (u : Nat) : State :=
  s.modTeam u fun t =>
    { t.count 0x048 (t.dispatched - if t.kept then 1 else 0) with
      kept := false
      opened := false
      regs := t.ckpt.regs
      held := []
      shadow := []
      flight := none
      pc := t.ckpt.n
      skipLand := t.ckpt.landed
      dispatched := 0
      waits := []
      remote := t.remote.filter (·.isAtomic)
      old := ⟨[], false⟩ }

/-! ### Team images (03 R77) -/

/-- Accesses to the images of gang g and of its teams are under the key ID of its launch (03 R75). -/
def State.imageCtx (s : State) (g : Nat) : Ctx := keyCtx (s.gang g).part (s.gang g).keyId

/-- Write bytes of a team's image through its partition's translation. A write that fails is dropped; Fordom keeps what it
holds of the team (DESIGN CHOICE, log 15). -/
def State.imageWrite (s : State) (u off : Nat) (data : List Byte) : State :=
  (s.writeMem (s.imageCtx (s.team u).gang) ((s.team u).img + BitVec.ofNat 64 off) data).1

/-- Write bytes of a gang's image; a write that fails is dropped (DESIGN CHOICE, log 15). -/
def State.gangImageWrite (s : State) (g off : Nat) (data : List Byte) : State :=
  (s.writeMem (s.imageCtx g) ((s.gang g).img + BitVec.ofNat 64 off) data).1

/-- The gang-store save area, core 0 first. -/
def Gang.storeArea (g : Gang) : List Byte :=
  (List.range g.span).flatMap fun k => Memory.readBytes g.store (k * 2 ^ 20) (g.gstore * 4096)

/-- Write a gang's store to its image. -/
def State.saveStore (s : State) (g : Nat) : State := s.gangImageWrite g 0x1000 (s.gang g).storeArea

/-- A write has reached the store of gang g: the image of a suspended gang holds it (03 R78). -/
def State.syncStore (s : State) (g : Nat) : State := if (s.gang g).suspended && (s.gang g).imgLen != 0 then s.saveStore g else s

/-- The bytes of the trap frame's fixed part (19 Table 19-1). -/
def Frame.words (f : Frame) : List Byte :=
  natBytes (f.code.num + f.slot * 2 ^ 8 + f.kind * 2 ^ 12 + f.done.toNat * 2 ^ 16) 8 ++ natBytes f.bundle.toNat 8 ++
    natBytes f.faddr.toNat 8 ++ natBytes f.ckpt 4 ++ natBytes f.next 4 ++ natBytes f.tick.toNat 8 ++
    f.saved.flatMap fun w => natBytes w.toNat 8

/-- A list of bytes brought to a length with zeros. -/
def padTo (n : Nat) (l : List Byte) : List Byte := l ++ List.replicate (n - l.length) 0

/-- A mask-stack entry in an image (03 Table 3-4, 08 Table 8-2). -/
def MaskEntry.bytes (e : MaskEntry) : List Byte :=
  padTo 256 (natBytes e.mask.toNat 128 ++ natBytes (summary e.mask).toNat 4 ++
    natBytes (e.idxReg.toNat + (if e.group then 2 ^ 30 else 0) + (if e.disp then 2 ^ 31 else 0)) 4 ++
    natBytes e.join.toNat 4)

/-- A loop record in an image (08 Table 8-3). -/
def LoopRec.bytes (l : LoopRec) : List Byte :=
  padTo 32 (natBytes l.first.toNat 4 ++ natBytes l.last.toNat 4 ++ natBytes l.remain.toNat 8 ++
    natBytes (l.walker.toNat + l.dim.toNat * 8 + (if l.loopw then 256 else 0)) 4)

/-- The control area of a team's image up to the trap frame. In a handler the interrupted team's stacks stand in their
places and the handler's mask stack in its own (19 R395; DEDUCED, log 15). -/
def Team.controlArea (t : Team) : List Byte :=
  let r := t.regs
  let masks := match t.handler with | some h => h.masks | none => r.masks
  let loops := match t.handler with | some h => h.loops | none => r.loops
  let hand := match t.handler with | some _ => r.masks | none => []
  ((List.range 64).flatMap fun i => natBytes (r.sget i).toNat 8) ++
    natBytes t.pc 4 ++ natBytes (masks.length - 1 + loops.length * 256) 4 ++ natBytes r.fmt.toNat 4 ++
    natBytes (r.c ||| 1).toNat 4 ++
    natBytes t.teamId 4 ++ natBytes t.lanes 4 ++ natBytes t.migr.toNat 4 ++ natBytes t.ckptCnt.toNat 4 ++
    natBytes t.copyTl.toNat 8 ++ natBytes t.joinCnt.toNat 8 ++ natBytes 0 16 ++
    padTo 0x1C0 (loops.reverse.flatMap LoopRec.bytes) ++
    ((List.range 8).flatMap fun i => natBytes (r.pget i).toNat 128) ++
    padTo 0x2000 (masks.reverse.flatMap MaskEntry.bytes) ++ padTo 0x800 (hand.reverse.flatMap MaskEntry.bytes)

/-- The vector register lines of a team's image. -/
def Team.lineArea (t : Team) : List Byte :=
  (List.range t.vregs).flatMap fun n => (List.range t.lanes).flatMap fun l => natBytes (t.regs.vget n l).toNat 4

/-- The pending FMT values and WNEXT results with their counts, in bytes of the image reserved to Fordom, from 0x3200 on
(06 R137; the layout is a DESIGN CHOICE, log 15). -/
def pendArea (fmt : List (Nat × BitVec 32)) (wnext : List (Nat × BitVec 8 × Word)) : List Byte :=
  natBytes (fmt.length + wnext.length * 256) 8 ++ (fmt.flatMap fun x => natBytes x.1 4 ++ natBytes x.2.toNat 4) ++
    wnext.flatMap fun x => natBytes x.1 4 ++ natBytes x.2.1.toNat 4 ++ natBytes x.2.2.toNat 8

/-- The saved-state area of a team: in a handler that of the team it interrupted. -/
def Team.pendBytes (t : Team) : List Byte :=
  match t.handler with
  | some h => pendArea h.fmtPend h.wnextPend
  | none => pendArea t.regs.fmtPend t.regs.wnextPend

/-- Write a team's control area, its pending values and its lines to its image. -/
def State.saveTeam (s : State) (u : Nat) : State :=
  let t := s.team u
  ((s.imageWrite u 0 t.controlArea).imageWrite u 0x3200 t.pendBytes).imageWrite u 0x4000 t.lineArea

/-- The frame as it lies in a team's image (19 Table 19-1). -/
def Frame.bytes (f : Frame) : List Byte :=
  padTo 0x80 f.words ++ natBytes f.lanes.toNat 128 ++ padTo 0x80 (natBytes (summary f.lanes).toNat 4) ++ natBytes f.mlanes.toNat 128

/-- Write a trap frame into the team image at 0x3000, with the pending values of the team. -/
def State.writeFrame (s : State) (u : Nat) (f : Frame) : State :=
  ((((s.imageWrite u 0x3000 f.words).imageWrite u 0x3080 (natBytes f.lanes.toNat 128)).imageWrite u 0x3100
    (natBytes (summary f.lanes).toNat 4)).imageWrite u 0x3180 (natBytes f.mlanes.toNat 128)).imageWrite u 0x3200
    (s.team u).pendBytes

/-- The frame of a fault of team u, after rollback; `pc` is the faulting bundle (19 R394). -/
def State.frameOf (s : State) (u pc : Nat) (i : FaultInfo) (kind : Nat) : Frame :=
  let t := s.team u
  let c := t.ckpt
  ⟨i.code, i.slot, kind, c.done, (s.gang t.gang).image.bundleVa pc, i.addr, c.n, c.nextIdx, s.timer,
    [c.regs.sget 60, c.regs.sget 61, c.regs.sget 62, c.regs.sget 63], i.lanes, c.mlanes⟩

/-- Frame bits 63:0 at 0x000, the value of s60 (19 R395). -/
def Frame.head (f : Frame) : Word :=
  BitVec.ofNat 64 (f.code.num + f.slot * 2 ^ 8 + f.kind * 2 ^ 12 + f.done.toNat * 2 ^ 16)

/-- The frame's word at 0x018, the value of s63 (19 R395). -/
def Frame.index (f : Frame) : Word := BitVec.ofNat 64 (f.ckpt + f.next * 2 ^ 32)

/-! ### Registers changed between a checkpoint and its resumption -/

/-- A table of registers that a handler may have changed over the values of before it: where a handler left a register as
it found it, `old` stands. -/
def mergeTable {α} [DecidableEq α] (zero : α) (now entry old : Table α) : Table α :=
  now.foldl (fun m x => if x.2 = tget zero entry x.1 then m else tset m x.1 x.2)
    (entry.foldl (fun m x => if (tfind now x.1).isSome || x.2 = zero then m else tset m x.1 zero) old)

/-- A vector register that a handler may have changed, lane by lane. -/
def mergeVReg (now entry old : VReg) : VReg :=
  (List.range (max now.length old.length)).map fun l =>
    if now.getD l 0 = entry.getD l 0 then old.getD l 0 else now.getD l 0

/-- The register files as the slots outside DONE read them after TRET (19 R391, R395): what they read before the fault,
but for what the handler has changed. `now` is what the handler left, `entry` what it found, `old` the values before
the bundle. A register to which the handler wrote the value it found counts as unchanged (DESIGN CHOICE, log 10). -/
def Regs.merge (now entry old : Regs) : Regs :=
  { old with
    s := mergeTable 0 now.s entry.s old.s
    v := (now.v.map (·.1) ++ old.v.map (·.1)).eraseDups.foldl
      (fun m i => tset m i (mergeVReg (now.vreg i) (entry.vreg i) (old.vreg i))) old.v
    c := old.c ^^^ (now.c ^^^ entry.c)
    p := (now.p.map (·.1) ++ old.p.map (·.1)).eraseDups.foldl
      (fun m i => tset m i (tget 0 old.p i ^^^ (tget 0 now.p i ^^^ tget 0 entry.p i))) old.p
    rcpDepth := if now.rcpDepth = entry.rcpDepth then old.rcpDepth else now.rcpDepth
    splats := if now.splats = entry.splats then old.splats else now.splats
    fmt := now.fmt, fmtPend := now.fmtPend }

/-! ### Rays that end -/

/-- A command of an engine is over: its requests to other devices and what its recomputes left go with it. -/
def Team.engDone (t : Team) (e : EngId) : Team :=
  { t with
    engRemote := t.engRemote.filter fun x => x.eng != e
    engFails := t.engFails.filter fun x => x.1 != e
    given := t.given.filter fun x => x.eng != e }

/-- The hit block of a ray that ends with a code (17 Table 17-2). -/
def Ray.hitBlock (r : Ray) (code : Nat) : List Byte :=
  let tmax : Word := match r.geom with
    | some g => BitVec.ofNat 64 (fieldAt g 0x78 8)
    | none => 0
  let h := r.hit.getD (0xFFFFFFFF, tmax, 0, 0)
  natBytes (code + (if r.logOvf then 2 ^ 8 else 0) + (if r.diverged then 2 ^ 9 else 0) + r.logN * 2 ^ 10) 4 ++
    natBytes h.1.toNat 4 ++ natBytes h.2.1.toNat 8 ++ natBytes h.2.2.1.toNat 8 ++ natBytes h.2.2.2.toNat 8

/-- A gang's job list and timeline after one unit of job `num` has finished: the timeline reaches n once every unit of
jobs 1 to n has (17 R356). -/
def jobsFinish (jobs : List JobState) (num tl : Word) : List JobState × Word :=
  let js := jobs.map fun j => if j.num = num then { j with left := j.left - 1 } else j
  let open_ := js.dropWhile fun j => j.left == 0
  (open_, match open_ with
    | j :: _ => j.num - 1
    | [] => match js.getLast? with | some j => j.num | none => tl)

/-- A fault record of an engine's job for the launch of gang g (17 R353, R364): kind 4, with the address of the record,
node or descriptor. -/
def State.engineRecord (s : State) (g u : Nat) (fatal : Bool) (code : Nat) (addr faddr : Word) : State :=
  let x := s.gang g
  let r : FaultRec := ⟨code, 0, 4, 0, (s.team u).teamId, x.part, x.index, (s.team u).core, addr, faddr, 0, s.timer, 0, 0, 0⟩
  match x.launch with
  | some l => s.logLaunch l fatal r
  | none => s.logQueue x.part r

/-- The ray of a ray slot has finished: its candidate goes, its job advances and the slot is free (17 R346, R356). -/
def State.finishRay (s : State) (cluster slot : Nat) (r : Ray) : State :=
  let s2 := { s with rays := tset s.rays cluster (tdel (tget [] s.rays cluster) slot) }
  let s3 := s2.modTeam r.team fun t =>
    { t.engDone (.ray cluster slot) with cands := t.cands.filter fun k => k.record != r.addr }
  s3.modGang r.gang fun g =>
    let j := jobsFinish g.rayJobs (BitVec.ofNat 64 r.job) g.rayTl
    { g with rayJobs := j.1, rayTl := j.2 }

/-- End the ray in a ray slot with a code: its hit block is still to be written (17 R346). -/
def State.endRay (s : State) (cluster slot code : Nat) : State :=
  match tfind (tget [] s.rays cluster) slot with
  | none => s
  | some r =>
    let x := { r with ending := some (r.ending.getD code), paused := none }
    { s with rays := tset s.rays cluster (tset (tget [] s.rays cluster) slot x) }

/-- The paused rays of a team, by cluster and slot. -/
def State.pausedRays (s : State) (u : Nat) : List (Nat × Nat) :=
  s.rays.flatMap fun c => (c.2.filter fun r => r.2.team == u && r.2.paused.isSome).map fun r => (c.1, r.1)

/-! ### The end of a team (08 R187, 21 R410, R411) -/

/-- The team executes no more: it drains, its paused rays end with CODE 0x02, its candidates and pending splat lists
are discarded; trace says so. One that was OUT drains without a slot. -/
def State.endTeam (s : State) (u : Nat) : State :=
  let s1 := (s.pausedRays u).foldl (fun x r => x.endRay r.1 r.2 0x02) s
  let s2 := s1.emitSync u ((s1.gang (s1.team u).gang).image.bundleVa (s1.team u).pc) 7
  s2.modTeam u fun t =>
    { t with
      st := .draining
      slot := if t.st == .out then Config.coreSlots else t.slot
      ended := true
      waits := []
      flight := none
      since := s.tick
      cands := []
      regs := { t.regs with splats := [], wnextPend := [] } }

/-! ### Containment (19 R400) -/

/-- Fence the other teams of a gang: a running team ends at its next bundle boundary, a waiting or absent one ends at
once from its last checkpoint. -/
def State.fenceGang (s : State) (g : Nat) : State :=
  let mark := s.modGang g fun x => { x with fenced := true }
  (mark.teams.filter fun t => t.2.gang == g && !t.2.ended).foldl
    (fun x t =>
      if t.2.st == .runnable then x.modTeam t.1 fun t => { t with fenced := true }
      else (x.rollback t.1).endTeam t.1) mark

/-- The gangs of a launch. -/
def State.gangsOf (s : State) (l : Nat) : List Nat := (s.gangs.filter fun g => g.2.launch == some l).map (·.1)

/-- The entry at a queue's head leaves it (02 R51); one that dates from before the queue was enabled moves no HEAD. -/
def Queue.leave (q : Queue) : Queue :=
  { q with
    phase := .idle
    head := if q.stale then q.head else q.head + 1
    built := if q.stale then q.built else tdel q.built q.head.toNat
    stale := false }

/-- The launch whose entry is at a queue's head, once read. -/
def QPhase.launch? : QPhase → Option Nat
  | .checked m => some m
  | .placing m => some m
  | _ => none

/-- Abort a launch: every placed gang is fenced, no further gang is placed and the launch leaves the head of its queue
(19 R400, 02 R51). -/
def State.abortLaunch (s : State) (l : Nat) : State :=
  let s1 := (s.gangsOf l).foldl (fun x g => x.fenceGang g) s
  let q := (s1.launch l).queue
  let s2 := s1.modLaunch l fun x => { x with aborted := true }
  if (s2.queue q).phase.launch? = some l then s2.modQueue q Queue.leave else s2

/-- The record of a fault of a gang that no launch placed, a recompute's: kind 5 with TEAMREF 0 and, as the bundle address,
that of its tile's record (19 Table 19-2). -/
def State.orphanRecord (s : State) (g : Nat) (r : FaultRec) : FaultRec :=
  let x := s.gang g
  { r with
    kind := 5, teamRef := 0
    addr := match x.recompute with | some y => (s.part x.part).recordVa y.tile | none => r.addr }

/-- The fault record of a team (19 Table 19-2). -/
def State.recordOf (s : State) (u pc : Nat) (i : FaultInfo) (kind inner : Nat) : FaultRec :=
  let t := s.team u
  let g := s.gang t.gang
  ⟨i.code.num, i.slot, kind, inner, t.teamId, g.part, g.index, t.core, g.image.bundleVa pc, i.addr,
    g.image.bundleVa t.ckpt.n, s.timer, t.img, summary i.lanes, (lanesOf 1024 i.lanes).headD 0⟩

/-- Contain a fault of a team after its rollback: the team ends, the record is written and its gang, or under ABORT1 its
launch, is fenced. -/
def State.contain (s : State) (u pc : Nat) (i : FaultInfo) (kind inner : Nat) : State :=
  let t := s.team u
  let g := s.gang t.gang
  let r := s.recordOf u pc i kind inner
  let s1 := s.endTeam u
  match g.launch with
  | none => (s1.logQueue g.part (s.orphanRecord t.gang r)).fenceGang t.gang
  | some l =>
    let s2 := (s1.logLaunch l true r).fenceGang t.gang
    if (s2.launch l).desc.abort1 && !(s2.launch l).aborted then s2.abortLaunch l else s2

/-- A failure of an engine command or a store whose team has ended: an unhandled fault of its gang (11 R263, 12 R275,
13 R478). -/
def State.lateFault (s : State) (u : Nat) (f : Failure) : State :=
  let t := s.team u
  let g := s.gang t.gang
  let r := s.recordOf u t.pc ⟨f.code, f.addr, 3, 0⟩ 0 0
  match g.launch with
  | none => (s.logQueue g.part (s.orphanRecord t.gang r)).fenceGang t.gang
  | some l =>
    let s2 := (s.logLaunch l true r).fenceGang t.gang
    if (s2.launch l).desc.abort1 && !(s2.launch l).aborted then s2.abortLaunch l else s2

/-- A team's waits are over: it is RUNNABLE in its slot, or ready for one while it is OUT (03 Table 3-5, R81); one that a
debug stop holds stays PARKED for service (19 R399). -/
def State.makeReady (s : State) (u : Nat) : State :=
  s.modTeam u fun t =>
    { t with
      waits := if t.stopped then [.service] else []
      st := if t.st == .out || t.st == .draining then t.st else if t.stopped then .parked else .runnable
      readySince := s.tick
      since := s.tick }

/-- Pending FMT and WNEXT values whose bundle count is up land (06 R135, R136). -/
def Regs.land (r : Regs) : Regs :=
  let r1 := { r with
    fmtPend := (r.fmtPend.map fun x => (x.1 - 1, x.2)).filter fun x => x.1 != 0
    wnextPend := (r.wnextPend.map fun x => (x.1 - 1, x.2)).filter fun x => x.1 != 0
    fmt := r.fmtPend.foldl (fun f x => if x.1 = 1 then x.2 else f) r.fmt }
  r.wnextPend.foldl (fun q x => if x.1 = 1 then q.sset x.2.1.toNat x.2.2 else q) r1

/-- A rolled-back team with the FMT and WNEXT values landed that fall due at its checkpoint's bundle: those in force there
(06 R135, R136, 19 R396). -/
def Team.landed (t : Team) : Team :=
  if t.ckpt.landed then t
  else { t with
    regs := t.regs.land
    skipLand := true
    ckpt := { t.ckpt with regs := t.ckpt.regs.land, before := t.ckpt.before.land, landed := true } }

/-- Enter the trap handler of a team that has been rolled back (19 R395), with the FMT in force at its checkpoint (R396). A
team that is OUT is ready for a slot, and its image holds the handler's entry (03 R78, R81). -/
def State.enterHandler (s : State) (u vec : Nat) (f : Frame) : State :=
  let s1 := s.modTeam u fun t0 =>
    let t := t0.landed
    let live := lanesMask t.lanes
    let base : MaskEntry := ⟨live, false, false, 0, 0⟩
    let regs := ((((t.regs.sset 60 f.head).sset 61 f.faddr).sset 62 f.bundle).sset 63 f.index)
    let r := { regs with
      masks := [⟨if f.lanes = 0 then live else f.lanes, false, false, 0, 0⟩, base]
      loops := [], fmtPend := [], wnextPend := [] }
    { t with
      handler := some ⟨f, t.ckpt, t.regs.masks, t.regs.loops, t.regs.fmtPend, t.regs.wnextPend⟩
      regs := r
      ckpt := ⟨vec, 0, 0, nextIndex vec (s.litAt u vec), .seq, r, r, ⟨none, none, none⟩, true⟩
      pc := vec
      skipLand := true
      given := t.given.filter fun x => x.eng != .none
      st := if t.st == .out then .out else .runnable
      readySince := if t.st == .out then s.tick else t.readySince
      since := if t.st == .out then t.since else s.tick
      waits := [] }
  if (s.team u).st == .out then s1.saveTeam u
  else s1.emitSync u ((s1.gang (s1.team u).gang).image.bundleVa vec) 3

/-- The trap handler of a team's launch (01 R24). -/
def State.trapVec (s : State) (u : Nat) : Option Nat :=
  let g := s.gang (s.team u).gang
  if g.hndEn then g.image.trapVec else none

/-- The teams parked on a recompute of tile n of partition p, with the lanes of the access. -/
def State.requesters (s : State) (p n : Nat) : List (Nat × LaneMask) :=
  s.teams.filterMap fun t =>
    if (s.gang t.2.gang).part = p then
      (t.2.waits.findSome? fun w => match w with
        | .recompute m l _ => if m = n then some l else none
        | _ => none).map fun l => (t.1, l)
    else none

/-- The bundle of a team's fault: that of the access it is parked on, which a team that has left its slot keeps with its
waits (13 R304), else the one it stands at (19 R394). -/
def Team.faultPc (t : Team) : Nat :=
  (t.waits.findSome? fun w => match w with
    | .recompute _ _ pc => some pc
    | _ => none).getD t.pc

/-- Take a fault of team u: it is rolled back; in its handler the fault is a DOUBLE_FAULT; with a handler the frame is
written and the handler entered; otherwise the fault is contained (19 R392-R396, R400). The fault of a recompute team
fails its recompute: its tile returns to DROPPED, and each requester parked on it takes the same failure, a recompute
team failing its own in turn (13 R304). The first argument bounds the depth of that chain, at most 8 (13 R299). -/
def State.takeFaultN : Nat → State → Nat → FaultInfo → State
  | fuel, s, u, i =>
    let pc := (s.team u).faultPc
    let s1 := s.rollback u
    let t := s1.team u
    let g := s1.gang t.gang
    match g.recompute.filter (·.live) with
    | some r =>
      let reqs := s1.requesters g.part r.tile
      let s2 := (((s1.writeFrame u (s1.frameOf u pc i 0)).endTeam u).modGang t.gang fun x =>
        { x with recompute := some { r with live := false, engines := [] }, fenced := true }).dropTile g.part r.tile
      let s3 := r.engines.foldl
        (fun x e => x.modTeam e.1 fun t => { t with engFails := t.engFails ++ [(e.2, r.tile, ⟨i.code, i.addr⟩)] }) s2
      let s4 :=
        if reqs.isEmpty && r.engines.isEmpty then
          s3.logQueue g.part { s1.recordOf u pc i 5 0 with addr := (s1.part g.part).recordVa r.tile, teamRef := 0 }
        else s3
      match fuel with
      | 0 => s4
      | k + 1 => reqs.foldl (fun x q => takeFaultN k x q.1 ⟨i.code, i.addr, 3, q.2⟩) s4
    | none =>
      match t.handler with
      | some _ =>
        let j : FaultInfo := { i with code := .doubleFault }
        (s1.writeFrame u (s1.frameOf u pc j 0)).contain u pc j 1 i.code.num
      | none =>
        let f := s1.frameOf u pc i 0
        let s2 := s1.writeFrame u f
        match s2.trapVec u with
        | some vec => s2.enterHandler u vec f
        | none => s2.contain u pc i 0 0

/-- Take a fault of team u. -/
def State.takeFault (s : State) (u : Nat) (i : FaultInfo) : State := State.takeFaultN 9 s u i

/-- The operation being executed faults: code, address field and lanes (19 R394). -/
def State.fault (s : State) (c : FaultCode) (addr : Word) (lanes : LaneMask) : State :=
  s.takeFault s.issue.team ⟨c, addr, s.issue.slot, lanes⟩

/-- A fault of the operation being executed whose address field is its bundle's address (19 Table 19-3). -/
def State.faultB (s : State) (c : FaultCode) (lanes : LaneMask) : State := s.fault c s.bundleVa lanes

/-- The failure of a store or engine command that a committing operation or END must raise before it executes
(13 R478, 18 R374): the first held, and the team without it. -/
def Team.nextStoreFail (t : Team) : Option (Failure × Team) :=
  match t.storeFails with
  | [] => none
  | f :: r => some (f, { t with storeFails := r })

/-! ### Debug stops (19 R397-R399) -/

/-- The stop asked of team u, which acts while debug stops are enabled (19 R397). -/
def State.stopDue (s : State) (u : Nat) : Option FaultInfo :=
  let t := s.team u
  if (s.part (s.gang t.gang).part).dbgEn then t.stopAsked else none

/-- Stop team u for the debugger: a checkpoint at its bundle whose DONE holds the slots that have completed (a team that
stands at its checkpoint inside a bundle keeps that checkpoint's DONE, MLANES and landings), the frame
with KIND 6, a debug record, and the team parks awaiting service, keeping the waits it had at a bundle boundary; one that
is OUT stays OUT. With GSTOP the other teams of its gang are asked to
stop at their next checkpoints. -/
def State.debugStop (s : State) (u : Nat) (i : FaultInfo) : State :=
  let t0 := s.team u
  let s1 := match t0.flight with
    | none =>
      if t0.skipLand then s.modTeam u fun t => { t with ckptCnt := t.ckptCnt + 1 } else s.checkpointAt u t0.pc
    | some f =>
      (s.checkpoint u t0.pc t0.held.length f.lit f.before true).modTeam u fun t =>
        { t with ckpt := { t.ckpt with
            done := f.done, mlanes := f.performed, regs := t0.regs, flow := f.flow, olds := f.olds } }
  let s2 := s1.modTeam u fun t =>
    { t with flight := none, skipLand := t.ckpt.landed
             waits := (if t0.flight.isNone then t0.waits else []) ++ [.service]
             st := if t.st == .out then .out else .parked, since := s.tick
             stopped := true, stopAsked := none, stepOne := false }
  let s3 := s2.writeFrame u (s2.frameOf u t0.pc i 6)
  let p := (s3.gang t0.gang).part
  let s4 := s3.logDebug p (s3.recordOf u t0.pc i 6 0)
  let s5 := if t0.st == .out then s4.saveTeam u else s4.emitSync u ((s4.gang t0.gang).image.bundleVa t0.pc) 3
  if (s5.part p).dbgGstop && (s5.part p).dbgEn then
    (s5.teams.filter fun t => t.2.gang == t0.gang && t.1 != u && !t.2.ended && !t.2.stopped).foldl
      (fun x t => x.modTeam t.1 fun t => { t with stopAsked := some i }) s5
  else s5

end Sys2Proof.Machine
end

