-- ==== Sys2Proof/Machine/Float.lean ====
section
/-!
DEFINITION. Numbers and their formats (07): exact values, rounding once to a format under a mode (R150-R152, R158), the
binary8 family (R153, R154), the scale formats (R160), conversions (R157-R159) and the special functions (R208).
-/

namespace Sys2Proof.Machine

/-- Rounding modes (07 Table 7-4). A reserved number reads as RNE; no write of a program lets one into FMT (07 R155), an
image that system software changed may (DESIGN CHOICE, log 15). -/
inductive RMode where
  | rne | rtz | rup | rdn | rna
deriving DecidableEq, Repr, Inhabited

/-- The mode of FMT.RM. -/
def RMode.ofField : Nat → RMode
  | 1 => .rtz
  | 2 => .rup
  | 3 => .rdn
  | 4 => .rna
  | _ => .rne

/-- A value: NaN, an infinity, or plus or minus n × 2^e exactly. -/
inductive FVal where
  | nan
  | inf (neg : Bool)
  | fin (neg : Bool) (n : Nat) (e : Int)
deriving DecidableEq, Repr, Inhabited

/-- An IEEE-style format: exponent and trailing bits (07 Table 7-3). -/
structure Fmt where
  ebits : Nat
  tbits : Nat
deriving DecidableEq, Repr, Inhabited

/-- binary64. -/
def f64 : Fmt := ⟨11, 52⟩
/-- binary32. -/
def f32 : Fmt := ⟨8, 23⟩
/-- binary16. -/
def f16 : Fmt := ⟨5, 10⟩
/-- BF16. -/
def bf16 : Fmt := ⟨8, 7⟩

/-- The width of a format in bits. -/
def Fmt.width (f : Fmt) : Nat := f.ebits + f.tbits + 1
/-- The exponent bias. -/
def Fmt.bias (f : Fmt) : Nat := 2 ^ (f.ebits - 1) - 1
/-- The exponent of the smallest subnormal. -/
def Fmt.qmin (f : Fmt) : Int := 1 - (f.bias : Int) - f.tbits
/-- The code of infinity without sign. -/
def Fmt.infCode (f : Fmt) : Nat := (2 ^ f.ebits - 1) * 2 ^ f.tbits
/-- The canonical NaN (07 Table 7-3). -/
def Fmt.nanCode (f : Fmt) : Nat := f.infCode + 2 ^ (f.tbits - 1)
/-- The sign bit. -/
def Fmt.signed (f : Fmt) (neg : Bool) (code : Nat) : Nat := if neg then 2 ^ (f.width - 1) + code else code

/-- The value of a code of a format. -/
def Fmt.decode (f : Fmt) (c : Nat) : FVal :=
  let neg := c / 2 ^ (f.width - 1) % 2 == 1
  let e := c / 2 ^ f.tbits % 2 ^ f.ebits
  let t := c % 2 ^ f.tbits
  if e = 2 ^ f.ebits - 1 then (if t = 0 then .inf neg else .nan)
  else if e = 0 then .fin neg t f.qmin
  else .fin neg (2 ^ f.tbits + t) (f.qmin + (e - 1 : Nat))

/-- A positive real known to lie at m × 2^e, or strictly between it and (m + 1) × 2^e when `more`. -/
structure Approx where
  m : Nat
  e : Int
  more : Bool
deriving DecidableEq, Repr, Inhabited

/-- m shifted down by k with the remainder rounded under a mode; the parity of a tie is that of the integer significand, also
where a format has no trailing bits (DEDUCED, log 85). -/
def roundShift (mode : RMode) (neg : Bool) (m k : Nat) (more : Bool) : Nat :=
  let r := m / 2 ^ k
  let low := m % 2 ^ k
  let exact := low == 0 && !more
  let half := 2 ^ (k - 1)
  let tie := decide (0 < k) && low == half && !more
  let above := decide (0 < k) && (decide (half < low) || (low == half && more))
  let up := match mode with
    | .rne => above || (tie && r % 2 == 1)
    | .rna => above || tie
    | .rtz => false
    | .rup => !exact && !neg
    | .rdn => !exact && neg
  if up then r + 1 else r

/-- The code without sign of a positive real rounded to t trailing bits, with the exponent unbounded above and smallest
subnormal 2^qmin: consecutive values have consecutive codes. -/
def roundCode (t : Nat) (qmin : Int) (mode : RMode) (neg : Bool) (x : Approx) : Nat :=
  let top : Int := x.e + Nat.log2 x.m
  let q := max (top - t) qmin
  let r := if q ≤ x.e then x.m * 2 ^ (x.e - q).toNat else roundShift mode neg x.m (q - x.e).toNat x.more
  let r2 := if q ≤ x.e ∧ x.more then roundShift mode neg (r * 4 + 1) 2 true else r
  (q - qmin).toNat * 2 ^ t + r2

/-- The bits of a positive real with a sign rounded to a format, with the overflow of 07 R152 and R158. -/
def Fmt.encode (f : Fmt) (mode : RMode) (sat : Bool) (neg : Bool) (x : Approx) : Nat :=
  if x.m = 0 ∧ !x.more then f.signed neg 0
  else
    let c := if x.m = 0 then roundCode f.tbits f.qmin mode neg ⟨1, f.qmin - 2, true⟩ else roundCode f.tbits f.qmin mode neg x
    if c < f.infCode then f.signed neg c
    else
      let big := sat || (match mode with
        | .rtz => true
        | .rup => neg
        | .rdn => !neg
        | _ => false)
      f.signed neg (if big then f.infCode - 1 else f.infCode)

/-- A value rounded to a format (07 R151, R152). -/
def FVal.round (f : Fmt) (mode : RMode) (sat : Bool) (v : FVal) : Nat :=
  match v with
  | .nan => f.nanCode
  | .inf neg => f.signed neg f.infCode
  | .fin neg n e => f.encode mode sat neg ⟨n, e, false⟩

/-- The integer numerator of a finite value at exponent q. -/
def scaled (neg : Bool) (n : Nat) (e q : Int) : Int :=
  let m : Int := n * 2 ^ (e - q).toNat
  if neg then -m else m

/-- An integer times 2^e. -/
def FVal.ofInt (i : Int) (e : Int) : FVal := .fin (decide (i < 0)) i.natAbs e

/-- The exact sum; an exact zero is +0, or -0 under RDN, unless both terms are zeros of one sign (07 R152). -/
def FVal.add (rdn : Bool) (a b : FVal) : FVal :=
  match a, b with
  | .nan, _ => .nan
  | _, .nan => .nan
  | .inf s, .inf t => if s = t then .inf s else .nan
  | .inf s, _ => .inf s
  | _, .inf t => .inf t
  | .fin s n e, .fin t m g =>
    let q := min e g
    let sum := scaled s n e q + scaled t m g q
    if sum = 0 then .fin (if n = 0 ∧ s = t then s else rdn) 0 0
    else .ofInt sum q

/-- The exact product (07 R152, R166). -/
def FVal.mul (a b : FVal) : FVal :=
  match a, b with
  | .nan, _ => .nan
  | _, .nan => .nan
  | .inf s, .inf t => .inf (s != t)
  | .inf s, .fin t m _ => if m = 0 then .nan else .inf (s != t)
  | .fin s n _, .inf t => if n = 0 then .nan else .inf (s != t)
  | .fin s n e, .fin t m g => .fin (s != t) (n * m) (e + g)

/-- The value with its sign turned. -/
def FVal.neg : FVal → FVal
  | .nan => .nan
  | .inf s => .inf (!s)
  | .fin s n e => .fin (!s) n e

/-- A zero. -/
def FVal.isZero : FVal → Bool
  | .fin _ 0 _ => true
  | _ => false

/-- The sign, false for NaN. -/
def FVal.isNeg : FVal → Bool
  | .nan => false
  | .inf s => s
  | .fin s _ _ => s

/-- The order of two values that are not NaN, -0 equal to +0 (09 R205); none with a NaN. -/
def FVal.cmp (a b : FVal) : Option Ordering :=
  match a, b with
  | .nan, _ => none
  | _, .nan => none
  | .inf s, .inf t => some (if s = t then .eq else if s then .lt else .gt)
  | .inf s, _ => some (if s then .lt else .gt)
  | _, .inf t => some (if t then .gt else .lt)
  | .fin s n e, .fin t m g => some (compare (scaled s n e (min e g)) (scaled t m g (min e g)))

/-- The minimum of 07 R152: a NaN gives NaN, -0 is below +0. -/
def FVal.min (a b : FVal) : FVal :=
  match a.cmp b with
  | none => .nan
  | some .lt => a
  | some .gt => b
  | some .eq => if a.isNeg then a else b

/-- The maximum of 07 R152. -/
def FVal.max (a b : FVal) : FVal :=
  match a.cmp b with
  | none => .nan
  | some .lt => b
  | some .gt => a
  | some .eq => if a.isNeg then b else a

/-- A finite magnitude n × 2^e rounded to an integer. -/
def roundInt (mode : RMode) (neg : Bool) (n : Nat) (e : Int) : Nat :=
  if 0 ≤ e then n * 2 ^ e.toNat else roundShift mode neg n (-e).toNat false

/-- The value rounded to an integral value, keeping its sign (09 R206). -/
def FVal.integral (mode : RMode) : FVal → FVal
  | .fin s n e => .fin s (roundInt mode s n e) 0
  | v => v

/-- The value rounded to an integer within bounds; NaN gives 0 (07 Table 7-7). -/
def FVal.toInt (mode : RMode) (lo hi : Int) : FVal → Int
  | .nan => 0
  | .inf s => if s then lo else hi
  | .fin s n e =>
    let m : Int := roundInt mode s n e
    Max.max lo (Min.min hi (if s then -m else m))

/-! ### The binary8 family (07 R153, R154) -/

/-- A binary8 format: precision P, unsigned, X flag. -/
structure Fmt8 where
  p : Nat
  u : Bool
  x : Bool
deriving DecidableEq, Repr, Inhabited

/-- The exponent bias. -/
def Fmt8.bias (f : Fmt8) : Nat := if f.u then 2 ^ (8 - f.p) else 2 ^ (7 - f.p)

/-- The exponent of the smallest step. -/
def Fmt8.qmin (f : Fmt8) : Int := 2 - (f.bias : Int) - f.p

/-- The NaN code. -/
def Fmt8.nanCode (f : Fmt8) : Nat := if f.u then 0xFF else 0x80

/-- The highest finite code. -/
def Fmt8.maxCode (f : Fmt8) : Nat := (if f.u then 0xFE else 0x7F) - (if f.x then 1 else 0)

/-- The value of a finite code without sign. -/
def Fmt8.magnitude (f : Fmt8) (c : Nat) : Nat × Int :=
  let e := c / 2 ^ (f.p - 1)
  let t := c % 2 ^ (f.p - 1)
  if e = 0 then (t, f.qmin) else (2 ^ (f.p - 1) + t, f.qmin + (e - 1 : Nat))

/-- Decode8; an infinity code reads as the largest finite magnitude (07 R153). -/
def Fmt8.decode (f : Fmt8) (c : Nat) : FVal :=
  if c = f.nanCode then .nan
  else
    let neg := !f.u && decide (0x80 ≤ c)
    let m := f.magnitude (min (if f.u then c else c % 128) f.maxCode)
    .fin neg m.1 m.2

/-- Encode8 of a positive real with a sign; the sign of an unsigned format's value is handled before (07 R154). -/
def Fmt8.encodeReal (f : Fmt8) (mode : RMode) (neg : Bool) (x : Approx) : Nat :=
  if f.u && neg then 0
  else
    let c := if x.m = 0 then 0 else min (roundCode (f.p - 1) f.qmin mode neg x) f.maxCode
    if c = 0 then 0 else if neg then 0x80 + c else c

/-- Encode8 (07 R154). -/
def Fmt8.encode (f : Fmt8) (mode : RMode) : FVal → Nat
  | .nan => f.nanCode
  | .inf neg => if f.u && neg then 0 else if neg then 0x80 + f.maxCode else f.maxCode
  | .fin neg n e => f.encodeReal mode neg ⟨n, e, false⟩

/-- Emax8 (07 R153). -/
def Fmt8.emax (f : Fmt8) : Int := let m := f.magnitude f.maxCode; m.2 + Nat.log2 m.1

/-! ### FMT (07 Table 7-6) -/

/-- FMT.RM. -/
def fmtRm (w : BitVec 32) : RMode := .ofField (w.extractLsb' 16 3).toNat
/-- FMT.SAT. -/
def fmtSat (w : BitVec 32) : Bool := w.getLsbD 20
/-- FMT.BSM. -/
def fmtBsm (w : BitVec 32) : Nat := (w.extractLsb' 24 2).toNat
/-- FMT's source selection. -/
def fmtSrc (w : BitVec 32) : Fmt8 := ⟨(w.extractLsb' 0 3).toNat + 1, w.getLsbD 3, w.getLsbD 4⟩
/-- FMT's destination selection. -/
def fmtDst (w : BitVec 32) : Fmt8 := ⟨(w.extractLsb' 8 3).toNat + 1, w.getLsbD 11, w.getLsbD 12⟩

/-- A value FMT may be given (07 R155). -/
def fmtOk (w : BitVec 32) : Bool :=
  w &&& 0xFCE8E0E0 == 0 && decide ((w.extractLsb' 16 3).toNat ≤ 4) && w.extractLsb' 0 3 != 7 &&
    w.extractLsb' 8 3 != 7 && w.extractLsb' 24 2 != 3

/-! ### Scale formats (07 R160) -/

/-- E8M0. -/
def e8m0 (k : Nat) : FVal := if k = 0xFF then .nan else .fin false 1 ((k : Int) - 127)

/-- Unsigned E5M3: the value of a code other than 0xFF. -/
def e5m3 (k : Nat) : FVal :=
  if k = 0xFF then .nan
  else if k / 8 = 0 then .fin false (k % 8) (-17)
  else .fin false (8 + k % 8) (-17 + (k / 8 - 1 : Nat))

/-- A positive real rounded up to an E5M3 code, at most 0xFE (07 R163). -/
def e5m3Up (x : Approx) : Nat := min (roundCode 3 (-17) .rup false x) 0xFE

/-! ### Quotients and roots -/

/-- n / d × 2^e with d > 0, to at least `bits` bits. -/
def quotient (bits n d : Nat) (e : Int) : Approx :=
  let k := bits + Nat.log2 d + 1 - min (Nat.log2 n) (bits + Nat.log2 d)
  ⟨n * 2 ^ k / d, e - k, decide (n * 2 ^ k % d ≠ 0)⟩

/-- The integer square root by digits, from bit k down. -/
def isqrtFrom (n : Nat) : Nat → Nat → Nat
  | 0, r => r
  | k + 1, r => let c := r + 2 ^ k; isqrtFrom n k (if c * c ≤ n then c else r)

/-- The integer square root. -/
def isqrt (n : Nat) : Nat := isqrtFrom n (Nat.log2 n / 2 + 1) 0

/-- The square root of n × 2^e, to at least `bits` bits. -/
def rootOf (bits n : Nat) (e : Int) : Approx :=
  let odd := e % 2
  let m := n * 2 ^ odd.toNat * 4 ^ bits
  let r := isqrt m
  ⟨r, (e - odd) / 2 - bits, decide (r * r ≠ m)⟩

/-! ### Special functions (09 R208, Table 9-2) -/

/-- A / B. -/
def FVal.divBits (f : Fmt) (mode : RMode) (a b : FVal) : Nat :=
  match a, b with
  | .nan, _ => f.nanCode
  | _, .nan => f.nanCode
  | .inf _, .inf _ => f.nanCode
  | .inf s, .fin t _ _ => f.signed (s != t) f.infCode
  | .fin s _ _, .inf t => f.signed (s != t) 0
  | .fin s n e, .fin t m g =>
    if m = 0 then (if n = 0 then f.nanCode else f.signed (s != t) f.infCode)
    else if n = 0 then f.signed (s != t) 0
    else f.encode mode false (s != t) (quotient 70 n m (e - g))

/-- 1 / A. -/
def FVal.rcpBits (f : Fmt) (mode : RMode) (a : FVal) : Nat := FVal.divBits f mode (.fin false 1 0) a

/-- The square root of A. -/
def FVal.sqrtBits (f : Fmt) (mode : RMode) : FVal → Nat
  | .nan => f.nanCode
  | .inf s => if s then f.nanCode else f.infCode
  | .fin s n e => if n = 0 then f.signed s 0 else if s then f.nanCode else f.encode mode false false (rootOf 70 n e)

/-- 1 / √A: the root of 1 / A, whose exactness needs the remainder of the quotient too. -/
def FVal.rsqBits (f : Fmt) (mode : RMode) : FVal → Nat
  | .nan => f.nanCode
  | .inf s => if s then f.nanCode else 0
  | .fin s n e =>
    if n = 0 then f.signed s f.infCode
    else if s then f.nanCode
    else
      let odd := e % 2
      let d := n * 2 ^ odd.toNat
      let k := 2 * (Nat.log2 d + 140)
      let q := 2 ^ k / d
      let r := isqrt q
      f.encode mode false false ⟨r, -((e - odd) / 2) - k / 2, decide (r * r * d ≠ 2 ^ k)⟩

/-- Fraction bits of the fixed-point evaluations: the results of binary32 functions are told from every rounding
boundary long before this many bits (DEDUCED, log 12). -/
def fixBits : Nat := 448

/-- Σ of a series whose next term is the last times `num` over `den k`, in fixed point. -/
def seriesExp (t : Nat) : Nat → Nat → Nat → Nat
  | 0, _, _ => 0
  | n + 1, k, term => term + seriesExp t n (k + 1) (term * t / 2 ^ fixBits / k)

/-- 2 × atanh z in fixed point, z = a / b. -/
def atanhSeries (a b : Nat) : Nat → Nat → Nat → Nat
  | 0, _, _ => 0
  | n + 1, k, term => 2 * term / k + atanhSeries a b n (k + 2) (term * a / b * a / b)

/-- ln of (b + a) / (b - a), for a / b at most 1/3, in fixed point. -/
def lnRatio (a b : Nat) : Nat := atanhSeries a b 150 1 (2 ^ fixBits * a / b)

/-- ln 2 in fixed point. -/
def ln2Fix : Nat := lnRatio 1 3

/-- arctan of 1 / d in fixed point. -/
def atanInv (d : Nat) : Nat → Nat → Nat → Int
  | 0, _, _ => 0
  | n + 1, k, term => (if k % 4 = 1 then ((term / k : Nat) : Int) else -((term / k : Nat) : Int)) + atanInv d n (k + 2) (term / (d * d))

/-- π in fixed point, by Machin's formula. -/
def piFix : Nat := (16 * atanInv 5 110 1 (2 ^ fixBits / 5) - 4 * atanInv 239 40 1 (2 ^ fixBits / 239)).toNat

/-- sin or cos of t in fixed point by its series, from the term given. -/
def seriesTrig (t : Nat) : Nat → Nat → Nat → Bool → Int
  | 0, _, _, _ => 0
  | n + 1, k, term, neg =>
    (if neg then -(term : Int) else term) + seriesTrig t n (k + 2) (term * t / 2 ^ fixBits * t / 2 ^ fixBits / (k * (k + 1))) (!neg)

/-- sin of π x for 0 < x ≤ 1/2, x in fixed point. -/
def sinPi (x : Nat) : Nat := let t := piFix * x / 2 ^ fixBits; (seriesTrig t 60 2 t false).toNat

/-- 2^A, binary32. -/
def FVal.exp2Bits (mode : RMode) : FVal → Nat
  | .nan => f32.nanCode
  | .inf s => if s then 0 else f32.infCode
  | .fin s n e =>
    if n = 0 then 0x3F800000
    else if 8 ≤ e + Nat.log2 n then f32.encode mode false false ⟨1, if s then -400 else 400, true⟩
    else
      let v := if 0 ≤ e + fixBits then n * 2 ^ (e + fixBits).toNat else 0
      let x : Int := if s then -(v : Int) else v
      let i := x / 2 ^ fixBits
      let fr := (x % 2 ^ fixBits).toNat
      if fr = 0 then f32.encode mode false false ⟨1, i, false⟩
      else f32.encode mode false false ⟨seriesExp (fr * ln2Fix / 2 ^ fixBits) 100 1 (2 ^ fixBits), i - fixBits, true⟩

/-- e^A, binary32, correctly rounded (17 R362). -/
def FVal.expBits (mode : RMode) : FVal → Nat
  | .nan => f32.nanCode
  | .inf s => if s then 0 else f32.infCode
  | .fin s n e =>
    if n = 0 then 0x3F800000
    else if 8 ≤ e + Nat.log2 n then f32.encode mode false false ⟨1, if s then -400 else 400, true⟩
    else
      let v := if 0 ≤ e + fixBits then n * 2 ^ (e + fixBits).toNat else 0
      let x : Int := if s then -(v : Int) else v
      let i := x / ln2Fix
      f32.encode mode false false ⟨seriesExp (x % ln2Fix).toNat 100 1 (2 ^ fixBits), i - fixBits, true⟩

/-- log2 A, binary32. -/
def FVal.log2Bits (mode : RMode) : FVal → Nat
  | .nan => f32.nanCode
  | .inf s => if s then f32.nanCode else f32.infCode
  | .fin s n e =>
    if n = 0 then f32.signed true f32.infCode
    else if s then f32.nanCode
    else
      let l := Nat.log2 n
      let k : Int := e + l
      let one := 2 ^ l
      if n = one then (FVal.ofInt k 0).round f32 mode false
      else
        let x : Int := k * 2 ^ fixBits + ((lnRatio (n - one) (n + one) * 2 ^ fixBits / ln2Fix : Nat) : Int)
        f32.encode mode false (decide (x < 0)) ⟨x.natAbs, -(fixBits : Int), true⟩

/-- The residue of a finite magnitude modulo 2, as a multiple of 2^-w, with w. -/
def mod2 (n : Nat) (e : Int) : Nat × Nat := if 0 ≤ e then (n * 2 ^ e.toNat % 2, 0) else (n % 2 ^ (1 + (-e).toNat), (-e).toNat)

/-- sin of π r / 2^w for r below 2^(w+1), binary32, with the sign of the operand; exact at multiples of one half. -/
def sinTurn (mode : RMode) (neg : Bool) (r w : Nat) : Nat :=
  let one := 2 ^ w
  let neg2 := neg != decide (one < r)
  let a := if one < r then r - one else r
  if a = 0 ∨ a = one then f32.signed neg 0
  else if 2 * a = one then f32.signed neg2 0x3F800000
  else
    let b := if one < 2 * a then one - a else a
    f32.encode mode false neg2 ⟨sinPi (b * 2 ^ (fixBits - w)), -(fixBits : Int), true⟩

/-- sin(πA), binary32. -/
def FVal.sinpBits (mode : RMode) : FVal → Nat
  | .nan => f32.nanCode
  | .inf _ => f32.nanCode
  | .fin s n e => let m := mod2 n e; sinTurn mode s m.1 m.2

/-- cos(πA), binary32: the sine half a turn on; exact zeros are +0. -/
def FVal.cospBits (mode : RMode) : FVal → Nat
  | .nan => f32.nanCode
  | .inf _ => f32.nanCode
  | .fin _ n e =>
    let m := mod2 n e
    let w := if m.2 = 0 then 1 else m.2
    let r := if m.2 = 0 then m.1 * 2 else m.1
    let r2 := (r + 2 ^ (w - 1)) % 2 ^ (w + 1)
    if r2 = 0 ∨ r2 = 2 ^ w then 0
    else if m.1 = 0 then 0x3F800000
    else sinTurn mode false r2 w

/-! ### Stochastic rounding (07 R159) -/

/-- The code below or at a positive real and whether r, of 32 bits, takes it to the code above: the fraction of the step
above the lower code against r. -/
def stochCode (t : Nat) (qmin : Int) (n : Nat) (e : Int) (r : Nat) : Nat :=
  if n = 0 then 0
  else
    let q := max (e + Nat.log2 n - t) qmin
    let base := (q - qmin).toNat * 2 ^ t
    if q ≤ e then base + n * 2 ^ (e - q).toNat
    else
      let k := (q - e).toNat
      let lo := n / 2 ^ k
      let low := n % 2 ^ k
      base + (if r * 2 ^ k < low * 2 ^ 32 then lo + 1 else lo)

/-- The fraction test for a negative value: lo and hi exchange. -/
def stochNeg (t : Nat) (qmin : Int) (n : Nat) (e : Int) (r : Nat) : Nat :=
  if n = 0 then 0
  else
    let q := max (e + Nat.log2 n - t) qmin
    let base := (q - qmin).toNat * 2 ^ t
    if q ≤ e then base + n * 2 ^ (e - q).toNat
    else
      let k := (q - e).toNat
      let lo := n / 2 ^ k
      let low := n % 2 ^ k
      if low = 0 then base + lo
      else base + (if r * 2 ^ k < (2 ^ k - low) * 2 ^ 32 then lo else lo + 1)

/-- The code of a real's magnitude chosen by r; `neg` is its sign. -/
def stoch (t : Nat) (qmin : Int) (neg : Bool) (n : Nat) (e : Int) (r : Nat) : Nat :=
  if neg then stochNeg t qmin n e r else stochCode t qmin n e r

/-- CVTSR into binary16 or BF16. -/
def FVal.cvtsr (f : Fmt) (sat : Bool) (r : Nat) : FVal → Nat
  | .nan => f.nanCode
  | .inf s => f.signed s f.infCode
  | .fin s n e =>
    let c := stoch f.tbits f.qmin s n e r
    f.signed s (if c < f.infCode then c else if sat then f.infCode - 1 else f.infCode)

/-- CVTSR into a binary8 format. -/
def Fmt8.cvtsr (f : Fmt8) (r : Nat) : FVal → Nat
  | .nan => f.nanCode
  | .inf s => f.encode .rne (.inf s)
  | .fin s n e =>
    if f.u && s then 0
    else
      let c := min (stoch (f.p - 1) f.qmin s n e r) f.maxCode
      if c = 0 then 0 else if s then 0x80 + c else c

/-! ### Source and destination types of CVT (05 Table 5-5) -/

/-- The value of a register of a source type: s32, n32, s64, n64, f64, f32, f16, bf16, b8 by number. -/
def cvtSource (ty : Nat) (fmt : BitVec 32) (x : BitVec 64) : FVal :=
  match ty with
  | 0 => .ofInt (x.truncate 32).toInt 0
  | 1 => .fin false (x.toNat % 2 ^ 32) 0
  | 2 => .ofInt x.toInt 0
  | 3 => .fin false x.toNat 0
  | 4 => f64.decode x.toNat
  | 5 => f32.decode (x.toNat % 2 ^ 32)
  | 6 => f16.decode (x.toNat % 2 ^ 16)
  | 7 => bf16.decode (x.toNat % 2 ^ 16)
  | _ => (fmtSrc fmt).decode (x.toNat % 256)

/-- A value converted to a destination type (07 Table 7-7, R158). -/
def cvtTo (ty : Nat) (fmt : BitVec 32) (v : FVal) : BitVec 64 :=
  let rm := fmtRm fmt
  match ty with
  | 0 => (BitVec.ofInt 32 (v.toInt rm (-2 ^ 31) (2 ^ 31 - 1))).zeroExtend 64
  | 1 => BitVec.ofInt 64 (v.toInt rm 0 (2 ^ 32 - 1))
  | 2 => BitVec.ofInt 64 (v.toInt rm (-2 ^ 63) (2 ^ 63 - 1))
  | 3 => BitVec.ofInt 64 (v.toInt rm 0 (2 ^ 64 - 1))
  | 4 => BitVec.ofNat 64 (v.round f64 rm false)
  | 5 => BitVec.ofNat 64 (v.round f32 rm (fmtSat fmt))
  | 6 => BitVec.ofNat 64 (v.round f16 rm (fmtSat fmt))
  | 7 => BitVec.ofNat 64 (v.round bf16 rm (fmtSat fmt))
  | _ => BitVec.ofNat 64 ((fmtDst fmt).encode rm v)

/-! ### Block scaling (07 R161-R164) -/

/-- The largest finite magnitude of a list, as an exact pair. -/
def amax (l : List FVal) : Nat × Int :=
  l.foldl (fun m v => match v with
    | .fin _ n e => if FVal.cmp (.fin false m.1 m.2) (.fin false n e) == some .lt then (n, e) else m
    | _ => m) (0, 0)

/-- QA quantisation of a block: its scale and elements (07 R162). With amax 0 an infinite element gives 0x00 too (DEDUCED,
log 85: R161 saturates it). -/
def quantQA (f : Fmt8) (rm : RMode) (l : List FVal) : Nat × List Nat :=
  let m := amax l
  let e := Max.max (-127) (Min.min 127 (m.2 + Nat.log2 m.1 - f.emax))
  let el := fun (v : FVal) => match v with
    | .fin s n x => if m.1 = 0 then 0 else f.encode rm (.fin s n (x - e))
    | .inf s => if m.1 = 0 then 0 else f.encode rm (.inf s)
    | .nan => f.nanCode
  (if m.1 = 0 then 0 else (e + 127).toNat, l.map el)

/-- QB quantisation of a block under row scale S (07 R163). With amax 0 an infinite element gives 0x00 too (DEDUCED,
log 85: R161 saturates it). -/
def quantQB (f : Fmt8) (rm : RMode) (S : FVal) (l : List FVal) : Nat × List Nat :=
  match S with
  | .fin false (sn + 1) se =>
    let m := amax l
    if m.1 = 0 then
      (0, l.map fun v => match v with | .nan => f.nanCode | _ => 0)
    else
      let mx := f.magnitude f.maxCode
      let b := e5m3Up (quotient 70 m.1 ((sn + 1) * mx.1) (m.2 - se - mx.2))
      match e5m3 b with
      | .fin _ bn be =>
        (b, l.map fun v => match v with
          | .fin s n e => f.encodeReal rm s (if n = 0 then ⟨0, 0, false⟩ else quotient 70 n ((sn + 1) * bn) (e - se - be))
          | v => f.encode rm v)
      | _ => (b, l.map fun _ => f.nanCode)
  | _ => (0xFF, l.map fun _ => f.nanCode)

/-- A QA element decoded with its scale code, exactly (07 R164). -/
def scaledQA (f : Fmt8) (k : Nat) (q : Nat) : FVal := (f.decode q).mul (e8m0 k)

/-- A QB element decoded with row and block scales, exactly (07 R164). -/
def scaledQB (f : Fmt8) (S : FVal) (k : Nat) (q : Nat) : FVal :=
  match S with
  | .fin _ n _ => if n = 0 then .nan else if k = 0xFF then .nan else
      match f.decode q with
      | .nan => .nan
      | v => match e5m3 k with
        | .fin _ 0 _ => .fin v.isNeg 0 0
        | b => (v.mul S).mul b
  | _ => .nan

/-! ### Order of summation (07 R166) -/

/-- The exact sum of a group's products; an exact zero is -0 only where every product is -0. -/
def groupSum (l : List FVal) : FVal :=
  match l with
  | [] => .fin false 0 0
  | v :: r => r.foldl (FVal.add false) v

/-- A dot product accumulated over groups of 32 in ascending order: each group's exact sum is rounded to binary32, then
joined to the accumulator, which is rounded to its format. -/
def dotGroups (acc : Fmt) : Nat → Nat → List FVal → Nat
  | 0, a, _ => a
  | k + 1, a, l =>
    if l.isEmpty then a
    else
      let h := f32.decode ((groupSum (l.take 32)).round f32 .rne false)
      dotGroups acc k (((acc.decode a).add false h).round acc .rne false) (l.drop 32)

/-- The dot product of R166 added to the accumulator code a. -/
def dot (acc : Fmt) (a : Nat) (l : List FVal) : Nat := dotGroups acc (l.length / 32 + 1) a l

end Sys2Proof.Machine
end

