-- ==== Sys2Proof/Machine/Slots.lean ====
section
/-!
DEFINITION. What dispatch knows of a slot operation before it runs: whether it commits (06 R133), whether it makes its
bundle a checkpoint bundle (08 R190, R192), and what it may write (19 R388).
-/

namespace Sys2Proof

/-- Slot operations that are always committing (06 R133, 08 R185, R187, R188, 11 R252, R254, R259, 12 R272, 13 R305,
15 R325, R330): the S slot's under a guard that holds. -/
def Instr.commits (i : Instr) (r : Machine.Regs) : Bool :=
  let op := i.opNum
  if op = 0x04F ∨ op = 0x051 ∨ op = 0x052 then r.cget i.guard.toNat
  else
    decide (0x2B1 ≤ op ∧ op ≤ 0x2B7) || (decide (0x2C0 ≤ op ∧ op ≤ 0x2CA) && op != 0x2C8) ||
      (decide (0x2D0 ≤ op ∧ op ≤ 0x2D5) && op != 0x2D4) || decide (0x2E0 ≤ op ∧ op ≤ 0x2F0) || op == 0x2F3 ||
      decide (0x2F5 ≤ op ∧ op ≤ 0x2F8) || decide (0x300 ≤ op ∧ op ≤ 0x304) || op == 0x306 || op == 0x310

/-- Slot operations that make their bundle a checkpoint bundle whatever their guard (08 R190, R192). -/
def Instr.checkpoints (i : Instr) : Bool := i.opNum == 0x054 || i.opNum == 0x056 || i.opNum == 0x057

/-- The vector registers an operation may write, as first register and count (19 R388): not D where it is a source, as of
the stores and of RAYACC (17 Table 17-3). VSTIX writes one that is known only as it runs. -/
def Instr.vDest (i : Instr) : Nat × Nat :=
  let store := fun (op : Nat) => decide (0x285 ≤ op ∧ op ≤ 0x289) || decide (0x28D ≤ op ∧ op ≤ 0x28F) ||
    decide (0x293 ≤ op ∧ op ≤ 0x295) || op == 0x303
  match i.enc with
  | .a3 op o =>
    if store op then (0, 0)
    else if op = 0x1C0 then (o.d.toNat, o.b.code + 1)
    else (o.d.toNat, (sigOf op).d.vTop o.d - o.d.toNat)
  | .atom op o => if o.nr then (0, 0) else (o.d.toNat, (sigOf op).d.vTop o.d - o.d.toNat)
  | _ => (0, 0)

/-- The vector registers an operation may write: TREORD permutes v[A] beside v[D] on (17 R368). -/
def Instr.vDests (i : Instr) : List Nat :=
  ((List.range i.vDest.2).map fun k => i.vDest.1 + k) ++
    match i.enc with
    | .a3 op o => if op = 0x1C0 then [o.a.toNat] else []
    | _ => []

/-- The worst case of one slot in release-buffer entries (19 R388); a ring-port write needs one line of each word. -/
def Instr.bufNeed (i : Instr) (words : Nat) : Nat :=
  let op := i.opNum
  if decide (0x285 ≤ op ∧ op ≤ 0x289) || decide (0x28D ≤ op ∧ op ≤ 0x28F) || decide (0x293 ≤ op ∧ op ≤ 0x295) then 32 * words
  else if op = 0x298 ∨ op = 0x299 ∨ op = 0x29C ∨ op = 0x29D then 1
  else match i.enc with
    | .a3 _ o => match (sigOf op).d with
      | .vecRing _ => if o.d.toNat < 224 then 0 else words
      | _ => 0
    | _ => 0

/-- The scalar register an M operation writes: D, but for the stores SST and STL and for TLSIG, whose D is the data. -/
def Instr.mScalar (i : Instr) : Option Nat :=
  match i.enc with
  | .a3 op o =>
    if op < 0x280 ∨ op = 0x298 ∨ op = 0x299 ∨ op = 0x29C ∨ op = 0x29D then none
    else match (sigOf op).d with
      | .reg 64 => if o.d.toNat = 0 then none else some o.d.toNat
      | _ => none
  | .atom op o =>
    if (op = 0x29A ∨ op = 0x29B ∨ op = 0x2F1) ∧ o.d.toNat ≠ 0 then some o.d.toNat else none
  | _ => none

/-- The control predicate an M operation writes: QPOP's c[D] (11 R252). -/
def Instr.mControl (i : Instr) : Option Nat :=
  match i.enc with
  | .a3 op o => if op = 0x2B2 then some o.d.toNat else none
  | _ => none

/-- The operation writes a ring port. -/
def Instr.toPort (i : Instr) : Bool :=
  match i.enc with
  | .a3 op o => match (sigOf op).d with
    | .vecRing true => decide (224 ≤ o.d.toNat)
    | _ => false
  | _ => false

/-- The register lines one slot may write, as keys register × 32 + word; of VSTIX, whose register is known only as it
runs, keys that no line has. -/
def Instr.lines (i : Instr) (words : Nat) : List Nat :=
  if i.toPort then []
  else if i.opNum = 0x1A6 then (List.range words).map fun k => 65536 + k
  else i.vDests.flatMap fun r => (List.range words).map fun k => r * 32 + k

/-- The operation reads a ring port in field A or B (04 R102). -/
def Instr.readsPort (i : Instr) : Bool :=
  match i.enc with
  | .a3 op o =>
    let a := match aClass op o with
      | .vecRing _ => decide (224 ≤ o.a.toNat)
      | _ => false
    let b := match (sigOf op).b, o.b with
      | .value (.vecRing _) _, .reg x => decide (224 ≤ x.toNat)
      | _, _ => false
    a || b
  | _ => false

/-- The operation accesses a ring port. -/
def Instr.portAccess (i : Instr) : Bool := i.toPort || i.readsPort

/-- The predicate register a V operation writes. -/
def Instr.pDest (i : Instr) : Option Nat :=
  match i.enc with
  | .a3 op o => match (sigOf op).d with
    | .reg 8 => some o.d.toNat
    | _ => none
  | _ => none

/-- V2 writes no register that V1 may write, neither being one whose registers are known only as it runs, and of the two
at most one accesses a ring port, whose accesses keep program order (15 R317, R320, R321). -/
def vApart (v1 v2 : Instr) : Bool :=
  let b := v2.vDests
  v1.opNum != 0x1A6 && v2.opNum != 0x1A6 && !(v1.portAccess && v2.portAccess) &&
    v1.vDests.all (fun x => !b.contains x) && (v1.pDest.isNone || v1.pDest != v2.pDest)

/-- M operations that access neither memory nor a gang store nor a ring and start no engine: PREF, TTOV, VTOT and RSTAT. -/
def localOp (op : Nat) : Bool := op == 0x2A1 || op == 0x2C8 || op == 0x2C9 || op == 0x2D4

/-- SLD names the gang store (11 R242). -/
def sldGang (b : SrcB) : Bool :=
  match b with
  | .reg _ => false
  | .imm x => x.getLsbD 5
  | .lit sel w => (litEntry sel w).getLsbD 31

/-- M operations that read virtual memory alone: LD, LDV, LDRO, SLD of virtual memory, LDA, TLWAIT and TLREAD. -/
def Instr.readsVirtual (i : Instr) : Bool :=
  let op := i.opNum
  decide (0x280 ≤ op ∧ op ≤ 0x284) || decide (0x28A ≤ op ∧ op ≤ 0x28C) || decide (0x29A ≤ op ∧ op ≤ 0x29B) ||
    decide (0x29E ≤ op ∧ op ≤ 0x2A0) || op == 0x2F1 || op == 0x2F2 ||
    match i.enc with
    | .a3 op o => decide (0x296 ≤ op ∧ op ≤ 0x297) && !sldGang o.b
    | _ => false

/-- The M operation may run before V operation v of its bundle (15 R317, R320, R321): v has no effect in memory, or v writes a
ring port and m is a read of virtual memory, which is another place; behind a read of a port, which acquires, only what
accesses nothing runs. -/
def mPasses (m v : Instr) : Bool :=
  !v.portAccess || localOp m.opNum || (!v.readsPort && m.readsVirtual && !m.toPort)

/-- The slot a deferred failure is reported for: the lowest committing one. -/
def Bundle.commitSlot (b : Bundle) (r : Machine.Regs) : Option Nat := (List.range 4).find? fun k => (b.slot k).commits r

end Sys2Proof
end

