-- ==== Sys2Proof/Machine/Operands.lean ====
section
/-!
DEFINITION. Operands: the B operand in every form (04 R99, R103, 09 R198), vector registers and ring ports as sources
and destinations (04 R102, 06 R129, 09 R199, 11 R250), and the shapes in which slot operations read, compute and write.
-/

namespace Sys2Proof.Machine

/-- What a meaning answers. -/
abbrev Res := Host.Outcome State Fault Refusal

/-! ### Scalars -/

/-- A scalar B operand: an S register, I6 or a literal, sign- or zero-extended (08 R171, 04 R99). -/
def sB (r : Regs) (sx : Bool) (b : SrcB) : Word :=
  match b with
  | .reg x => r.sget x.toNat
  | .imm i => if sx then i.signExtend 64 else i.zeroExtend 64
  | .lit sel w => if sx then (litEntry sel w).signExtend 64 else (litEntry sel w).zeroExtend 64

/-- The guard of an S operation holds (04 R98, 06 R129). -/
def State.sGuard (s : State) (g : BitVec 3) : Bool := s.rd.cget g.toNat

/-- An S operation under its guard: a false one makes it a NOP (08 R170). -/
def State.sOp (s : State) (g : BitVec 3) (k : State) : State := if s.sGuard g then k else s.fin

/-- s[A] of an S operation. -/
def State.sA (s : State) (o : A3) : Word := s.rd.sget o.a.toNat

/-- Write s[D]. -/
def State.putS (s : State) (d : BitVec 8) (v : Word) : State := s.modRegs fun r => r.sset d.toNat v

/-- Write c[D]. -/
def State.putC (s : State) (d : BitVec 8) (b : Bool) : State := s.modRegs fun r => r.cset d.toNat b

/-- An S operation that writes s[D] from s[A] and B (08 R171). -/
def State.sAlu (s : State) (o : A3) (sx : Bool) (f : Word → Word → Word) : State :=
  s.sOp o.g (s.putS o.d (f (s.sA o) (sB s.rd sx o.b))).fin

/-- An S operation that writes c[D] from s[A] and B (08 R174). -/
def State.sCmp (s : State) (o : A3) (sx : Bool) (f : Word → Word → Bool) : State :=
  s.sOp o.g (s.putC o.d (f (s.sA o) (sB s.rd sx o.b))).fin

/-- The c register a B field names. -/
def cB (r : Regs) (b : SrcB) : Bool :=
  match b with
  | .reg x => r.cget x.toNat
  | _ => false

/-! ### Ring ports (04 R102, 11 R250) -/

/-- Whether an operation may go on to its operands. -/
inductive Gate where
  | go
  | wait (c : WaitCond)
  | stop (c : FaultCode) (addr : Word)
deriving DecidableEq, Repr, Inhabited

/-- The first gate that does not let an operation go. -/
def gates : List Gate → Gate
  | [] => .go
  | .go :: r => gates r
  | g :: _ => g

/-- Ring q of a gang. -/
def Gang.ring (g : Gang) (q : Nat) : Ring := tget default g.rings q

/-- Walker w of a gang. -/
def Gang.walker (g : Gang) (w : Nat) : Walker := tget default g.walkers w

/-- Entries of a ring. -/
def Ring.size (r : Ring) : Nat := r.nentM1 + 1

/-- Bytes of an entry. -/
def Ring.entryBytes (r : Ring) : Nat := (r.eszM1 + 1) * 128

/-- The filled entries of a ring. -/
def Ring.filled (r : Ring) : Nat := (r.tail - r.head).toNat

/-- The gang-store address of entry number e. -/
def Ring.entryAt (r : Ring) (e : BitVec 32) : Nat := r.base + e.toNat % r.size * r.entryBytes

/-- A ring as the slots of the bundle in progress see it: its head and tail as before the bundle (06 R129). -/
def State.ringSeen (s : State) (q : Nat) : Ring :=
  let r := s.myGang.ring q
  match s.me.flight.bind (·.olds.ring) with
  | some (p, h, t) => if p = q then { r with head := h, tail := t } else r
  | none => r

/-- The ring a ring-port operand names. -/
def portRing (x : BitVec 8) : Nat := (x.extractLsb' 1 4).toNat

/-- The operand is a ring port. -/
def isPort (x : BitVec 8) : Bool := decide (224 ≤ x.toNat)

/-- A wait on an entry of a ring that its faulted walker will never commit raises the walker's failure (11 R258). -/
def Ring.waitFor (r : Ring) (c : WaitCond) : Gate :=
  match r.broken with
  | some (f, a) => .stop f a
  | none => .wait c

/-- A destination is ready: a ring port waits for a free entry. -/
def State.writeGate (s : State) (x : BitVec 8) : Gate :=
  if isPort x then
    let r := s.ringSeen (portRing x)
    if !r.init then .stop .ringConfig s.bundleVa
    else if r.filled < r.size then .go
    else .wait (.ringFree (portRing x) 1)
  else .go

/-- The place a read of the gang store by the executing team reaches. -/
def State.bankAt (s : State) (a : Word) (n al : Nat) : Except FaultCode Loc := s.storeRead s.me.gang a n al

/-- The team's own stores that memory does not show yet, oldest first, each at its home place: a place has one name here
even if the store named it through this device's own window (18 R371). -/
def State.ownStores (s : State) : List HeldStore :=
  (s.me.storeQ ++ s.me.held).map fun h => { h with loc := s.homeLoc h.loc }

/-- Bytes at a place as the team's loads see them (11 R244). -/
def State.seeLoc (s : State) (l : Loc) (n : Nat) : List Byte :=
  forward s.ownStores (s.homeLoc l) 0 (s.readFor (s.teamCtx s.issue.team) s.me.gang (s.homeLoc l) n)

/-- The gang-store address of element L of the entry a ring port reads, if the entry has it (11 R250). -/
def State.portAt (s : State) (x : BitVec 8) (l : Nat) : Option Nat :=
  let r := s.ringSeen (portRing x)
  if 4 * l < r.entryBytes then some (r.entryAt (r.head + BitVec.ofNat 32 (x.toNat % 2)) + 4 * l) else none

/-- Element L of the entry a ring port reads; 0 beyond the entry (11 R250). -/
def State.portLane (s : State) (x : BitVec 8) (l : Nat) : Lane :=
  match s.portAt x l with
  | some a => BitVec.ofNat 32 (bytesNat (s.seeLoc (.gang a) 4))
  | none => 0

/-- Own stores supply every byte of a place. -/
def covered (stores : List HeldStore) (l : Loc) (n : Nat) : Bool :=
  (List.range n).all fun k => stores.any fun h => (h.byteAt (l.plus k)).isSome

/-- The poisoned line that lane L of a ring port would read (10 R228). -/
def State.portBad (s : State) (x : BitVec 8) (l : Nat) : Option Nat :=
  match s.portAt x l with
  | some a => if covered s.ownStores (.gang a) 4 then none else badLine s.myGang.bad a 4
  | none => none

/-- A source operand is ready: a ring port waits until offset + 1 entries are filled; a poisoned line of it cannot be read
by a lane of the mask (10 R228). -/
def State.readGate (s : State) (m : LaneMask) (x : BitVec 8) : Gate :=
  if isPort x then
    let r := s.ringSeen (portRing x)
    if !r.init then .stop .ringConfig s.bundleVa
    else if x.toNat % 2 < r.filled then
      match (s.active m).findSome? (s.portBad x) with
      | some a => .stop .poison (BitVec.ofNat 64 a)
      | none => .go
    else r.waitFor (.ringFilled (portRing x) (x.toNat % 2 + 1))
  else .go

/-- Put stores in the release buffer (19 R387). -/
def State.hold (s : State) (l : List HeldStore) : State := s.modMe fun t => { t with held := t.held ++ l }

/-- Where a place lies among its lines. -/
def Loc.off : Loc → Nat
  | .gang a => a
  | .phys a _ => a
  | .recipe _ a => a

/-- Join pieces that follow one another within a 128-byte line: one entry for each line (19 R387). -/
def joinStores : List HeldStore → List HeldStore
  | [] => []
  | a :: r =>
    match joinStores r with
    | b :: q => if a.loc.plus a.data.length = b.loc ∧ a.key = b.key ∧
        a.loc.off / 128 = (a.loc.off + a.data.length + b.data.length - 1) / 128 then
        ⟨a.loc, a.va, a.data ++ b.data, false, a.key, a.region⟩ :: q else a :: b :: q
    | [] => [a]

/-- The writes of the elements of a mask into the first free entry of a ring. -/
def State.portStores (s : State) (x : BitVec 8) (m : LaneMask) (f : Nat → Lane) : List HeldStore :=
  let r := s.ringSeen (portRing x)
  joinStores (((s.active m).filter fun l => decide (4 * l < r.entryBytes)).map fun l =>
    let a := r.entryAt r.tail + 4 * l
    ⟨.gang a, BitVec.ofNat 64 a, natBytes (f l).toNat 4, false, 0, 0⟩)

/-! ### Vector registers -/

/-- Lane L of a 32-bit vector source (09 R198, R199). -/
def State.vsrc (s : State) (x : BitVec 8) (l : Nat) : Lane := if isPort x then s.portLane x l else s.rd.vget x.toNat l

/-- Lane L of a 64-bit vector source. -/
def State.vsrc64 (s : State) (x : BitVec 8) (l : Nat) : Word := s.rd.vget (x.toNat + 1) l ++ s.rd.vget x.toNat l

/-- Lanes of a register that a higher-numbered slot in DONE has written: they keep its value (06 R129, 19 R391). -/
def State.keptLanes (s : State) (x : Nat) : LaneMask :=
  match s.me.flight with
  | some f =>
    let m := f.bundle.m
    if s.issue.slot < 3 ∧ x ∈ m.vDests then
      if f.done.getLsbD 3 then f.before.top.mask &&& f.before.pget m.guard.toNat ||| f.performed else f.performed
    else 0
  | none => 0

/-- Write the lanes of a mask of vector register x. -/
def State.putReg (s : State) (x : Nat) (m : LaneMask) (f : Nat → Lane) : State :=
  s.modRegs fun r => r.vput s.me.lanes x (m &&& ~~~(s.keptLanes x)) f

/-- Write the lanes of a mask of a 32-bit vector destination. -/
def State.putV (s : State) (x : BitVec 8) (m : LaneMask) (f : Nat → Lane) : State :=
  if isPort x then s.hold (s.portStores x m f) else s.putReg x.toNat m f

/-- Write the lanes of a mask of a 64-bit vector destination. -/
def State.putV64 (s : State) (x : BitVec 8) (m : LaneMask) (f : Nat → Word) : State :=
  (s.putReg x.toNat m fun l => (f l).extractLsb' 0 32).putReg (x.toNat + 1) m fun l => (f l).extractLsb' 32 32

/-- Write the lanes of a mask of predicate d (09 R197). -/
def State.putP (s : State) (d : BitVec 8) (m : LaneMask) (f : Nat → Bool) : State :=
  let new := maskOf ((s.active m).filter f)
  s.modRegs fun r => r.pset d.toNat ((r.pget d.toNat &&& ~~~m) ||| new)

/-- The registers a B field reads. -/
def bRegs : SrcB → List (BitVec 8)
  | .reg x => [x]
  | _ => []

/-- Lane L of a 32-bit integer B operand (09 R198). -/
def State.bLane (s : State) (sx : Bool) (b : SrcB) (l : Nat) : Lane :=
  match b with
  | .reg x => s.vsrc x l
  | .imm i => if sx then i.signExtend 32 else i.zeroExtend 32
  | .lit sel w => litEntry sel w

/-- The 64-bit literal of entries sel and sel + 1 (04 R99). -/
def litPair (sel : BitVec 2) (w : BitVec 128) : Word := litEntry (sel + 1) w ++ litEntry sel w

/-- Lane L of a 64-bit integer B operand. -/
def State.bLane64 (s : State) (sx : Bool) (b : SrcB) (l : Nat) : Word :=
  match b with
  | .reg x => s.vsrc64 x l
  | .imm i => if sx then i.signExtend 64 else i.zeroExtend 64
  | .lit sel w => litPair sel w

/-- Lane L of a binary32 B operand. -/
def State.bF32 (s : State) (b : SrcB) (l : Nat) : Lane :=
  match b with
  | .reg x => s.vsrc x l
  | .imm i => BitVec.ofNat 32 ((FVal.ofInt i.toInt 0).round f32 .rne false)
  | .lit sel w => litEntry sel w

/-- Lane L of a binary64 B operand. -/
def State.bF64 (s : State) (b : SrcB) (l : Nat) : Word :=
  match b with
  | .reg x => s.vsrc64 x l
  | .imm i => BitVec.ofNat 64 ((FVal.ofInt i.toInt 0).round f64 .rne false)
  | .lit sel w => litPair sel w

/-- Lane L of a packed B operand of a 16-bit format. -/
def State.bPack (s : State) (f : Fmt) (b : SrcB) (l : Nat) : Lane :=
  match b with
  | .reg x => s.vsrc x l
  | .imm i => let c := (FVal.ofInt i.toInt 0).round f .rne false; BitVec.ofNat 32 (c * 65537)
  | .lit sel w => litEntry sel w

/-! ### The shape of a vector operation (06 R139, 09 R197) -/

/-- A V operation under an effective mask: an empty mask completes at once; ring ports are waited on; then it acts. -/
def State.vOp (s : State) (m : LaneMask) (srcs : List (BitVec 8)) (dst : List (BitVec 8)) (k : State) : State :=
  if m = 0 then s.fin
  else match gates (srcs.map (s.readGate m) ++ dst.map s.writeGate) with
    | .go => k.fin
    | .wait c => s.wait c
    | .stop c a => s.fault c a m

/-- v[D] from v[A] alone, 32 bits. -/
def State.v1 (s : State) (o : A3) (f : Lane → Lane) : State :=
  let m := s.effMask o.g
  s.vOp m [o.a] [o.d] (s.putV o.d m fun l => f (s.vsrc o.a l))

/-- v[D] from v[A] and B, 32-bit integers. -/
def State.v2 (s : State) (o : A3) (sx : Bool) (f : Lane → Lane → Lane) : State :=
  let m := s.effMask o.g
  s.vOp m (o.a :: bRegs o.b) [o.d] (s.putV o.d m fun l => f (s.vsrc o.a l) (s.bLane sx o.b l))

/-- v[D] from v[A], B and v[D], 32-bit integers. -/
def State.v3 (s : State) (o : A3) (sx : Bool) (f : Lane → Lane → Lane → Lane) : State :=
  let m := s.effMask o.g
  s.vOp m (o.a :: bRegs o.b) [o.d] (s.putV o.d m fun l => f (s.vsrc o.a l) (s.bLane sx o.b l) (s.rd.vget o.d.toNat l))

/-- v[D:D+1] from v[A:A+1] alone. -/
def State.w1 (s : State) (o : A3) (f : Word → Word) : State :=
  let m := s.effMask o.g
  s.vOp m [] [] (s.putV64 o.d m fun l => f (s.vsrc64 o.a l))

/-- v[D:D+1] from v[A:A+1] and B, 64-bit integers. -/
def State.w2 (s : State) (o : A3) (sx : Bool) (f : Word → Word → Word) : State :=
  let m := s.effMask o.g
  s.vOp m [] [] (s.putV64 o.d m fun l => f (s.vsrc64 o.a l) (s.bLane64 sx o.b l))

/-- v[D:D+1] from v[A:A+1] and a 32-bit count (09 R200). -/
def State.wShift (s : State) (o : A3) (f : Word → Nat → Word) : State :=
  let m := s.effMask o.g
  s.vOp m (bRegs o.b) [] (s.putV64 o.d m fun l => f (s.vsrc64 o.a l) ((s.bLane false o.b l).toNat % 64))

/-- p[D] from v[A] and B, 32-bit integers (09 R202). -/
def State.p2 (s : State) (o : A3) (sx : Bool) (f : Lane → Lane → Bool) : State :=
  let m := s.effMask o.g
  s.vOp m (o.a :: bRegs o.b) [] (s.putP o.d m fun l => f (s.vsrc o.a l) (s.bLane sx o.b l))

/-- p[D] from v[A:A+1] and B, 64-bit integers. -/
def State.p2w (s : State) (o : A3) (sx : Bool) (f : Word → Word → Bool) : State :=
  let m := s.effMask o.g
  s.vOp m [] [] (s.putP o.d m fun l => f (s.vsrc64 o.a l) (s.bLane64 sx o.b l))

end Sys2Proof.Machine
end

