-- ==== Sys2Proof/Machine/Access.lean ====
section
/-!
DEFINITION. How teams and engines reach memory: starting, joining and raising recomputes (13 R299-R304), reads that meet
recipe tiles (13 Table 13-3), the read-only path (10 R231), requests to other devices (18 R371-R374), and the checks of
lanes (11 R243).
-/

namespace Sys2Proof.Machine

/-! ### Recomputes -/

/-- The depth of a requester (13 R299). -/
def State.depthOf (s : State) (u : Nat) : Nat :=
  match (s.gang (s.team u).gang).recompute with
  | some r => r.depth
  | none => 0

/-- The limit a requester's chain has (13 R299). -/
def State.limitOf (s : State) (u : Nat) : Nat :=
  match (s.gang (s.team u).gang).recompute with
  | some r => r.limit
  | none => (s.team u).before.rcpDepth.toNat

/-- The path of a requester (13 R299). -/
def State.pathOf (s : State) (u : Nat) : List Nat :=
  match (s.gang (s.team u).gang).recompute with
  | some r => r.path
  | none => []

/-- A record's fields are in range and its source numbers allowed (13 R295). -/
def State.recordOk (s : State) (p n : Nat) (r : List Byte) (img : Image) : Bool :=
  let w := fieldAt r 0 4
  let nsrc := bitsOf w 6 4
  let src := (List.range 4).map fun k => fieldAt r (0x10 + 4 * k) 4
  bitsOf w 7 7 == 0 && bitsOf w 15 13 == 0 && bitsOf w 31 27 == 0 && decide (nsrc ≤ 4) &&
    decide (8 ≤ bitsOf w 26 16 ∧ bitsOf w 26 16 ≤ 1024 ∧ bitsOf w 26 16 % 8 = 0) &&
    decide (fieldAt r 8 4 < img.codeLen) &&
    ((src.take nsrc).all fun x => decide (x < (s.part p).rcpLen.toNat) && x != n) && (src.drop nsrc).all (· == 0)

/-- The image a record names (13 Table 13-2). -/
def State.recordImage (s : State) (p : Nat) (r : List Byte) : Word :=
  (s.part p).rcpImg + BitVec.ofNat 64 (4096 * fieldAt r 0x0C 4)

/-- Read and check the record of a tile and its image (13 R295): a record that cannot be read fails with its address,
anything else wrong is RECIPE_INVALID with the tile's address. -/
def State.recipeOf (s : State) (p n : Nat) : Except Failure (List Byte × Image) :=
  match s.record p n with
  | .error f => .error f
  | .ok r =>
    match s.loadImage (sysCtx p) (s.recordImage p r) with
    | .error _ => .error ⟨.recipeInvalid, (s.part p).tileVa n⟩
    | .ok img => if s.recordOk p n r img then .ok (r, img) else .error ⟨.recipeInvalid, (s.part p).tileVa n⟩

/-- Bytes of a gang image without its team images (03 Table 3-3). -/
def gangImageBytes (gstore span tileKb : Nat) : Nat := 0x1000 + gstore * 4096 * span + tileKb * 65536

/-- The configuration of recompute gangs allows one to be built, and the context pool could ever hold its image
(13 R302). -/
def Part.recipeCanPlace (p : Part) (vregs lanes : Nat) : Bool :=
  let c := p.rcpCfg.toNat
  let gstore := bitsOf c 8 0
  let ntile := bitsOf c 14 9
  let kb := bitsOf c 20 15
  let need := gangImageBytes gstore 1 kb + ceilDiv (0x4000 + vregs * lanes * 4) 4096 * 4096
  decide (gstore ≤ 256) && decide (kb ≤ 32) && decide (ntile ≤ 32) && (ntile == 0 || kb != 0) &&
    decide (need ≤ p.ctxSize.toNat * 2 ^ 21)

/-- The gang and team of a recompute, awaiting placement (13 Tables 13-2, 13-4). -/
def State.addRecompute (s : State) (p n : Nat) (r : Recompute) (rec_ : List Byte) (img : Image) : State :=
  let q := s.part p
  let c := q.rcpCfg.toNat
  let w := fieldAt rec_ 0 4
  let g := s.uids
  let entry := fieldAt rec_ 8 4
  let lanes := 32 * (bitsOf w 12 8 + 1)
  let regs : Regs := { (((Regs.zero.sset 1 (q.recordVa n)).sset 2 (q.tileVa n)).sset 5 (BitVec.ofNat 64 r.depth)) with
    masks := [⟨lanesMask lanes, false, false, 0, 0⟩] }
  let gang : Gang := { Gang.absent with
    part := p, prio := 119 + r.depth, gstore := bitsOf c 8 0, ntile := bitsOf c 14 9, tileKb := bitsOf c 20 15
    keyId := BitVec.ofNat 12 (bitsOf c 43 32), image := img, suspended := true, recompute := some r }
  let team : Team := { Team.absent with
    gang := g, lanes := lanes, vregs := bitsOf w 26 16, st := .out, pc := entry, skipLand := false, regs := regs
    readySince := s.tick
    ckpt := ⟨entry, 0, 0, nextIndex entry (img.litIn s p entry), .seq, regs, regs, ⟨none, none, none⟩, false⟩ }
  { s with gangs := tset s.gangs g gang, teams := tset s.teams (g + 1) team, uids := g + 2 }

/-- The checks of 13 R301 at a recompute's start for requester u. -/
def State.startCheck (s : State) (u p n : Nat) : Except Failure (List Byte × Image) :=
  if s.limitOf u < s.depthOf u + 1 then .error ⟨.recipeDepth, (s.part p).tileVa n⟩
  else s.recipeOf p n

/-- Start the recompute of a dropped tile for requester u, its command waiting where `engine` (13 R301, R302). -/
def State.startTile (s : State) (u p n : Nat) (engine : Bool) : State × Option Failure :=
  match s.startCheck u p n with
  | .error f => (s, some f)
  | .ok (r, img) =>
    let w := fieldAt r 0 4
    if !(s.part p).recipeCanPlace (bitsOf w 26 16) (32 * (bitsOf w 12 8 + 1)) then
      (s, some ⟨.recipeInvalid, (s.part p).tileVa n⟩)
    else
      let src := (List.range (bitsOf w 6 4)).map fun k => fieldAt r (0x10 + 4 * k) 4
      let s1 := (s.setTileState p n .recompute false).modTile p n fun t =>
        { t with bytes := [], resident := true, holder := none, lines := [], bad := [] }
      (s1.addRecompute p n ⟨n, s.depthOf u + 1, s.pathOf u ++ [n], s.limitOf u, src, if engine then [(u, s.issue.eng)] else [], true⟩ r img,
        none)

/-- The recomputes gang g's team and commands are parked on (13 R300). -/
def State.parkedOn (s : State) (g : Nat) : List Nat :=
  let mine := (s.teams.filter fun t => t.2.gang == g).map (·.1)
  let p := (s.gang g).part
  let waits := s.teams.flatMap fun t => if t.2.gang == g then
    t.2.waits.filterMap fun w => match w with
      | .recompute n _ _ => s.recomputeGang p n
      | _ => none
    else []
  let cmds := (s.gangs.filter fun x => match x.2.recompute with
    | some r => r.live && x.2.part == p && r.engines.any fun u => mine.contains u.1
    | none => false).map (·.1)
  (waits ++ cmds).eraseDups

/-- The gangs whose depth a park at depth d would raise, with their new depths; none if one would pass 8 (13 R300,
R303). -/
def State.raises (s : State) : Nat → Nat → Nat → Option (List (Nat × Nat))
  | 0, _, _ => none
  | fuel + 1, g, d =>
    if 8 < d then none
    else if d ≤ ((s.gang g).recompute.map (·.depth)).getD 0 then some []
    else (s.parkedOn g).foldl (fun acc x =>
        match acc, s.raises fuel x (d + 1) with
        | some l, some m => some (l ++ m)
        | _, _ => none) (some [(g, d)])

/-- Raise a recompute's depth and priority (13 R300). -/
def State.raiseTo (s : State) (g d : Nat) : State :=
  s.modGang g fun x => match x.recompute with
    | some r => if r.depth < d then { x with recompute := some { r with depth := d }, prio := 119 + d } else x
    | none => x

/-- Join the recompute of a tile (13 R303); an engine's command that has joined waits on. -/
def State.joinTile (s : State) (u p n g : Nat) (engine : Bool) : State × Option Failure :=
  let deep : Failure := ⟨.recipeDepth, (s.part p).tileVa n⟩
  let e := s.depthOf u
  if engine && (((s.gang g).recompute.map (·.engines)).getD []).contains (u, s.issue.eng) then (s, none)
  else if (s.pathOf u).contains n || decide (s.limitOf u < e + 1) then (s, some deep)
  else match s.raises 9 g (e + 1) with
    | none => (s, some deep)
    | some l =>
      let s1 := l.foldl (fun x r => x.raiseTo r.1 r.2) s
      (if engine then s1.modGang g fun x => { x with
          recompute := x.recompute.map fun r => { r with engines := r.engines ++ [(u, s.issue.eng)] } }
        else s1, none)

/-- Ask for a tile that a read found missing: start its recompute or join the one that runs. -/
def State.requestTile (s : State) (u n : Nat) (engine : Bool) : State × Option Failure :=
  let p := (s.gang (s.team u).gang).part
  match s.recomputeGang p n with
  | some g => s.joinTile u p n g engine
  | none => s.startTile u p n engine

/-! ### Reads that meet recipe tiles -/

/-- What a read of a tile meets (13 Table 13-3): readable, missing, or an error; one that had parked on the tile's recompute
has its bytes (13 R311). -/
def State.tileReadable (s : State) (c : Ctx) (n : Nat) : Except Failure Bool :=
  if (s.givenTile c n).isSome then .ok true
  else match s.tileState c.part n with
  | .error f => .error f
  | .ok .free => .error ⟨.recipeInvalid, (s.part c.part).tileVa n⟩
  | .ok .opened => .ok true
  | .ok .sealed => .ok true
  | .ok .dropped => .ok false
  | .ok .recompute => .ok (s.recomputeGang c.part n == c.team.map fun u => (s.team u).gang)

/-- A tile has been read (13 R297: least recently read). -/
def State.noteRead (s : State) (p : Nat) (l : Loc) : State :=
  match l with
  | .recipe n _ => s.modTile p n fun t => { t with readAt := s.cycle }
  | _ => s

/-- Where one lane's access lies: its place, address and key, and whether the team's own withheld stores supply every
byte of it, so that it never reaches the place (11 R244). -/
structure LaneAt where
  loc : Loc
  va : Word
  key : BitVec 12
  served : Bool
deriving DecidableEq, Repr, Inhabited

/-- A place lies in host memory. -/
def State.isHost (s : State) (l : Loc) : Bool :=
  match l with
  | .phys pa _ => s.target pa == .host
  | _ => false

/-- A place is domain-remote, this device's own window included. -/
def State.isDomain (s : State) (l : Loc) : Bool :=
  match l with
  | .phys pa _ => s.target pa == .remote
  | _ => false

/-! ### Requests to other devices (18 R372, R373) -/

/-- The request of a remote place. -/
def State.remoteReq (s : State) (a : LaneAt) (kind : RemoteKind) (n : Nat) : Nat × RemoteReq :=
  match a.loc with
  | .phys pa _ => (remoteDevice pa, ⟨kind, remoteOffset pa, n, a.key, s.dev.ndev.toNat⟩)
  | _ => (0, ⟨kind, 0, n, a.key, 0⟩)

/-- The request among some outstanding ones. -/
def askedIn (l : List RemoteOut) (d : Nat) (q : RemoteReq) (va : Word) : Option RemoteOut :=
  l.find? fun x => x.device == d && x.req == q && x.va == va

/-- The team's outstanding request, if it has made it. -/
def Team.asked (t : Team) (d : Nat) (q : RemoteReq) (va : Word) : Option RemoteOut := askedIn t.remote d q va

/-- Send a request unless it is outstanding. -/
def State.ask (s : State) (d : Nat) (q : RemoteReq) (va : Word) : State :=
  if (s.me.asked d q va).isSome then s
  else s.modMe fun t => { t with remote := t.remote ++ [⟨d, q, va, s.tick, none, false, .none⟩] }

/-- The failure an answer stands for (18 R373). -/
def respFail : RemoteResp → Option FaultCode
  | .ok _ => none
  | .poison => some .poison
  | .keyFailed => some .keyInvalid
  | .error => some .fabricError

/-- The bytes of an answer. -/
def respBytes : RemoteResp → List Byte
  | .ok b => b
  | _ => []

/-- What reading a range gives: its bytes, a failure, the tile that must be rebuilt first, or the request to another
device whose answer it needs. -/
inductive Got where
  | ok (b : List Byte)
  | fail (f : Failure)
  | tile (n : Nat)
  | remote (d : Nat) (q : RemoteReq) (va : Word)
deriving DecidableEq, Repr, Inhabited

/-- What one checked piece of a read gives. -/
def State.gotPiece (s : State) (c : Ctx) (own : List HeldStore) (ans : List RemoteOut) (a : LaneAt) (n : Nat) : Got :=
  let g := match c.team with | some u => (s.team u).gang | none => 0
  match a.loc with
  | .recipe t _ =>
    (match s.tileReadable c t with
    | .error f => .fail f
    | .ok false => .tile t
    | .ok true =>
      if s.badAt c.part g a.loc n then .fail ⟨.poison, faultAddr .poison a.va⟩
      else .ok (forward own (s.homeLoc a.loc) 0 (s.readFor c g a.loc n)))
  | .gang _ => if s.badAt c.part g a.loc n then .fail ⟨.poison, faultAddr .poison a.va⟩ else .ok (forward own (s.homeLoc a.loc) 0 (s.readLoc c.part g a.loc n))
  | .phys pa key =>
    if s.isRemote a.loc then
      let q := s.remoteReq a .load n
      match (askedIn ans q.1 q.2 a.va).bind (·.answer) with
      | none => .remote q.1 q.2 a.va
      | some r => match respFail r with
        | some f => .fail ⟨f, a.va⟩
        | none => .ok (forward own (s.homeLoc a.loc) 0 (respBytes r))
    else
      let here := if s.isDomain a.loc then remoteOffset pa else pa
      if s.isDomain a.loc && !s.keyOk s.dev.domPart.toNat a.key then .fail ⟨.keyInvalid, a.va⟩
      else if (s.poisonIn here n).isSome then .fail ⟨.poison, if s.isDomain a.loc then a.va else faultAddr .poison a.va⟩
      else .ok (forward own (s.homeLoc a.loc) 0 (s.physRead key here n))

/-- Read a range of virtual memory in pieces within 128-byte lines, meeting tiles as 13 Table 13-3 gives; `own` are
stores the reader sees before memory shows them, `ans` its requests to other devices. -/
def State.gotVa (s : State) (c : Ctx) (k : Access) (own : List HeldStore) (ans : List RemoteOut) (va : Word) :
    Nat → Nat → Got
  | _, 0 => .ok []
  | 0, _ => .ok []
  | fuel + 1, n =>
    let m := min n (128 - va.toNat % 128)
    match s.check c k va m 1 with
    | .error f => .fail ⟨f, faultAddr f va⟩
    | .ok (l, leaf) =>
      match s.gotPiece c own ans ⟨l, va, leaf.key, false⟩ m with
      | .ok b =>
        (match s.gotVa c k own ans (va + BitVec.ofNat 64 m) fuel (n - m) with
        | .ok rest => .ok (b ++ rest)
        | x => x)
      | x => x

/-- The requests to other devices that the engine at work has made for team u. -/
def State.engAsked (s : State) (u : Nat) : List RemoteOut := (s.team u).engRemote.filter fun x => x.eng == s.issue.eng

/-- Read a range as an engine of a team does (11 R262): at device scope, remote places at their owner. -/
def State.engGet (s : State) (c : Ctx) (k : Access) (va : Word) (n : Nat) : Got :=
  s.gotVa c k [] (match c.team with | some u => s.engAsked u | none => []) va (n / 128 + 2) n

/-- An engine has read a range: the recipe tiles in it have been read (13 R297). -/
def State.noteRange (s : State) (c : Ctx) (va : Word) (n : Nat) : State :=
  (List.range ((va.toNat % 65536 + n + 65535) / 65536)).foldl (fun x k =>
    match x.tileOf c.part (va + BitVec.ofNat 64 (65536 * k)) with
    | some t => if (x.tileState c.part t).toOption == some .free then x else x.noteRead c.part (.recipe t 0)
    | none => x) s

/-- A range of a gang store as an engine reads it. -/
def State.engGang (s : State) (g : Nat) (a : Word) (n : Nat) : Got :=
  match s.storeRead g a n 1 with
  | .error f => .fail ⟨f, faultAddr f a⟩
  | .ok _ => .ok (s.bankBytes g a.toNat n)

/-- Send a request of the engine at work for team u unless it is outstanding. -/
def State.engAsk (s : State) (u d : Nat) (q : RemoteReq) (va : Word) : State :=
  if (askedIn (s.engAsked u) d q va).isSome then s
  else s.modTeam u fun t => { t with engRemote := t.engRemote ++ [⟨d, q, va, s.tick, none, false, s.issue.eng⟩] }

/-- What an engine's read comes to. -/
inductive EngRead where
  | ok (b : List Byte)
  | fail (f : Failure) (s : State)
  | wait (s : State)

/-- Resolve an engine's read for team u: a missing tile is asked for, and the failure of its recompute is the
read's (13 R301, R304); a remote piece is requested. -/
def State.engResolve (s : State) (u : Nat) (x : Got) : EngRead :=
  match x with
  | .ok b => .ok b
  | .fail f => .fail f s
  | .tile n =>
    (match (s.team u).engFails.find? fun f => f.1 == s.issue.eng && f.2.1 == n with
    | some f => .fail f.2.2 (s.modTeam u fun t => { t with engFails := t.engFails.filter fun x => x != f })
    | none =>
      match s.requestTile u n true with
      | (s1, none) => .wait s1
      | (_, some f) => .fail f s)
  | .remote d q va => .wait (s.engAsk u d q va)

/-- What an engine's write comes to. -/
inductive EngWrite where
  | done (s : State)
  | fail (f : Failure) (s : State)
  | wait (s : State)

/-- Write bytes for an engine working for team u, in pieces within 128-byte lines: a recipe tile is met as 13 Table
13-3 and R297 give; a store to another device awaits its owner's acknowledgement, whose failure is the engine's
(11 R262, R263, 12 R275); one to this device's own window is checked as its owner checks it (18 R371, R372). What
precedes a failing piece stays written. -/
def State.engPut (s : State) (c : Ctx) (u : Nat) (va : Word) : Nat → List Byte → EngWrite
  | 0, _ => .done s
  | fuel + 1, data =>
    if data.isEmpty then .done s
    else
      let m := 128 - va.toNat % 128
      let d := data.take m
      match s.check c .store va d.length 1 with
      | .error f => .fail ⟨f, faultAddr f va⟩ s
      | .ok (.recipe n off, _) =>
        (match s.tileStore c.part (some (s.team u).gang) n off va d with
        | .refused f => .fail f s
        | .wait _ => .wait s
        | .done s1 => s1.engPut c u (va + BitVec.ofNat 64 m) fuel (data.drop m))
      | .ok (l, leaf) =>
        if s.isRemote l then
          let q := s.remoteReq ⟨l, va, leaf.key, false⟩ (.store d) d.length
          match (askedIn (s.engAsked u) q.1 q.2 va).bind (·.answer) with
          | none => .wait (s.engAsk u q.1 q.2 va)
          | some r => match respFail r with
            | some f => .fail ⟨f, va⟩ s
            | none => s.engPut c u (va + BitVec.ofNat 64 m) fuel (data.drop m)
        else if s.selfRefuses l leaf.key then .fail ⟨.keyInvalid, va⟩ s
        else (s.writeLoc c.part (s.team u).gang (s.homeLoc l) d).engPut c u (va + BitVec.ofNat 64 m) fuel (data.drop m)

/-- Write bytes of virtual memory for an engine. -/
def State.engWrite (s : State) (u : Nat) (va : Word) (data : List Byte) : EngWrite :=
  s.engPut (s.teamCtx u) u va (data.length / 128 + 2) data

/-- Write bytes of a gang store for an engine; a suspended gang's lie in its save area (03 R85). -/
def State.engGangWrite (s : State) (g : Nat) (a : Word) (data : List Byte) : EngWrite :=
  match (s.gang g).checkStore a data.length 1 with
  | .error f => .fail ⟨f, a⟩ s
  | .ok _ =>
    let s1 := s.writeLoc 0 g (.gang a.toNat) data
    let x := s1.gang g
    if x.suspended then
      let off := 0x1000 + bitsOf a.toNat 21 20 * (x.gstore * 4096) + a.toNat % 2 ^ 20
      .done (s1.writeMem (keyCtx x.part x.keyId) (x.img + BitVec.ofNat 64 off) data).1
    else .done s1

/-! ### Lanes -/

/-- A failure of some lanes: the lowest failing lane's, and every lane that fails with its code (11 R243). -/
structure LaneFail where
  fail : Failure
  lanes : LaneMask
deriving DecidableEq, Repr, Inhabited

/-- Check every lane of a list: the results in lane order, or the failure. -/
def checkLanes {α : Type} (ls : List Nat) (f : Nat → Except Failure α) : Except LaneFail (List (Nat × α)) :=
  let bad := ls.filterMap fun l => match f l with
    | .error e => some (l, e)
    | .ok _ => none
  match bad with
  | (_, e) :: _ => .error ⟨e, maskOf ((bad.filter fun x => x.2.code == e.code).map (·.1))⟩
  | [] => .ok (ls.filterMap fun l => match f l with
    | .ok x => some (l, x)
    | .error _ => none)

/-- A key by which the read-only path holds a line: recipe lines have keys of their own beside the physical ones. -/
def State.lineKey (p : Nat) (l : Loc) : Nat :=
  match l with
  | .phys pa _ => lineOf pa
  | .recipe n off => 2 ^ 52 * (p + 1) + 65536 * n + lineOf off
  | .gang a => lineOf a

/-- Check one lane's access to virtual memory (10 R235, 11 R243); a domain access to this device's own window is checked
as the owner checks it (18 R371, R372). -/
def State.laneVirtual (s : State) (k : Access) (va : Word) (n : Nat) : Except Failure LaneAt :=
  let c := s.teamCtx s.issue.team
  match s.check c k va n n with
  | .error f => .error ⟨f, faultAddr f va⟩
  | .ok (l, leaf) =>
    if s.selfRefuses l leaf.key then .error ⟨.keyInvalid, va⟩
    else .ok ⟨l, va, leaf.key, false⟩

/-- Check one lane's access to the gang store (10 R223). -/
def State.laneGang (s : State) (a : Word) (n : Nat) : Except Failure LaneAt :=
  match s.myGang.checkStore a n n with
  | .error f => .error ⟨f, a⟩
  | .ok l => .ok ⟨l, a, 0, false⟩

/-- A read's further checks: the tile it meets and poison (13 Table 13-3, 10 R228). A load that its own stores supply
whole meets neither. -/
def State.laneRead (s : State) (own : Bool) (x : Except Failure LaneAt) (n : Nat) : Except Failure LaneAt :=
  match x with
  | .error f => .error f
  | .ok a =>
    if own && covered s.ownStores (s.homeLoc a.loc) n then .ok { a with served := true }
    else match s.homeLoc a.loc with
    | .recipe t _ =>
      (match s.tileReadable (s.teamCtx s.issue.team) t with
      | .error f => .error f
      | .ok now => if now && s.badAt s.myGang.part s.me.gang (s.homeLoc a.loc) n then .error ⟨.poison, faultAddr .poison a.va⟩
        else .ok a)
    | .phys pa _ =>
      if !s.isRemote a.loc && (s.poisonIn pa n).isSome then
        .error ⟨.poison, if s.isDomain a.loc then a.va else faultAddr .poison a.va⟩
      else .ok a
    | .gang _ => if s.badAt s.myGang.part s.me.gang (s.homeLoc a.loc) n then .error ⟨.poison, faultAddr .poison a.va⟩ else .ok a

/-- The first tile among some lanes that a read must wait for. -/
def State.missingTile (s : State) (l : List (Nat × LaneAt)) : Option Nat :=
  l.findSome? fun x => match x.2.loc with
    | .recipe t _ => if !x.2.served && (s.tileReadable (s.teamCtx s.issue.team) t).toOption == some false then some t else none
    | _ => none

/-- The lanes whose place lies in a tile. -/
def lanesIn (l : List (Nat × LaneAt)) (t : Nat) : LaneMask :=
  maskOf ((l.filter fun x => match x.2.loc with
    | .recipe n _ => n == t
    | _ => false).map (·.1))

/-- The operation has translated some ranges and waits: it goes on under these translations (10 R238). -/
def State.holdWalk (s : State) (ranges : List (Word × Nat)) : State :=
  s.modMe fun t => { t with
    old := ⟨((s.mapping (s.teamCtx s.issue.team) ranges).pages ++ t.old.pages).eraseDups, t.old.ahead⟩ }

/-- The ranges of virtual memory that some lanes reach. -/
def walked (l : List (Nat × LaneAt)) (n : Nat) : List (Word × Nat) :=
  l.filterMap fun x => match x.2.loc with
    | .gang _ => none
    | _ => some (x.2.va, n)

/-- Park the operation, which has translated some ranges, on a tile (13 R301, R303), or fail its chain. -/
def State.parkOnTile (s : State) (t : Nat) (lanes : LaneMask) (ranges : List (Word × Nat)) : State :=
  match (s.holdWalk ranges).requestTile s.issue.team t false with
  | (s1, none) => s1.wait (.recompute t lanes s.me.pc)
  | (_, some f) => s.fault f.code f.addr lanes

/-- What fetching the remote lanes of a load comes to. -/
inductive RemoteGot where
  | wait (s : State)
  | fail (f : LaneFail)
  | ok

/-- Fetch the remote lanes of a load: requests are made, awaited, and their failures reported. -/
def State.remoteLoad (s : State) (l : List (Nat × LaneAt)) (n : Nat) : RemoteGot :=
  let far := l.filter fun x => s.isRemote x.2.loc && !x.2.served
  if far.isEmpty then .ok
  else
    let s1 := far.foldl (fun x y => let q := s.remoteReq y.2 .load n; x.ask q.1 q.2 y.2.va) s
    let answer := fun (a : LaneAt) =>
      let q := s.remoteReq a .load n
      (s1.me.asked q.1 q.2 a.va).bind (·.answer)
    if far.any fun x => (answer x.2).isNone then .wait ((s1.holdWalk (walked l n)).wait .remote)
    else
      match checkLanes (far.map (·.1)) (fun k =>
        match far.find? fun x => x.1 == k with
        | none => .ok ()
        | some x => match (answer x.2).bind respFail with
          | some c => .error ⟨c, x.2.va⟩
          | none => .ok ()) with
      | .error f => .fail f
      | .ok _ => .ok

/-- The bytes one lane loads: the team's own latest store to each byte, else the owner's answer or what the place holds
(11 R244). -/
def State.laneBytes (s : State) (a : LaneAt) (n : Nat) : List Byte :=
  if a.served then forward s.ownStores (s.homeLoc a.loc) 0 (List.replicate n 0)
  else if s.isRemote a.loc then
    let q := s.remoteReq a .load n
    forward s.ownStores (s.homeLoc a.loc) 0 (((s.me.asked q.1 q.2 a.va).bind (·.answer)).map respBytes |>.getD [])
  else s.seeLoc a.loc n

/-! ### The read-only path and the L2 -/

/-- The cluster of the operation. -/
def State.cluster (s : State) : Nat := s.issue.core / 4

/-- The line of a place as the operation finds it at device scope; of a tile given to it, as its recompute left it
(13 R311). -/
def State.lineBytes (s : State) (p : Nat) (l : Loc) : List Byte :=
  match l with
  | .phys pa key => s.physRead key (lineOf pa) 128
  | .recipe n off => s.readFor ⟨p, s.issue.core, some s.issue.team, none⟩ 0 (.recipe n (lineOf off)) 128
  | .gang _ => []

/-- Fill a cluster's sampler cache with a line, the lowest line leaving when its 4,096 lines are taken (10 R231). -/
def State.fillSampler (s : State) (cl p : Nat) (l : Loc) : State :=
  let k := State.lineKey p l
  let c := tget [] s.ms.sampler cl
  if (tfind c k).isSome then s
  else
    let c1 := if 4096 ≤ c.length then c.drop 1 else c
    { s with ms := { s.ms with sampler := tset s.ms.sampler cl (tset c1 k (s.lineBytes p l)) } }

/-- Bytes of a place through a cluster's sampler cache. -/
def State.samplerBytes (s : State) (cl p : Nat) (l : Loc) (n : Nat) : List Byte :=
  let line := (tfind (tget [] s.ms.sampler cl) (State.lineKey p l)).getD (s.lineBytes p l)
  (line.drop (l.off % 128)).take n

/-- The L2 holds the line of a place (10 R225). -/
def State.fillL2 (s : State) (l : Loc) : State :=
  match l with
  | .phys pa _ =>
    if (tfind s.ms.l2 (lineOf pa)).isSome then s else { s with ms := { s.ms with l2 := tset s.ms.l2 (lineOf pa) false } }
  | _ => s

/-- A read of the read-only path: a line that the cluster's sampler cache holds serves it, whatever has become of its tile
since (13 R298); else it meets what a read meets. -/
def State.laneCached (s : State) (x : Except Failure LaneAt) (n : Nat) : Except Failure LaneAt :=
  match x with
  | .error f => .error f
  | .ok a =>
    if (tfind (tget [] s.ms.sampler s.cluster) (State.lineKey s.myGang.part a.loc)).isSome then .ok { a with served := true }
    else s.laneRead false x n

/-- An access has used its translation, the L2 and the tiles it read. -/
def State.noteLanes (s : State) (l : List (Nat × LaneAt)) : State :=
  l.foldl (fun x a => match a.2.loc with
    | .gang _ => x
    | loc =>
      let y := x.noteXlate (x.teamCtx x.issue.team) a.2.va
      if y.isRemote loc then y else (y.fillL2 (y.homeLoc loc)).noteRead y.myGang.part loc) s

/-! ### Uniform reads -/

/-- Read a record of virtual memory for the operation being executed, as a load of its team: its failure is the
operation's, a missing tile parks it, a remote piece is awaited. Answers are kept until the next bundle is dispatched. -/
def State.uniRead (s : State) (va : Word) (n : Nat) (m : LaneMask) (k : State → List Byte → State) : State :=
  match s.gotVa (s.teamCtx s.issue.team) .load s.ownStores s.me.remote va (n / 128 + 2) n with
  | .ok b => k (s.noteRange (s.teamCtx s.issue.team) va n) b
  | .fail f => s.fault f.code f.addr m
  | .tile t => s.parkOnTile t m [(va, n)]
  | .remote d q a => ((s.ask d q a).holdWalk [(va, n)]).wait .remote

/-- Read a record of the gang store for the operation being executed. -/
def State.uniReadGang (s : State) (a : Word) (n : Nat) (m : LaneMask) (k : State → List Byte → State) : State :=
  match s.bankAt a n 1 with
  | .error f => s.fault f (faultAddr f a) m
  | .ok l => k s (s.seeLoc l n)

/-- Read a record of n bytes, aligned to al, in the space a flag gives (0 virtual, 1 gang store). -/
def State.uniReadIn (s : State) (sp : Nat) (va : Word) (n al : Nat) (m : LaneMask) (k : State → List Byte → State) :
    State :=
  if va.toNat % al ≠ 0 then s.fault .alignment va m
  else if sp = 1 then s.uniReadGang va n m k
  else s.uniRead va n m k

/-! ### The store queue -/

/-- Go on unless the failure of an earlier store is to be raised first (13 R478, 18 R374). -/
def State.raised (s : State) (lanes : LaneMask) (k : State) : State :=
  match s.me.nextStoreFail with
  | some (f, t) => (s.setMe t).fault f.code f.addr lanes
  | none => k

/-- Go on once the stores released before have been performed, raising the failure of one first (13 R478, 18 R374). -/
def State.drained (s : State) (lanes : LaneMask) (k : State) : State :=
  if !s.me.storeQ.isEmpty then s.wait .storeQueue else s.raised lanes k

/-- A release at domain or system scope goes on once every earlier remote store has left the team's queue and been
acknowledged (18 R374, 15 R321, R327). -/
def State.acked (s : State) (scope : Nat) (k : State) : State :=
  if 4 ≤ scope ∧ !s.me.storeQ.isEmpty then s.wait .storeQueue
  else if 4 ≤ scope ∧ !s.me.unacked.isEmpty then s.wait .remote else k

/-- A committing release: every earlier store has been performed, at domain and system scope by its owner too. -/
def State.released (s : State) (scope : Nat) (lanes : LaneMask) (k : State) : State :=
  if !s.me.storeQ.isEmpty then s.wait .storeQueue else s.acked scope (s.raised lanes k)

/-- Stores of a committing operation go to the store queue at once (11 R244, 18 R374), behind what the earlier slots of its
bundle still withhold (15 R317, R320). -/
def State.storeNow (s : State) (l : List HeldStore) : State :=
  let s1 := (s.release s.issue.team s.me.held.length).modMe fun t => { t with storeQ := t.storeQ ++ l }
  s1.drain s1.issue.team s1.me.storeQ.length

end Sys2Proof.Machine
end

