-- ==== Sys2Proof/Machine/Recipe.lean ====
section
/-!
DEFINITION. The recipe instructions SEAL, RPIN, RUNPIN, RDROP, RSTAT and RDONE (13 R308-R311).
-/

namespace Sys2Proof.Machine

/-! ### Uniform operations of the M slot (11 R240) -/

/-- A uniform operation acts once under a non-empty effective mask. -/
def State.uni (s : State) (g : BitVec 3) (k : LaneMask → State) : State :=
  if s.effMask g = 0 then s.fin else k (s.effMask g)

/-- A committing uniform operation under its effective mask; empty, it leaves its checkpoint only (06 R139). -/
def State.uniC (s : State) (g : BitVec 3) (k : LaneMask → State) : State :=
  if s.effMask g = 0 then s.finC else k (s.effMask g)

/-- The team executes recipe code (13 R306). -/
def State.inRecipe (s : State) : Bool := s.myGang.recompute.isSome

/-- An operation recipe code may never use (13 Table 13-5). -/
def State.notInRecipe (s : State) (m : LaneMask) (k : State) : State :=
  if s.inRecipe then s.faultB .recipeIllegal m else k

/-- Write s[D] as a committing operation. -/
def State.putSC (s : State) (d : BitVec 8) (v : Word) : State := s.modRegsC fun r => r.sset d.toNat v

/-- A status in s[D]: 0 when the change was made, 1 when nothing changed (13 R309). -/
def State.status (s : State) (d : BitVec 8) (changed : Bool) : State := (s.putSC d (if changed then 0 else 1)).finC

/-- The tile s[A] names, after the address checks of 13 R308. -/
def State.tileNamed (s : State) (va : Word) : Except Failure Nat :=
  match s.check ⟨s.myGang.part, s.issue.core, none, none⟩ .load va 1 65536 with
  | .error f => .error ⟨f, faultAddr f va⟩
  | .ok (.recipe n _, _) => .ok n
  | .ok _ => .error ⟨.recipeInvalid, va⟩

/-- An operation on the tile s[A] names and its state. -/
def State.tileOp (s : State) (o : A3) (m : LaneMask) (k : Nat → TileState → State) : State :=
  match s.tileNamed (s.sA o) with
  | .error f => s.fault f.code f.addr m
  | .ok n =>
    match s.tileState s.myGang.part n with
    | .error f => s.fault f.code f.addr m
    | .ok st => k n st

/-- SEAL (13 R309): the team's stores are performed and the record checked, then an OPEN tile becomes SEALED. -/
def execSeal (o : A3) (s : State) : Res :=
  .next (s.uniC o.g fun m => s.notInRecipe m (s.drained m (s.tileOp o m fun n st =>
    let p := s.myGang.part
    match s.recipeOf p n with
    | .error f => s.fault f.code f.addr m
    | .ok _ =>
      if st = .opened then
        ((s.setTileState p n .sealed false).modTile p n fun t => { t with resident := true, readAt := s.cycle }).status o.d true
      else s.status o.d false)))

/-- The record of a recompute that failed with no requester (13 R304). -/
def State.logRecompute (s : State) (p n : Nat) (f : Failure) : State :=
  s.logQueue p ⟨f.code.num, 0, 5, 0, 0, p, 0, 0, (s.part p).recordVa n, f.addr, 0, s.timer, 0, 0, 0⟩

/-- RPIN (13 Table 13-3, R309): a dropped tile's recompute is started; its checks come before anything changes. -/
def execRpin (o : A3) (s : State) : Res :=
  .next (s.uniC o.g fun m => s.notInRecipe m (s.tileOp o m fun n st =>
    let p := s.myGang.part
    let t := (s.part p).rtile n
    let pin := fun (x : State) => (x.modTile p n fun t => { t with pins := t.pins + 1 }).status o.d true
    if st = .free ∨ t.pins = 0xFFFF then s.status o.d false
    else if st = .dropped then
      match s.startCheck s.issue.team p n with
      | .error f => s.fault f.code f.addr m
      | .ok _ =>
        match s.startTile s.issue.team p n false with
        | (s1, none) => pin s1
        | (s1, some f) => pin (s1.logRecompute p n f)
    else pin s))

/-- RUNPIN (13 Table 13-3). -/
def execRunpin (o : A3) (s : State) : Res :=
  .next (s.uniC o.g fun m => s.notInRecipe m (s.tileOp o m fun n st =>
    let p := s.myGang.part
    if st = .free ∨ ((s.part p).rtile n).pins = 0 then s.status o.d false
    else (s.modTile p n fun t => { t with pins := t.pins - 1 }).status o.d true))

/-- RDROP: mode 0 drops, mode 1 frees (13 Table 13-3). -/
def execRdrop (o : A3) (s : State) : Res :=
  .next (s.uniC o.g fun m => s.notInRecipe m (s.tileOp o m fun n st =>
    let p := s.myGang.part
    if o.b.code = 0 then
      if st = .sealed ∧ ((s.part p).rtile n).pins = 0 ∧ !s.hpin p n then (s.dropTile p n).status o.d true
      else s.status o.d false
    else match st with
      | .free => s.status o.d true
      | .opened => (s.freeTile p n).status o.d true
      | .recompute => s.status o.d false
      | _ => if s.hpin p n then s.status o.d false else (s.freeTile p n).status o.d true))

/-- RSTAT: the tile's state, HPIN, whether requesters are parked, PINS and GEN (13 R310). Teams count as parked, engine
commands that wait do not (DESIGN CHOICE, log 91). -/
def execRstat (o : A3) (s : State) : Res :=
  .next (s.uni o.g fun m => s.tileOp o m fun n st =>
    let p := s.myGang.part
    let gen := match s.record p n with
      | .ok r => fieldAt r 4 4
      | .error _ => 0
    (s.putS o.d (BitVec.ofNat 64 (st.num + (if s.hpin p n then 16 else 0) +
      (if (s.requesters p n).isEmpty then 0 else 32) + ((s.part p).rtile n).pins.toNat * 2 ^ 16 + gen * 2 ^ 32))).fin)

/-- The engines of a gang have completed every command it issued: copies, Trellis, rays, splats and collectives
(06 Table 6-1). -/
def State.enginesIdle (s : State) (g : Nat) : Bool :=
  let x := s.gang g
  (s.teams.all fun t => t.2.gang != g || t.2.copyQ.isEmpty) && x.trellis.isEmpty && x.rayJobs.isEmpty && x.splatJobs.isEmpty && x.colls.isEmpty

/-- The accesses parked on tile n of partition p are given its bytes as its recompute leaves them: they complete with these
whatever becomes of the tile since (13 R311). -/
def State.give (s : State) (p n : Nat) (engines : List (Nat × EngId)) : State :=
  let bytes := ((s.part p).rtile n).bytes
  let own := fun (t : Team) => t.waits.filterMap fun w => match w with
    | .recompute m _ pc => if m = n then some (⟨.none, n, bytes, pc⟩ : Given) else none
    | _ => none
  let s1 : State := { s with teams := s.teams.map fun t =>
    (t.1, if (s.gang t.2.gang).part = p then { t.2 with given := t.2.given ++ own t.2 } else t.2) }
  engines.foldl (fun x e => x.modTeam e.1 fun t => { t with given := t.given ++ [⟨e.2, n, bytes, 0⟩] }) s1

/-- RDONE: once its gang's engines are idle and its stores performed, the tile is SEALED, its sources are released and
its requesters resume: TEAM_WAKE finds their wait over (13 R311). -/
def execRdone (o : A3) (s : State) : Res :=
  .next (s.uniC o.g fun m =>
    match s.myGang.recompute with
    | none => s.faultB .recipeIllegal m
    | some r =>
      if !r.live then s.fault .recipeSealedWrite ((s.part s.myGang.part).tileVa r.tile) m
      else if !s.enginesIdle s.me.gang then s.wait .engineIdle
      else s.drained m
        (((((s.setTileState s.myGang.part r.tile .sealed false).modTile s.myGang.part r.tile fun t =>
            { t with resident := true, readAt := s.cycle }).give s.myGang.part r.tile r.engines).modMyGang fun g =>
          { g with recompute := some { r with live := false } }).modMe fun t => { t with rdone := true }).finC)

end Sys2Proof.Machine
end

