-- ==== Sys2Proof/Machine/WorkQ.lean ====
section
/-!
DEFINITION. Timeline slots (02 R54) and coalescing work queues (01 R37-R42): signals, the closing of a queue, the
consumer launches it builds and submits, and the records freed behind them.
-/

namespace Sys2Proof.Machine

/-- Work-queue slot n of partition p. -/
def State.wq (s : State) (p n : Nat) : WorkQueue := tget WorkQueue.reset (s.part p).wqs n

/-- The state with `f` applied to work-queue slot n of partition p. -/
def State.modWq (s : State) (p n : Nat) (f : WorkQueue → WorkQueue) : State :=
  s.modPart p fun q => { q with wqs := tset q.wqs n (f (tget WorkQueue.reset q.wqs n)) }

/-- Entries a launch queue holds. -/
def Queue.count (q : Queue) : Nat := (q.tail - q.head).toNat

/-- A launch queue is enabled and has room for an entry. -/
def Queue.hasRoom (q : Queue) : Bool := q.en && decide (q.count < 2 ^ q.sizeLog)

/-- Unlaunched records of a work queue. -/
def WorkQueue.unlaunched (w : WorkQueue) : Nat := (w.tail - w.launched).toNat

/-- Record slots in use, and the capacity. -/
def WorkQueue.used (w : WorkQueue) : Nat := (w.tail - w.freed).toNat

/-- FREED stands at the first record of the oldest consumer gang that has not retired, else at LAUNCHED (01 R39). -/
def WorkQueue.settle (w : WorkQueue) : WorkQueue :=
  { w with freed := match w.covers with
    | [] => w.launched
    | c :: _ => c.1 }

/-- The consumer gangs of a launch of n records from `first`, with the records of each (01 R41, Table 1-10). -/
def gangCovers (first : Word) (n rpg : Nat) : List (Word × Nat) :=
  (List.range (ceilDiv n rpg)).map fun i => (first + BitVec.ofNat 64 (i * rpg), min rpg (n - i * rpg))

/-- Put consumer launches a work queue has built into launch queue LQ while it has room (01 R40, R41). LQ may belong to
another partition: the entry is then that queue's, and its template is read and checked in that queue's partition
(DESIGN CHOICE, log 26: the rule does not say). -/
def State.submitTakes (s : State) (p n : Nat) : Nat → State
  | 0 => s
  | fuel + 1 =>
    let w := s.wq p n
    match w.pending with
    | [] => s
    | t :: r =>
      let q := s.queue w.lq
      if q.hasRoom then
        ((s.modQueue w.lq fun q =>
          { q with built := tset q.built q.tail.toNat ⟨w.template, 0, false, false, 0, some t⟩, tail := q.tail + 1 }).modWq p n
            fun w => { w with pending := r }).submitTakes p n fuel
      else s

/-- Build one consumer launch of n records (01 R40, R41). -/
def State.buildTake (s : State) (p k n : Nat) : State :=
  (s.modWq p k fun w => { w with
    launched := w.launched + BitVec.ofNat 64 n
    ticks := w.ticks.drop n
    covers := w.covers ++ gangCovers w.launched n w.rpg
    pending := w.pending ++ [⟨p * 256 + k, w.launched, n, w.rpg, w.desc⟩] }).submitTakes p k 1

/-- Build the consumer launches that conditions (a) and (c) of 01 R40 call for. -/
def State.buildTakes (s : State) (p k : Nat) : Nat → State
  | 0 => s
  | fuel + 1 =>
    let w := s.wq p k
    let u := w.unlaunched
    if w.rpg = 0 ∨ u = 0 then s
    else if w.thresh ≤ u then (s.buildTake p k w.thresh).buildTakes p k fuel
    else if !w.enable then (s.buildTake p k u).buildTakes p k fuel
    else s

/-- A queue closes: WQPUSH finds it closed and its remaining records are launched (01 R37, R40, R42). -/
def State.closeWq (s : State) (p k : Nat) : State :=
  let s1 := s.modWq p k fun w => { w with enable := false }
  s1.buildTakes p k ((s1.wq p k).unlaunched + 1)

/-- The open queues of partition p whose CLOSESLOT has reached CLOSEVAL close (01 R42). -/
def State.closeDue (s : State) (p : Nat) : State :=
  let due := (s.part p).wqs.filter fun w =>
    w.2.enable && w.2.closeEn && decide (w.2.closeVal.toNat ≤ (tget 0 (s.part p).slots w.2.closeSlot).toNat)
  due.foldl (fun x w => x.closeWq p w.1) s

/-- Slot n of partition p holds a value. -/
def State.slotVal (s : State) (p n : Nat) : Word := tget 0 (s.part p).slots n

/-- Signal a slot: it takes the larger of its value and v, and queues that close on it close (02 R54, 01 R42). -/
def State.signal (s : State) (p n : Nat) (v : Word) : State :=
  (s.modPart p fun q => { q with
    slots := if (tget 0 q.slots n).toNat < v.toNat then tset q.slots n v else q.slots }).closeDue p

/-- Room has come in launch queue q: work queues submit what they hold for it. -/
def State.resubmit (s : State) (q : Nat) : State :=
  s.parts.foldl (fun x p => p.2.wqs.foldl (fun y w =>
    if w.2.lq = q ∧ !w.2.pending.isEmpty then y.submitTakes p.1 w.1 w.2.pending.length else y) x) s

/-- A consumer gang has retired: its cover goes, and FREED advances (01 R39). -/
def State.uncover (s : State) (t : WqTake) (first : Word) : State :=
  s.modWq (t.slot / 256) (t.slot % 256) fun w => { w with covers := w.covers.filter fun c => c.1 != first }.settle

/-- A consumer launch has ended: no gang of it covers a record any longer. -/
def State.uncoverAll (s : State) (t : WqTake) : State :=
  s.modWq (t.slot / 256) (t.slot % 256) fun w =>
    { w with covers := w.covers.filter fun c => decide (t.n ≤ (c.1 - t.first).toNat) }.settle

end Sys2Proof.Machine
end

