-- ==== Sys2Proof/Machine/Launch.lean ====
section
/-!
DEFINITION. Launch queues (02 R47-R53), the checks of a launch descriptor (01 R27-R30), argument copies (01 R34, R35),
the end of a launch (01 R31), and the host's side of work queues and timeline slots (01 R37-R42, 02 R55).
-/

namespace Sys2Proof.Machine

/-- What a machine step answers. -/
abbrev Answer := Host.Outcome State Fault Refusal

/-! ### Queue registers (02 R47, R49, R53) -/

/-- The fields of LQCFG a write may change while the queue is disabled: SIZELOG and MODE, and through the BAR0 alias PART
and PCAP, which a write above 119 sets to 119. -/
def Queue.configure (q : Queue) (viaBar0 : Bool) (v : BitVec 64) : Queue :=
  let q1 := { q with sizeLog := bitsOf v.toNat 12 8, device := v.getLsbD 1 }
  if viaBar0 then { q1 with part := bitsOf v.toNat 28 26, pcap := min (bitsOf v.toNat 25 19) 119 } else q1

/-- The consumer launches whose entries a queue has not begun are discarded: no gang will cover their records
(02 R53). -/
def State.discardTakes (s : State) (q : Nat) : State :=
  let x := s.queue q
  let busy := x.phase.launch?.isSome
  x.built.foldl (fun y e => match e.2.wq with
    | some t => if busy && e.1 == x.head.toNat then y else y.uncoverAll t
    | none => y) s

/-- LQCFG_ENABLE: EN is set, HEAD, TAIL and ERRCNT cleared, unless SIZELOG is outside 4 to 16. An entry whose descriptor
has been read goes on from before (02 R53). A write refused for its SIZELOG still stores the other fields (DESIGN CHOICE,
log 33: the rule says only that EN stays 0). -/
def execLqcfgEnable (q : Nat) (viaBar0 : Bool) (v : BitVec 64) (s : State) : Answer :=
  .next (s.ready (if 1024 ≤ q ∨ (s.queue q).en then s
    else
      let n := bitsOf v.toNat 12 8
      let s1 := s.modQueue q fun x => x.configure viaBar0 v
      if n < 4 ∨ 16 < n then s1
      else ((s1.discardTakes q).modQueue q fun x =>
        { x with en := true, head := 0, tail := 0, errCnt := 0, built := [], stale := x.phase.launch?.isSome }).resubmit q))

/-- LQCFG_DISABLE: the queue stops after its head entry; one that still waits is abandoned. -/
def execLqcfgDisable (q : Nat) (s : State) : Answer :=
  .next (s.ready (if 1024 ≤ q ∨ !(s.queue q).en then s
    else s.modQueue q fun x => { x with en := false, phase := match x.phase with | .waiting _ => .idle | p => p }))

/-- LQTAIL_WRITE: refused and counted where it would overfill the ring or lie behind TAIL; ignored in device mode. -/
def execLqtailWrite (q : Nat) (v : BitVec 32) (s : State) : Answer :=
  .next (s.ready (
    let x := s.queue q
    if 1024 ≤ q ∨ x.device then s
    else if 2 ^ x.sizeLog < (v - x.head).toNat ∨ (v - x.head).toNat < (x.tail - x.head).toNat then
      s.modQueue q fun x => { x with errCnt := x.errCnt + 1 }
    else s.modQueue q fun x => { x with tail := v }))

/-! ### The end of a launch (01 R31) -/

/-- Write a launch status, where STATUS is not 0 and the write succeeds (01 Table 1-6); a refused write is logged
(19 R401). -/
def State.writeStatus (s : State) (p : Nat) (d : LaunchDesc) (st nfault ndone first : Nat) : State :=
  if d.status = 0 then s
  else s.writeOrLog (sysCtx p) d.status (natBytes st 4 ++ natBytes nfault 4 ++ natBytes ndone 4 ++ natBytes first 4)

/-- A launch ends: its status is written, DONESLOT signalled, its argument pages freed, and the work queue it consumed
from is rid of it. -/
def State.endLaunch (s : State) (l : Nat) : State :=
  let x := s.launch l
  let p := x.desc.part
  let st := if x.aborted then 3 else if x.faulted then 2 else 0
  let s1 := (s.writeStatus p x.desc st x.nfault x.ndone x.first).signal p x.desc.doneSlot x.desc.doneVal
  let s2 := s1.modPart p fun y =>
    { y with args := y.args.filter fun a => decide (x.argPages = 0) || a.1 != (x.argAddr - y.argBase).toNat / 4096 }
  let s3 := { s2 with launches := tdel s2.launches l }
  match x.wq with
  | some t => s3.uncoverAll t
  | none => s3

/-- A launch ends once every gang of it that will ever be placed has retired (01 R31). -/
def State.launchOver (s : State) (l : Nat) : Bool :=
  let x := s.launch l
  (s.gangsOf l).isEmpty && (x.aborted || decide (x.desc.gangs ≤ x.nextGang))

/-- End a launch that is over. -/
def State.endIfOver (s : State) (l : Nat) : State :=
  if (tfind s.launches l).isSome && s.launchOver l then s.endLaunch l else s

/-! ### Reading an entry (02 R51, R52) -/

/-- The entry at a queue's head leaves it, and what waits for room in the queue follows. -/
def State.leaveQueue (s : State) (q : Nat) : State := (s.modQueue q Queue.leave).resubmit q

/-- Skip the entry at the head of a queue with a record in the error log (02 R52). -/
def State.skipEntry (s : State) (q : Nat) (kind : Nat) (addr : Word) (f : Failure) (wq : Option WqTake) : State :=
  let p := (s.queue q).part
  let r : FaultRec := ⟨f.code.num, 0, kind, 0, 0, p, 0, 0, addr, f.addr, 0, s.timer, 0, 0, 0⟩
  let s1 := ((s.logQueue p r).modQueue q fun x => { x with errCnt := x.errCnt + 1 }).leaveQueue q
  match wq with
  | some t => s1.uncoverAll t
  | none => s1

/-- The address of the entry at a queue's head. -/
def Queue.entryVa (q : Queue) : Word := q.base + BitVec.ofNat 64 (q.head.toNat % 2 ^ q.sizeLog * 32)

/-- LQ_ENTRY_READ: an enabled queue of a running partition reads the entry at its head. A read that fails by its key, by
poison or by the fabric is skipped like one that fails translation or permission, and FADDR of a malformed entry's record
is the entry's address (DESIGN CHOICE, log 32: 02 R52 says neither). -/
def execLqEntryRead (q : Nat) (s : State) : Answer :=
  .next (
    let x := s.queue q
    if 1024 ≤ q ∨ !x.en ∨ x.phase ≠ .idle ∨ x.head = x.tail ∨ (s.part x.part).st ≠ .running then s
    else match tfind x.built x.head.toNat with
      | some e =>
        if e.desc.toNat % 64 ≠ 0 then s.skipEntry q 3 x.entryVa ⟨.operandInvalid, x.entryVa⟩ e.wq
        else s.modQueue q fun x => { x with phase := .waiting e }
      | none =>
        match s.readMem (sysCtx x.part) .load x.entryVa 32 with
        | .error f => s.skipEntry q 3 x.entryVa f none
        | .ok b =>
          let w := fieldAt b 8 4
          if fieldAt b 0 8 % 64 ≠ 0 ∨ 2 ^ 18 ≤ w ∨ fieldAt b 0x0C 4 ≠ 0 ∨ fieldAt b 0x18 8 ≠ 0 then
            s.skipEntry q 3 x.entryVa ⟨.operandInvalid, x.entryVa⟩ none
          else
            let e : LqEntry := ⟨BitVec.ofNat 64 (fieldAt b 0 8), w % 65536, bitsOf w 16 16 == 1, bitsOf w 17 17 == 1,
              BitVec.ofNat 64 (fieldAt b 0x10 8), none⟩
            s.modQueue q fun x => { x with phase := .waiting e })

/-! ### Checking a descriptor (01 R27-R30) -/

/-- A role record of a descriptor (01 Table 1-4). -/
def parseRole (b : List Byte) : Role :=
  let w := fieldAt b 4 4
  ⟨fieldAt b 0 4, bitsOf w 26 16, bitsOf w 15 8, 32 * (bitsOf w 4 0 + 1), fieldAt b 8 4⟩

/-- A descriptor's fields (01 Table 1-3). -/
def parseDesc (b : List Byte) : LaunchDesc :=
  let w := fieldAt b 0x18 4
  let y := fieldAt b 0x1C 4
  let f := fun (off : Nat) => BitVec.ofNat 64 (fieldAt b off 8)
  { image := f 0, args := f 8, argLen := bitsOf (fieldAt b 0x10 4) 12 0, gangs := fieldAt b 0x14 4
    keyId := BitVec.ofNat 12 (bitsOf w 27 16), hndEn := bitsOf w 15 15 == 1, abort1 := bitsOf w 14 14 == 1
    cluster := bitsOf w 11 11 == 1, part := bitsOf w 10 8, prio := bitsOf w 6 0
    tileKb := bitsOf y 20 15, ntile := bitsOf y 14 9, gstore := bitsOf y 8 0
    faultArea := f 0x20, faultLen := fieldAt b 0x28 4, doneSlot := fieldAt b 0x2C 2, doneVal := f 0x30
    workBase := f 0x38, workEnd := f 0x40, status := f 0x48
    roles := (pieces 32 (bitsOf w 13 12 + 1) (b.drop 0x80)).map parseRole }

/-- Check 2: the reserved fields of header and role records are 0 (01 Table 1-5). -/
def descReserved (b : List Byte) : Bool :=
  let w := fieldAt b 0x18 4
  let n := bitsOf w 13 12 + 1
  decide (fieldAt b 0x10 4 < 2 ^ 13) && bitsOf w 31 28 == 0 && bitsOf w 7 7 == 0 && decide (fieldAt b 0x1C 4 < 2 ^ 21) &&
    fieldAt b 0x2E 2 == 0 && allZero ((b.drop 0x50).take 0x30) &&
    (pieces 32 n (b.drop 0x80)).all (fun r => decide (fieldAt r 4 4 < 2 ^ 27) && bitsOf (fieldAt r 4 4) 7 5 == 0 &&
      allZero (r.drop 0x0C)) && allZero (b.drop (0x80 + 32 * n))

/-- Check 3: ranges and alignments (01 Table 1-5). -/
def LaunchDesc.ranges (d : LaunchDesc) (img : Image) : Bool :=
  decide (d.gangs ≠ 0 ∧ d.prio ≤ 119 ∧ d.argLen ≤ 4096) &&
    d.roles.all (fun r => decide (1 ≤ r.teams ∧ r.teams ≤ 128 ∧ 8 ≤ r.vregs ∧ r.vregs ≤ 1024 ∧ r.vregs % 8 = 0 ∧
      r.entry < img.codeLen) && (decide (d.argLen = 0) || decide (r.roleArg % 8 = 0 ∧ r.roleArg < d.argLen))) &&
    (decide (d.argLen = 0) || decide (d.args.toNat % 64 = 0)) && decide (d.faultArea.toNat % 64 = 0) &&
    decide (d.status.toNat % 16 = 0)

/-- The teams of a gang. -/
def LaunchDesc.teamCount (d : LaunchDesc) : Nat := (d.roles.map (·.teams)).sum

/-- Check 4: what a gang may ask for (01 Table 1-5). -/
def LaunchDesc.sizes (d : LaunchDesc) : Bool :=
  decide (d.teamCount ≤ (if d.cluster then 128 else 32) ∧ d.gstore ≤ 256 ∧ d.ntile ≤ 32 ∧ d.tileKb ≤ 32) &&
    (d.tileKb != 0 || d.ntile == 0)

/-- The failure check 7 gives a range, if it does: no byte is read, so a recipe page off the window passes (10 R235); a walk
that meets a poisoned table gives no translation, and XLATE of the three codes (DEDUCED, log 32). -/
def rangeCode (f : FaultCode) : Option FaultCode :=
  if f = .recipeInvalid then none else if f = .poison then some .xlate else some f

/-- The first failure of a range's translation. -/
def State.rangeFail (s : State) (c : Ctx) (k : Access) (va : Word) : Nat → Nat → Option Failure
  | 0, _ => none
  | fuel + 1, n =>
    if n = 0 then none
    else
      let m := min n (65536 - va.toNat % 65536)
      let rest := s.rangeFail c k (va + BitVec.ofNat 64 m) fuel (n - m)
      match s.check c k va m 1 with
      | .error f => (match rangeCode f with
        | some x => some ⟨x, faultAddr x va⟩
        | none => rest)
      | .ok _ => rest

/-- Check 7, with the rule for a partition without an argument area (01 Table 1-5, R35). -/
def State.descRanges (s : State) (p : Nat) (d : LaunchDesc) : Option Failure :=
  let c := sysCtx p
  let fa := if d.faultArea ≠ 0 ∧ 1 ≤ d.faultLen then s.rangeFail c .store d.faultArea 2 64 else none
  let st := if d.status ≠ 0 then s.rangeFail c .store d.status 2 16 else none
  let ar := if d.argLen ≠ 0 then
      if (s.part p).argSize = 0 then some ⟨.permission, d.args⟩ else s.rangeFail c .load d.args 3 d.argLen
    else none
  fa.or (st.or ar)

/-- The checks of 01 Table 1-5 in their order: the image of a descriptor that passes, or the failure. -/
def State.checkDesc (s : State) (p : Nat) (descVa : Word) (b : List Byte) : Except Failure Image :=
  let d := parseDesc b
  let bad : Failure := ⟨.operandInvalid, descVa⟩
  if d.image.toNat % 4096 ≠ 0 then .error bad
  else match s.loadImage (sysCtx p) d.image with
    | .error f => .error (if [.xlate, .permission, .keyInvalid].contains f.code then f else bad)
    | .ok img =>
      if !(descReserved b && d.ranges img && d.sizes) then .error bad
      else if d.part ≠ p then .error ⟨.permission, descVa⟩
      else if !(s.part p).keySet.getLsbD d.keyId.toNat then .error ⟨.keyInvalid, descVa⟩
      else match s.descRanges p d with
        | some f => .error f
        | none => .ok img

/-- Reject a launch (01 R30): a record to the fault area if that is usable, else to the queue error log; the status;
DONESLOT; and the entry leaves the queue. FAULTAREA, STATUS and DONESLOT are those of the partition that owns the queue,
whatever PART says (DESIGN CHOICE, log 32: the rule does not say). -/
def State.rejectLaunch (s : State) (q : Nat) (descVa : Word) (d : LaunchDesc) (f : Failure) (wq : Option WqTake) : State :=
  let p := (s.queue q).part
  let r : FaultRec := ⟨f.code.num, 0, 2, 0, 0, p, 0, 0, descVa, f.addr, 0, s.timer, 0, 0, 0⟩
  let s1 :=
    if d.faultArea ≠ 0 ∧ d.faultArea.toNat % 64 = 0 ∧ 1 ≤ d.faultLen then
      match s.writeAll (sysCtx p) d.faultArea r.bytes with
      | (s1, none) => s1
      | (_, some _) => s.logQueue p r
    else s.logQueue p r
  let s2 := ((s1.writeStatus p d 1 1 0 f.code.num).signal p d.doneSlot d.doneVal).leaveQueue q
  match wq with
  | some t => s2.uncoverAll t
  | none => s2

/-- The waits of an entry hold (02 R51 steps 2 and 3). -/
def State.entryReady (s : State) (q : Nat) (e : LqEntry) : Bool :=
  (!e.serial || s.launches.all fun l => l.2.queue != q) &&
    (!e.waitEn || decide (e.waitVal.toNat ≤ (s.slotVal (s.queue q).part e.waitSlot).toNat))

/-- The launch of a checked descriptor; a work queue's consumer launch has as many gangs as its records need
(01 R41). -/
def State.newLaunch (s : State) (q : Nat) (e : LqEntry) (d : LaunchDesc) (img : Image) : State :=
  let x := s.queue q
  let gangs := match e.wq with
    | some t => ceilDiv t.n t.rpg
    | none => d.gangs
  let l : Launch := { Launch.absent with
    queue := q, seq := x.nextSeq, desc := { d with gangs := gangs }, descAddr := e.desc, image := img
    prio := min d.prio x.pcap, work := d.workBase, wq := e.wq }
  ({ s with launches := tset s.launches s.uids l, uids := s.uids + 1 }).modQueue q fun y =>
    { y with phase := .checked s.uids, nextSeq := y.nextSeq + 1 }

/-- LAUNCH_DESCRIPTOR_CHECK: once the waits of the entry at the head hold, its descriptor is read and checked. Its words
are read at one instant (DEDUCED, log 4: 01 R29 admits the old or the new value of each 8-byte word modified meanwhile). -/
def execLaunchDescriptorCheck (q : Nat) (s : State) : Answer :=
  .next (
    let x := s.queue q
    match x.phase with
    | .waiting e =>
      if (s.part x.part).st ≠ .running ∨ !s.entryReady q e then s
      else
        (match s.readMem (sysCtx x.part) .load e.desc 256 with
        | .error f => s.skipEntry q 2 e.desc f e.wq
        | .ok b =>
          match s.checkDesc x.part e.desc b with
          | .error f => s.rejectLaunch q e.desc (parseDesc b) f e.wq
          | .ok img => s.newLaunch q e (parseDesc b) img)
    | _ => s)

/-! ### The argument copy (01 R34, R35) -/

/-- Pages of the argument area. -/
def Part.argPages (p : Part) : Nat := p.argSize.toNat * 512

/-- The lowest run of n free pages, from page k on. -/
def freePages (used : List (Nat × Nat)) (limit n : Nat) : Nat → Nat → Option Nat
  | 0, _ => none
  | fuel + 1, k =>
    if limit < k + n then none
    else match used.find? fun a => overlaps k n a.1 a.2 with
      | some a => freePages used limit n fuel (a.1 + a.2)
      | none => some k

/-- A launch past step 4 of 02 R51 offers its gangs. -/
def State.offer (s : State) (q : Nat) (l : Nat) : State := s.modQueue q fun x => { x with phase := .placing l }

/-- The launch at a queue's head is rejected after its checks. -/
def State.dropLaunch (s : State) (q l : Nat) (f : Failure) : State :=
  let x := s.launch l
  ({ s with launches := tdel s.launches l }).rejectLaunch q x.descAddr x.desc f x.wq

/-- ARG_COPY: the launch at the head takes its pages and its copy is made under its KEYID, zero from ARGLEN to the end of
the last page; without free pages it stays. A copy that cannot be made rejects the launch, one that fails by poison or for
want of a key with that code (DESIGN CHOICE, log 32: the rule names translation and permission). It takes the lowest run
of free pages (DESIGN CHOICE, log 73: the rule asks for contiguous pages). -/
def execArgCopy (q : Nat) (s : State) : Answer :=
  .next (
    match (s.queue q).phase with
    | .checked l =>
      let x := s.launch l
      let d := x.desc
      let p := s.part d.part
      let n := ceilDiv d.argLen 4096
      if p.st ≠ .running then s
      else if n = 0 then s.offer q l
      else
        (match freePages p.args p.argPages n (p.args.length + 1) 0 with
        | none => s
        | some k =>
          let va := p.argBase + BitVec.ofNat 64 (4096 * k)
          if !s.keyOk d.part d.keyId then s.dropLaunch q l ⟨.keyInvalid, va⟩
          else match s.readMem (sysCtx d.part) .load d.args d.argLen with
            | .error f => s.dropLaunch q l f
            | .ok b =>
              match s.writeAll (keyCtx d.part d.keyId) va (b ++ List.replicate (4096 * n - d.argLen) 0) with
              | (_, some f) => s.dropLaunch q l f
              | (s1, none) =>
                ((s1.modPart d.part fun y => { y with args := y.args ++ [(k, n)] }).modLaunch l fun y =>
                  { y with argAddr := va, argPages := n }).offer q l)
    | _ => s)

/-! ### Timeline slots and work queues from the host (02 R55, 01 R37, R38, R40) -/

/-- TLSLOT_HOST_WRITE: an 8-byte write signals the slot. -/
def execTlslotHostWrite (p n : Nat) (v : BitVec 64) (s : State) : Answer :=
  .next (s.ready (if 8 ≤ p ∨ 65536 ≤ n then s else s.signal p n v))

/-- A work-queue descriptor as read; none where it is invalid (01 R38). -/
def parseWq (addr : Word) (b : List Byte) : Option WorkQueue :=
  let w := fieldAt b 8 4
  let y := fieldAt b 0x0C 4
  let f := fun (off : Nat) => BitVec.ofNat 64 (fieldAt b off 8)
  let thresh := bitsOf w 26 16
  let capLog := bitsOf w 4 0
  let rpg := bitsOf y 10 0
  let age := fieldAt b 0x10 4
  if bitsOf w 31 27 = 0 ∧ bitsOf w 15 13 = 0 ∧ bitsOf w 7 5 = 0 ∧ bitsOf y 31 26 = 0 ∧ bitsOf y 15 11 = 0 ∧
      fieldAt b 0 8 % 256 = 0 ∧ 1 ≤ thresh ∧ thresh ≤ 1024 ∧ bitsOf w 12 8 ≤ 15 ∧ 1 ≤ capLog ∧ capLog ≤ 16 ∧ 1 ≤ rpg ∧
      1 ≤ age ∧ age ≤ 2 ^ 24 ∧ fieldAt b 0x14 4 < 2 ^ 17 ∧ thresh ≤ 2 ^ capLog ∧ rpg ≤ thresh ∧
      f 0x28 = f 0x30 ∧ f 0x30 = f 0x38 ∧ fieldAt b 0x20 8 % 64 = 0 then
    some { WorkQueue.reset with
      addr := addr, desc := addr, bound := true, enable := true, store := f 0, thresh := thresh, rsize := bitsOf w 12 8, capLog := capLog
      lq := bitsOf y 25 16, rpg := rpg, ageMax := age, closeSlot := fieldAt b 0x14 2
      closeEn := bitsOf (fieldAt b 0x14 4) 16 16 == 1, closeVal := f 0x18, template := f 0x20
      freed := f 0x28, launched := f 0x30, tail := f 0x38 }
  else none

/-- The address a WQBIND write names. -/
def bindAddr (v : BitVec 64) : Word := BitVec.ofNat 64 (v.toNat / 64 * 64)

/-- WQBIND_ENABLE: the descriptor is validated and the queue opened, or ERR set. ADDR takes the write; a slot that is open
or busy keeps its binding, to the descriptor it was bound with, and a valid bind leaves ERR until a one is written to it (DESIGN CHOICE, log 14: the rule does not say). -/
def execWqbindEnable (p n : Nat) (v : BitVec 64) (s : State) : Answer :=
  .next (s.ready (
    let w := s.wq p n
    if 8 ≤ p ∨ 256 ≤ n then s
    else if w.enable ∨ w.bound then s.modWq p n fun w => { w with addr := bindAddr v, err := w.err && !v.getLsbD 1 }
    else
      let va := bindAddr v
      let new := match s.readMem (sysCtx p) .load va 64 with
        | .ok b => parseWq va b
        | .error _ => none
      match new with
      | none => s.modWq p n fun w => { w with addr := va, err := true }
      | some x => (s.modWq p n fun w => { x with err := w.err && !v.getLsbD 1 }).closeDue p))

/-- WQBIND_DISABLE: the queue closes to WQPUSH, and its remaining records are launched. -/
def execWqbindDisable (p n : Nat) (v : BitVec 64) (s : State) : Answer :=
  .next (s.ready (
    if 8 ≤ p ∨ 256 ≤ n then s
    else
      let s1 := s.modWq p n fun w => { w with
        err := w.err && !v.getLsbD 1
        addr := bindAddr v }
      if (s1.wq p n).enable then s1.closeWq p n else s1))

/-- BUSY of WQBIND: a binding that holds records or consumer gangs, or has closed and is not yet written back
(01 Table 1-8, R37). -/
def WorkQueue.busy (w : WorkQueue) : Bool :=
  w.bound && (w.unlaunched != 0 || !w.covers.isEmpty || !w.pending.isEmpty || !w.enable)

/-- WQ_CLOSE_WRITEBACK: a closed queue that has drained writes FREED, LAUNCHED and TAIL back and clears BUSY. A write-back
that fails its translation, permission or key is logged and BUSY cleared all the same (DESIGN CHOICE, log 14: the rule does
not say). -/
def execWqCloseWriteback (p n : Nat) (s : State) : Answer :=
  .next (
    let w := s.wq p n
    if w.enable || !w.bound || w.unlaunched != 0 || !w.covers.isEmpty || !w.pending.isEmpty then s
    else
      let b := natBytes w.freed.toNat 8 ++ natBytes w.launched.toNat 8 ++ natBytes w.tail.toNat 8
      (s.writeOrLog (sysCtx p) (w.desc + 0x28) b).modWq p n fun w => { w with bound := false })

/-- WQ_AGE_EXPIRY: AGEMAX ticks after the oldest unlaunched record was appended, all of them are launched (01 R40 b). -/
def execWqAgeExpiry (p n : Nat) (s : State) : Answer :=
  .next (
    let w := s.wq p n
    match w.ticks with
    | t :: _ => if t + w.ageMax ≤ s.tick ∧ w.unlaunched ≠ 0 then s.buildTake p n w.unlaunched else s
    | [] => s)

end Sys2Proof.Machine
end

