-- ==== Sys2Proof/Machine/Copy.lean ====
section
/-!
DEFINITION. Copies: CPY, CPYY and the copy engine (11 R259-R264); locks and cache control: LOCK, UNLOCK, CFLUSH, CINVRO
(10 R239, 11 R265, R266).
-/

namespace Sys2Proof.Machine

/-! ### Copy commands (11 R259, R260) -/

/-- Bytes of an element on the wide side of a copy record. -/
def copyWide (r : List Byte) : Nat := if fieldAt r 0x31 1 % 2 = 1 then 2 else 4

/-- OP of a copy record. -/
def copyOp (r : List Byte) : Nat := fieldAt r 0x30 1 % 16

/-- The source space of a copy record. -/
def copySsp (r : List Byte) : Nat := bitsOf (fieldAt r 0x30 1) 5 4

/-- The destination space of a copy record. -/
def copyDsp (r : List Byte) : Nat := bitsOf (fieldAt r 0x30 1) 7 6

/-- Bytes of an element at the source. -/
def copySize (r : List Byte) : Nat := if copyOp r = 1 then copyWide r else 1

/-- Bytes of an element at the destination. -/
def copyDsize (r : List Byte) : Nat := if copyOp r = 2 then copyWide r else 1

/-- Rows of a copy. -/
def copyRows (r : List Byte) : Nat := fieldAt r 0x2C 2 + 1

/-- Elements of a row. -/
def copyLen (r : List Byte) : Nat := fieldAt r 0x28 3

/-- A signed 32-bit stride at an offset of a record. -/
def strideAt (r : List Byte) (off : Nat) : Word := (BitVec.ofNat 32 (fieldAt r off 4)).signExtend 64

/-- The source address of row i. -/
def copySrc (r : List Byte) (i : Nat) : Word := BitVec.ofNat 64 (fieldAt r 0 8) + strideAt r 0x20 * BitVec.ofNat 64 i

/-- The destination address of row i. -/
def copyDst (r : List Byte) (i : Nat) : Word := BitVec.ofNat 64 (fieldAt r 8 8) + strideAt r 0x24 * BitVec.ofNat 64 i

/-- A record's reserved fields are 0 and its codes in range. -/
def copyFields (r : List Byte) : Bool :=
  decide (copyLen r ≠ 0) && fieldAt r 0x2B 1 == 0 && fieldAt r 0x2E 2 == 0 && decide (copyOp r < 3) && decide (copySsp r < 2) &&
    decide (copyDsp r < 2) && decide (fieldAt r 0x30 4 < 512) && fieldAt r 0x38 8 == 0

/-- The first gang-store row of one side outside the gang's span. -/
def badRow (g : Gang) (n : Nat) (at_ : Nat → Word) (rows : Nat) : Option Word :=
  ((List.range rows).find? fun i => (g.checkStore (at_ i) n 1).toOption.isNone).map at_

/-- The checks of a record at CPY, after its reading (11 R260). -/
def State.copyCheck (s : State) (r : List Byte) : Option (FaultCode × Option Word) :=
  let g := s.myGang
  let bad := fun (a : Word) (st : Word) (n : Nat) => a.toNat % n != 0 || st.toNat % n != 0
  if !copyFields r then some (.operandInvalid, none)
  else if copyOp r ≠ 0 ∧ fmtBsm s.rd.fmt = 0 then some (.operandInvalid, none)
  else if bad (copySrc r 0) (strideAt r 0x20) (copySize r) then some (.alignment, some (copySrc r 0))
  else if bad (copyDst r 0) (strideAt r 0x24) (copyDsize r) then some (.alignment, some (copyDst r 0))
  else
    let src := if copySsp r = 1 then badRow g (copyLen r * copySize r) (copySrc r) (copyRows r) else none
    let dst := if copyDsp r = 1 then badRow g (copyLen r * copyDsize r) (copyDst r) (copyRows r) else none
    match src.or dst with
    | some a => some (.gangSpan, some a)
    | none => none

/-- The ranges of virtual memory a command reaches, for its mapping (10 R238). -/
def copyRanges (fmt : BitVec 32) (r : List Byte) : List (Word × Nat) :=
  let n := copyLen r
  let nb := ceilDiv n (if fmtBsm fmt = 2 then 64 else 32)
  (List.range (copyRows r)).flatMap fun i =>
    (if copySsp r = 0 then [(copySrc r i, n * copySize r)] else []) ++
    (if copyDsp r = 0 then [(copyDst r i, n * copyDsize r)] else []) ++
    (if copyOp r = 0 then [] else
      (BitVec.ofNat 64 (fieldAt r 0x10 8 + i * nb), nb) ::
        (if fmtBsm fmt = 2 then [(BitVec.ofNat 64 (fieldAt r 0x18 8 + 2 * i), 2)] else []))

/-- CPY and CPYY: check and queue the command, which takes the next number of the team's copy timeline; CPYY makes its
continuation the team's next place (11 R259, R260, R264). -/
def State.copyIssue (s : State) (o : A3) (yields : Bool) : State :=
  s.uniC o.g fun m => s.drained m (s.uniReadIn o.b.code (s.sA o) 64 64 m fun s r =>
    match s.copyCheck r with
    | some (c, none) => s.faultB c m
    | some (c, some a) => s.fault c a m
    | none =>
      if 32 ≤ s.me.copyQ.length then s.wait .copyQueue
      else
        let n := s.me.copyNum + 1
        let target := fieldAt r 0x34 4
        let s1 := s.modMe fun t => { t with
          copyNum := n
          copyQ := t.copyQ ++ [⟨n, r, s.rd.fmt, if yields then some target else none, false, false,
            s.mapping (s.teamCtx s.issue.team) (copyRanges s.rd.fmt r), 0, []⟩] }
        let s2 := s1.putSC o.d n
        (if yields then s2.flow (.cont n target) else s2).finC)

/-- CPY. -/
def execCpy (o : A3) (s : State) : Res := .next (s.copyIssue o false)

/-- CPYY. -/
def execCpyy (o : A3) (s : State) : Res := .next (s.copyIssue o true)

/-! ### The copy engine (11 R261-R264) -/

/-- Read for a copy in a space. -/
def State.copyGet (s : State) (u sp : Nat) (va : Word) (n : Nat) : EngRead :=
  s.engResolve u (if sp = 1 then s.engGang (s.team u).gang va n else s.engGet (s.teamCtx u) .load va n)

/-- Team u's copy, if the engine at work is its copy engine, has overwritten bytes of gang g's store. -/
def State.overwrote (s : State) (u g : Nat) (va : Word) (old : List Byte) : State :=
  match s.issue.eng with
  | .copy num => s.modGang g fun x => { x with unseen := x.unseen ++ [⟨u, false, num, va.toNat, old⟩] }
  | _ => s

/-- Write for a copy in a space. -/
def State.copyPut (s : State) (u sp : Nat) (va : Word) (d : List Byte) : EngWrite :=
  let g := (s.team u).gang
  if sp = 1 then
    match s.engGangWrite g va d with
    | .done s1 => .done (s1.overwrote u g va (Memory.readBytes (s.gang g).store va.toNat d.length))
    | x => x
  else s.engWrite u va d

/-- What a copy has read in virtual memory has been read (13 R297). -/
def State.noteCopied (s : State) (u sp : Nat) (va : Word) (n : Nat) : State :=
  if sp = 1 then s else s.noteRange (s.teamCtx u) va n

/-- Go on after an engine's read. -/
def EngRead.andPut (x : EngRead) (k : List Byte → EngWrite) : EngWrite :=
  match x with
  | .ok b => k b
  | .fail f s => .fail f s
  | .wait s => .wait s

/-- Go on after an engine's write. -/
def EngWrite.andPut (x : EngWrite) (k : State → EngWrite) : EngWrite :=
  match x with
  | .done s => k s
  | .fail f s => .fail f s
  | .wait s => .wait s

/-- Runs of at most n elements. -/
def runs {α : Type} (n : Nat) (l : List α) : List (List α) := pieces' (l.length / n + 1) l
where
  /-- At most `k` runs. -/
  pieces' : Nat → List α → List (List α)
    | 0, _ => []
    | k + 1, l => if l.isEmpty then [] else l.take n :: pieces' k (l.drop n)

/-- The wide format of a copy record. -/
def copyFmt (r : List Byte) : Fmt := if copyWide r = 2 then bf16 else f32

/-- The elements of n bytes each of a byte list. -/
def elems (n : Nat) (l : List Byte) : List Nat := (runs n l).map bytesNat

/-- Block length of a scale class. -/
def blockLen (bsm : Nat) : Nat := if bsm = 2 then 64 else 32

/-- Quantise a row (11 R261, 07 R162, R163): its scales and elements. -/
def quantRow (fmt : BitVec 32) (wide : Fmt) (S : FVal) (l : List Nat) : List Byte × List Byte :=
  let bl := (runs (blockLen (fmtBsm fmt)) (l.map wide.decode)).map fun b =>
    if fmtBsm fmt = 2 then quantQB (fmtDst fmt) (fmtRm fmt) S b else quantQA (fmtDst fmt) (fmtRm fmt) b
  (bl.map fun b => BitVec.ofNat 8 b.1, bl.flatMap fun b => b.2.map (BitVec.ofNat 8))

/-- Expand a row (11 R261, 07 R164). -/
def expandRow (fmt : BitVec 32) (wide : Fmt) (S : FVal) (scales : List Nat) (l : List Nat) : List Byte :=
  let bl := (runs (blockLen (fmtBsm fmt)) l).zip scales
  bl.flatMap fun b => b.1.flatMap fun q =>
    let v := if fmtBsm fmt = 2 then scaledQB (fmtSrc fmt) S b.2 q else scaledQA (fmtSrc fmt) b.2 q
    natBytes (v.round wide (fmtRm fmt) (fmtSat fmt)) (if wide.ebits + wide.tbits = 15 then 2 else 4)

/-- Pieces within 128-byte lines of a write. -/
def linePieces (sp : Nat) (va : Word) : Nat → List Byte → List (Nat × Word × List Byte)
  | 0, _ => []
  | fuel + 1, d =>
    if d.isEmpty then []
    else
      let m := 128 - va.toNat % 128
      (sp, va, d.take m) :: linePieces sp (va + BitVec.ofNat 64 m) fuel (d.drop m)

/-- The copy of team u with a number has got on: it keeps no answer for what it does next. -/
def State.modCopy (s : State) (u : Nat) (num : Word) (f : CopyCmd → CopyCmd) : State :=
  s.modTeam u fun t =>
    { t with
      copyQ := t.copyQ.map fun c => if c.num = num then f c else c
      engRemote := t.engRemote.filter fun x => x.eng != .copy num }

/-- A row has been read: its writes are to be made. -/
def State.stage (s : State) (u : Nat) (num : Word) (l : List (Nat × Word × List Byte)) : EngWrite :=
  .done (s.modCopy u num fun c => { c with
    row := c.row + 1
    todo := l.flatMap fun w => linePieces w.1 w.2.1 (w.2.2.length / 128 + 2) w.2.2 })

/-- Read row i of a command of team u (11 R261). -/
def State.copyRow (s : State) (u : Nat) (c : CopyCmd) (i : Nat) : EngWrite :=
  let r := c.rec_
  let n := copyLen r
  let nb := ceilDiv n (blockLen (fmtBsm c.fmt))
  let scl := BitVec.ofNat 64 (fieldAt r 0x10 8 + i * nb)
  let rscl := BitVec.ofNat 64 (fieldAt r 0x18 8 + 2 * i)
  let row := fun (x : State) (k : State → FVal → EngWrite) =>
    if fmtBsm c.fmt = 2 then (s.copyGet u 0 rscl 2).andPut fun b => k (x.noteCopied u 0 rscl 2) (bf16.decode (bytesNat b))
    else k x (.fin false 1 0)
  (s.copyGet u (copySsp r) (copySrc r i) (n * copySize r)).andPut fun data =>
    let s1 := s.noteCopied u (copySsp r) (copySrc r i) (n * copySize r)
    match copyOp r with
    | 0 => s1.stage u c.num [(copyDsp r, copyDst r i, data)]
    | 1 => row s1 fun s2 S =>
        let q := quantRow c.fmt (copyFmt r) S (elems (copyWide r) data)
        s2.stage u c.num [(0, scl, q.1), (copyDsp r, copyDst r i, q.2)]
    | _ => row s1 fun s2 S => (s.copyGet u 0 scl nb).andPut fun k =>
        (s2.noteCopied u 0 scl nb).stage u c.num [(copyDsp r, copyDst r i, expandRow c.fmt (copyFmt r) S (k.map (·.toNat)) (data.map (·.toNat)))]

/-- Make the writes of the row read last, in order; those made are not made again. -/
def State.copyFlush (s : State) (u : Nat) (num : Word) : List (Nat × Word × List Byte) → EngWrite
  | [] => .done s
  | w :: r => (s.copyPut u w.1 w.2.1 w.2.2).andPut fun s1 =>
      (s1.modCopy u num fun c => { c with todo := r }).copyFlush u num r

/-- Carry a command on: the writes that are left, then up to `k` more rows from row i on. -/
def State.copyRowsFrom (s : State) (u : Nat) (c : CopyCmd) : Nat → Nat → EngWrite
  | 0, _ => .done s
  | k + 1, i => (s.copyRow u c i).andPut fun s1 =>
      (s1.copyFlush u c.num (((s1.team u).copyQ.find? fun x => x.num == c.num).map (·.todo) |>.getD [])).andPut fun s2 =>
        s2.copyRowsFrom u c k (i + 1)

/-- What is left of a command of team u. -/
def State.copyRest (s : State) (u : Nat) (c : CopyCmd) : EngWrite :=
  (s.copyFlush u c.num c.todo).andPut fun s1 => s1.copyRowsFrom u c (copyRows c.rec_ - c.row) c.row

/-- The oldest command of a copy queue that runs. -/
def Team.runningCopy (t : Team) : Option CopyCmd := t.copyQ.find? fun c => c.started && !c.done

/-- The copy timeline reaches n once commands 1 to n have completed (11 R262). -/
def Team.copyAdvance (t : Team) : Team :=
  { t with
    copyQ := t.copyQ.dropWhile (·.done)
    copyTl := (t.copyQ.takeWhile (·.done)).foldl (fun _ c => c.num) t.copyTl }

/-- A command has completed; a team parked in CPYY resumes at its continuation (11 R262, R264). -/
def State.copyDone (s : State) (u : Nat) (num : Word) : State :=
  let s1 := (s.modCopy u num fun c => { c with done := true, todo := [] }).modTeam u fun t => t.engDone (.copy num)
  let s2 := s1.modTeam u Team.copyAdvance
  let t := s2.team u
  let s2 := if t.st == .out then s2.imageWrite u 0x220 (natBytes t.copyTl.toNat 8) else s2
  if t.waits.any fun w => match w with
    | .copyNumber n _ => decide (n.toNat ≤ t.copyTl.toNat)
    | _ => false
  then s2.makeReady u else s2

/-- A command stops on a failure: it counts as completed, and the failure waits for the team's timeline wait, or for the
first bundle of its continuation, or is its gang's once the team has ended (11 R263). -/
def State.copyFail (s : State) (u : Nat) (c : CopyCmd) (f : Failure) : State :=
  let t := s.team u
  let s1 :=
    if t.ended then s.lateFault u f
    else match c.cont with
      | some _ => s.modTeam u fun t => { t with contFails := t.contFails ++ [⟨c.num, u, f⟩] }
      | none => s.modTeam u fun t => { t with copyFails := t.copyFails ++ [⟨c.num, u, f⟩] }
  s1.copyDone u c.num

/-- COPY_START: the copy engine starts the next command of a team's queue. -/
def execCopyStart (team : Nat) (s : State) : Res :=
  .next (match (s.team team).copyQ.find? fun c => !c.started && s.runs (s.gang (s.team team).gang) with
    | none => s
    | some c => s.modTeam team fun t => { t with
        copyQ := t.copyQ.map fun x => if x.num = c.num then { x with started := true } else x })

/-- COPY_COMPLETE: the oldest command that runs completes, stops on a failure, or goes on waiting for a tile or another
device. -/
def execCopyComplete (team : Nat) (s : State) : Res :=
  .next (match (s.team team).runningCopy with
    | none => s
    | some c => s.under (.copy c.num) c.old fun s =>
      match s.copyRest team c with
      | .done s1 => s1.copyDone team c.num
      | .wait s1 => s1
      | .fail f s1 => s1.copyFail team c f)

/-! ### Locks (10 R239, 11 R265) -/

/-- When ways have passed from general use to a reservation, `before` being general until now, the lines they held leave,
dirty ones written back and sealed tiles dropped (10 R225, 13 Table 13-3). Which lines the ways held the spec does not say:
every line leaves that is neither locked, of the frame exchange, nor of a tile that may not be evicted (DESIGN CHOICE,
log 71). -/
def State.yieldWays (s : State) (before : Nat) : State :=
  if s.generalWays < before then
    let s1 := s.parts.foldl (fun x q => (q.2.rtiles.map (·.1)).foldl
      (fun y n => if y.mayDrop q.1 n then y.dropTile q.1 n else y) x) s
    { s1 with ms := { s1.ms with l2 := s1.ms.l2.filter fun l => s1.lockedLines.contains l.1 || s1.target l.1 == .fx } }
  else s

/-- No slice holds more locked lines than half of its general frames (10 R226, R239). Which slice of its die a line lies in
only the device knows; a total within the limit of one slice needs no look at it. -/
def slicesHold (lines : List Nat) (limit : Nat) : Bool :=
  decide (lines.length ≤ limit) || lines.all fun l =>
    decide ((lines.filter fun k => homeOf k == homeOf l).length ≤ limit)

/-- The lines of a range with the place of each. -/
def State.rangeLines (s : State) (k : Access) (va : Word) (n : Nat) : List (Word × Except FaultCode (Loc × Leaf)) :=
  (List.range n).map fun i =>
    let a := va + BitVec.ofNat 64 (128 * i)
    (a, s.check ⟨s.myGang.part, s.issue.core, none, none⟩ k a 128 128)

/-- LOCK's lines as physical addresses, or the failure: each needs R and must lie in local HBM outside recipe pages
(11 R265; checked before its key, 10 R235). -/
def lockPlaces : List (Word × Except FaultCode (Loc × Leaf)) → Except Failure (List Nat)
  | [] => .ok []
  | (a, .error f) :: _ => .error ⟨f, faultAddr f a⟩
  | (_, .ok (.phys pa _, _)) :: r =>
    (match lockPlaces r with
    | .error f => .error f
    | .ok l => .ok (pa :: l))
  | (a, .ok _) :: _ => .error ⟨.permission, a⟩

/-- The count and address checks shared by the range operations (11 R265). -/
def State.rangeOp (s : State) (o : A3) (m : LaneMask) (k : Word → Nat → State) : State :=
  let n := (sB s.rd false o.b).toNat
  if 65536 < n then s.faultB .operandInvalid m
  else if (s.sA o).toNat % 128 ≠ 0 then s.fault .alignment (s.sA o) m
  else k (s.sA o) n

/-- LOCK: the lines come into frames, from which sealed tiles leave; while those of a slice are all pinned it waits
(10 R225, R239, 11 R265). -/
def execLock (o : A3) (s : State) : Res :=
  .next (s.uni o.g fun m => s.rangeOp o m fun va n =>
    match lockPlaces (s.rangeLines .lock va n) with
    | .error f => s.fault f.code f.addr m
    | .ok l =>
      let mine := s.myGang.locks
      let new := (l.filter fun x => !mine.contains x).eraseDups
      let quota := (s.part s.myGang.part).lockQuota.toNat
      let fits := decide (s.charged s.me.gang + new.length ≤ quota) &&
        slicesHold ((s.lockedLines ++ new).eraseDups) (s.generalWays * 512)
      if new.isEmpty || fits then
        let s1 := (new.foldl (fun x a => x.fillL2 (.phys a 0)) s).modMyGang fun g => { g with locks := g.locks ++ new }
        match s1.findFrames new with
        | some x => (x.putS o.d 0).fin
        | none => s.wait .frames
      else (s.putS o.d 1).fin)

/-- UNLOCK: lines that do not translate are not held. -/
def execUnlock (o : A3) (s : State) : Res :=
  .next (s.uni o.g fun m => s.rangeOp o m fun va n =>
    let l := (s.rangeLines .load va n).filterMap fun x => match x.2 with
      | .ok (.phys pa _, _) => some pa
      | _ => none
    (s.modMyGang fun g => { g with locks := g.locks.filter fun x => !l.contains x }).fin)

/-- CFLUSH: dirty lines are written back, and lines not locked leave the L2; pages that fail, recipe pages and lines of the
frame exchange, which are never written back, are skipped (11 R266, 13 R298, 10 R230). -/
def execCflush (o : A3) (s : State) : Res :=
  .next (s.uni o.g fun m => s.rangeOp o m fun va n =>
    let l := (s.rangeLines .load va n).filterMap fun x => match x.2 with
      | .ok (.phys pa _, _) => some pa
      | _ => none
    let held := s.lockedLines
    let l2 := l.foldl (fun c a =>
      if s.target a == .fx then c else if held.contains a then tmod c a (fun _ => false) else tdel c a) s.ms.l2
    ({ s with ms := { s.ms with l2 := l2 } }).fin)

/-- CINVRO: lines leave the cluster's sampler cache; n = 0 empties it (11 R266). -/
def execCinvro (o : A3) (s : State) : Res :=
  .next (s.uni o.g fun m =>
    let cl := s.cluster
    let put := fun (c : Table (List Byte)) => ({ s with ms := { s.ms with sampler := tset s.ms.sampler cl c } }).fin
    if sB s.rd false o.b = 0 then put []
    else s.rangeOp o m fun va n =>
      let l := (s.rangeLines .load va n).filterMap fun x => match x.2 with
        | .ok (loc, _) => some (State.lineKey s.myGang.part loc)
        | _ => none
      put (l.foldl tdel (tget [] s.ms.sampler cl)))

end Sys2Proof.Machine
end

