-- ==== Sys2Proof/Machine/MemOps.lean ====
section
/-!
DEFINITION. Loads, stores, scalar accesses, the read-only path and PREF (11 R240-R249).
-/

namespace Sys2Proof.Machine

/-! ### Addresses (11 R242) -/

/-- The uniform offset of a per-lane access. -/
def State.offS (s : State) (b : SrcB) (size : Nat) : Word :=
  match b with
  | .reg x => s.rd.sget x.toNat
  | .imm i => i.signExtend 64 * BitVec.ofNat 64 size
  | .lit sel w => (litEntry sel w).signExtend 64

/-- LD, ST, LDRO: v[A:A+1] of the lane plus the offset. -/
def State.addrV (s : State) (o : A3) (size l : Nat) : Word := s.vsrc64 o.a l + s.offS o.b size

/-- LDV, STV: s[A] plus the offset plus the lane's place. -/
def State.addrLinear (s : State) (o : A3) (size l : Nat) : Word :=
  s.sA o + s.offS o.b size + BitVec.ofNat 64 (l * size)

/-- LDGS, STGS: s[A] plus a per-lane offset, or contiguous. -/
def State.addrGang (s : State) (o : A3) (size l : Nat) : Word :=
  match o.b with
  | .reg x => s.sA o + (s.rd.vget x.toNat l).zeroExtend 64
  | _ => s.addrLinear o size l

/-- SLD, SST: the address, and whether it is a gang-store one. -/
def State.addrS (s : State) (o : A3) (size : Nat) : Word × Bool :=
  match o.b with
  | .reg x => (s.sA o + s.rd.sget x.toNat, false)
  | .imm i => (s.sA o + BitVec.ofNat 64 ((i.extractLsb' 0 5).toNat * size), i.getLsbD 5)
  | .lit sel w => (s.sA o + ((litEntry sel w).extractLsb' 0 31).zeroExtend 64, (litEntry sel w).getLsbD 31)

/-! ### Data in registers (11 R241) -/

/-- The 32-bit registers a type of `size` bytes takes. -/
def regsOf (size : Nat) : Nat := (size + 3) / 4

/-- Write loaded bytes to the lanes of a mask. -/
def State.putData (s : State) (d : BitVec 8) (size : Nat) (m : LaneMask) (f : Nat → List Byte) : State :=
  if size ≤ 4 then s.putV d m fun l => BitVec.ofNat 32 (bytesNat (f l))
  else (List.range (regsOf size)).foldl
    (fun x j => x.putReg (d.toNat + j) m fun l => BitVec.ofNat 32 (fieldAt (f l) (4 * j) 4)) s

/-- The bytes a lane stores. -/
def State.laneData (s : State) (d : BitVec 8) (size l : Nat) : List Byte :=
  if size ≤ 4 then natBytes (s.vsrc d l).toNat size
  else (List.range (regsOf size)).flatMap fun j => natBytes (s.rd.vget (d.toNat + j) l).toNat 4

/-- The result for one lane in a list of lane results. -/
def laneRes {α : Type} (d : α) (l : List (Nat × α)) (k : Nat) : α :=
  match l.find? fun x => x.1 == k with
  | some x => x.2
  | none => d

/-! ### Per-lane loads and stores (11 R243-R245) -/

/-- A load whose lanes' places are known: dropped tiles are waited for and remote lanes fetched; then it writes. -/
def State.loadAt (s : State) (d : BitVec 8) (size : Nat) (m : LaneMask) (at_ : List (Nat × LaneAt)) : State :=
  match s.missingTile at_ with
  | some t => s.parkOnTile t (lanesIn at_ t) (walked at_ size)
  | none =>
    match s.remoteLoad at_ size with
    | .wait s1 => s1
    | .fail f => s.fault f.fail.code f.fail.addr f.lanes
    | .ok =>
      let got := at_.map fun x => (x.1, s.laneBytes x.2 size)
      ((s.putData d size m (laneRes [] got)).noteLanes at_).fin

/-- A per-lane load through addresses checked by `chk`. -/
def State.loadOp (s : State) (o : A3) (size : Nat) (chk : Nat → Except Failure LaneAt) : State :=
  let m := s.effMask o.g
  if m = 0 then s.fin
  else match s.writeGate o.d with
    | .wait c => s.wait c
    | .stop c a => s.fault c a m
    | .go =>
      match checkLanes (s.active m) fun l => s.laneRead true (chk l) size with
      | .error f => s.fault f.fail.code f.fail.addr f.lanes
      | .ok at_ => s.loadAt o.d size m at_

/-- The stores of some lanes, in ascending lane order. -/
def State.laneStores (s : State) (d : BitVec 8) (size : Nat) (at_ : List (Nat × LaneAt)) : List HeldStore :=
  joinStores (at_.map fun x => ⟨x.2.loc, x.2.va, s.laneData d size x.1, false, x.2.key, 0⟩)

/-- Put stores where they wait: withheld, or, where one goes to host memory or another device, at once after the
implicit checkpoint (11 R244) and the failures due before it (18 R374). -/
def State.putStores (s : State) (at_ : List (Nat × LaneAt)) (l : List HeldStore) : State :=
  if at_.any fun x => s.isHost x.2.loc || s.isDomain x.2.loc then
    s.raised (maskOf (at_.map (·.1))) ((s.checkpointHere).storeNow l).finC
  else (s.hold l).fin

/-- A per-lane store through addresses checked by `chk`. -/
def State.storeOp (s : State) (o : A3) (size : Nat) (chk : Nat → Except Failure LaneAt) : State :=
  let m := s.effMask o.g
  if m = 0 then s.fin
  else match s.readGate m o.d with
    | .wait c => s.wait c
    | .stop c a => s.fault c a m
    | .go =>
      match checkLanes (s.active m) chk with
      | .error f => s.fault f.fail.code f.fail.addr f.lanes
      | .ok at_ => (s.noteLanes at_).putStores at_ (s.laneStores o.d size at_)

/-- LD. -/
def State.ld (s : State) (o : A3) (size : Nat) : State :=
  s.loadOp o size fun l => s.laneVirtual .load (s.addrV o size l) size

/-- ST. -/
def State.st (s : State) (o : A3) (size : Nat) : State :=
  s.storeOp o size fun l => s.laneVirtual .store (s.addrV o size l) size

/-- LDV. -/
def State.ldv (s : State) (o : A3) (size : Nat) : State :=
  s.loadOp o size fun l => s.laneVirtual .load (s.addrLinear o size l) size

/-- STV. -/
def State.stv (s : State) (o : A3) (size : Nat) : State :=
  s.storeOp o size fun l => s.laneVirtual .store (s.addrLinear o size l) size

/-- LDGS. -/
def State.ldgs (s : State) (o : A3) (size : Nat) : State :=
  s.loadOp o size fun l => s.laneGang (s.addrGang o size l) size

/-- STGS. -/
def State.stgs (s : State) (o : A3) (size : Nat) : State :=
  s.storeOp o size fun l => s.laneGang (s.addrGang o size l) size

/-- LD.b8. -/
def execLdB8 (o : A3) (s : State) : Res := .next (s.ld o 1)

/-- LD.b16. -/
def execLdB16 (o : A3) (s : State) : Res := .next (s.ld o 2)

/-- LD.b32. -/
def execLdB32 (o : A3) (s : State) : Res := .next (s.ld o 4)

/-- LD.b64. -/
def execLdB64 (o : A3) (s : State) : Res := .next (s.ld o 8)

/-- LD.b128. -/
def execLdB128 (o : A3) (s : State) : Res := .next (s.ld o 16)

/-- ST.b8. -/
def execStB8 (o : A3) (s : State) : Res := .next (s.st o 1)

/-- ST.b16. -/
def execStB16 (o : A3) (s : State) : Res := .next (s.st o 2)

/-- ST.b32. -/
def execStB32 (o : A3) (s : State) : Res := .next (s.st o 4)

/-- ST.b64. -/
def execStB64 (o : A3) (s : State) : Res := .next (s.st o 8)

/-- ST.b128. -/
def execStB128 (o : A3) (s : State) : Res := .next (s.st o 16)

/-- LDV.b32. -/
def execLdvB32 (o : A3) (s : State) : Res := .next (s.ldv o 4)

/-- LDV.b64. -/
def execLdvB64 (o : A3) (s : State) : Res := .next (s.ldv o 8)

/-- LDV.b128. -/
def execLdvB128 (o : A3) (s : State) : Res := .next (s.ldv o 16)

/-- STV.b32. -/
def execStvB32 (o : A3) (s : State) : Res := .next (s.stv o 4)

/-- STV.b64. -/
def execStvB64 (o : A3) (s : State) : Res := .next (s.stv o 8)

/-- STV.b128. -/
def execStvB128 (o : A3) (s : State) : Res := .next (s.stv o 16)

/-- LDGS.b32. -/
def execLdgsB32 (o : A3) (s : State) : Res := .next (s.ldgs o 4)

/-- LDGS.b64. -/
def execLdgsB64 (o : A3) (s : State) : Res := .next (s.ldgs o 8)

/-- LDGS.b128. -/
def execLdgsB128 (o : A3) (s : State) : Res := .next (s.ldgs o 16)

/-- STGS.b32. -/
def execStgsB32 (o : A3) (s : State) : Res := .next (s.stgs o 4)

/-- STGS.b64. -/
def execStgsB64 (o : A3) (s : State) : Res := .next (s.stgs o 8)

/-- STGS.b128. -/
def execStgsB128 (o : A3) (s : State) : Res := .next (s.stgs o 16)

/-! ### Scalar accesses (11 R246, R247) -/

/-- A uniform load of one place into s[D], zero-extended. -/
def State.scalarLoad (s : State) (d : BitVec 8) (size : Nat) (m : LaneMask) (a : LaneAt) : State :=
  match s.missingTile [(0, a)] with
  | some t => s.parkOnTile t m (walked [(0, a)] size)
  | none =>
    match s.remoteLoad [(0, a)] size with
    | .wait s1 => s1
    | .fail f => s.fault f.fail.code f.fail.addr m
    | .ok =>
      ((s.putS d (BitVec.ofNat 64 (bytesNat (s.laneBytes a size)))).noteLanes [(0, a)]).fin

/-- The place of a scalar access in either space. -/
def State.scalarAt (s : State) (k : Access) (x : Word × Bool) (size : Nat) : Except Failure LaneAt :=
  if x.2 then s.laneGang x.1 size else s.laneVirtual k x.1 size

/-- SLD. -/
def State.sld (s : State) (o : A3) (size : Nat) : State :=
  s.uni o.g fun m =>
    match s.laneRead true (s.scalarAt .load (s.addrS o size) size) size with
    | .error f => s.fault f.code f.addr m
    | .ok a => s.scalarLoad o.d size m a

/-- A uniform store of the low bytes of s[D]. -/
def State.scalarStore (s : State) (d : BitVec 8) (size : Nat) (a : LaneAt) : State :=
  (s.noteLanes [(0, a)]).putStores [(0, a)] [⟨a.loc, a.va, natBytes (s.rd.sget d.toNat).toNat size, false, a.key, 0⟩]

/-- SST. -/
def State.sst (s : State) (o : A3) (size : Nat) : State :=
  s.uni o.g fun m =>
    match s.scalarAt .store (s.addrS o size) size with
    | .error f => s.fault f.code f.addr m
    | .ok a => s.scalarStore o.d size a

/-- SLD.b32. -/
def execSldB32 (o : A3) (s : State) : Res := .next (s.sld o 4)

/-- SLD.b64. -/
def execSldB64 (o : A3) (s : State) : Res := .next (s.sld o 8)

/-- SST.b32. -/
def execSstB32 (o : A3) (s : State) : Res := .next (s.sst o 4)

/-- SST.b64. -/
def execSstB64 (o : A3) (s : State) : Res := .next (s.sst o 8)

/-- The scope of an LDA or STL reaches its address: host memory needs system, a domain-remote address domain or system
(11 R247). Scopes are numbered team to system from 0 (04 R100). -/
def State.scopeReaches (s : State) (scope : BitVec 3) (l : Loc) : Bool :=
  !(s.isHost l && decide (scope.toNat < 5)) && !(s.isDomain l && decide (scope.toNat < 4))

/-- LDA. -/
def State.lda (s : State) (o : AtomOp) (size : Nat) : State :=
  s.uni o.g fun m =>
    match s.laneVirtual .load (s.rd.sget o.a.toNat) size with
    | .error f => s.fault f.code f.addr m
    | .ok a =>
      if !s.scopeReaches o.scope a.loc then s.faultB .operandInvalid m
      else match s.laneRead true (.ok a) size with
        | .error f => s.fault f.code f.addr m
        | .ok a => s.scalarLoad o.d size m a

/-- STL. -/
def State.stl (s : State) (o : AtomOp) (size : Nat) : State :=
  s.uni o.g fun m =>
    match s.laneVirtual .store (s.rd.sget o.a.toNat) size with
    | .error f => s.fault f.code f.addr m
    | .ok a =>
      if !s.scopeReaches o.scope a.loc then s.faultB .operandInvalid m
      else s.acked o.scope.toNat (s.scalarStore o.d size a)

/-- LDA.b32. -/
def execLdaB32 (o : AtomOp) (s : State) : Res := .next (s.lda o 4)

/-- LDA.b64. -/
def execLdaB64 (o : AtomOp) (s : State) : Res := .next (s.lda o 8)

/-- STL.b32. -/
def execStlB32 (o : AtomOp) (s : State) : Res := .next (s.stl o 4)

/-- STL.b64. -/
def execStlB64 (o : AtomOp) (s : State) : Res := .next (s.stl o 8)

/-! ### The read-only path and PREF (11 R248, R249) -/

/-- The lanes' lines fill the cluster's sampler cache. -/
def State.fillLanes (s : State) (at_ : List (Nat × LaneAt)) : State :=
  at_.foldl (fun x a => x.fillSampler x.cluster x.myGang.part a.2.loc) s

/-- The key by which a lane's place is held in the sampler cache. -/
def LaneAt.cached (s : State) (a : LaneAt) (n : Nat) : List Byte := s.samplerBytes s.cluster s.myGang.part a.loc n

/-- LDRO: through the cluster's sampler cache, never forwarding the team's own stores. -/
def State.ldro (s : State) (o : A3) (size : Nat) : State :=
  let m := s.effMask o.g
  if m = 0 then s.fin
  else match s.writeGate o.d with
    | .wait c => s.wait c
    | .stop c a => s.fault c a m
    | .go =>
      match checkLanes (s.active m) fun l => s.laneCached (s.laneVirtual .readOnly (s.addrV o size l) size) size with
      | .error f => s.fault f.fail.code f.fail.addr f.lanes
      | .ok at_ =>
        match s.missingTile at_ with
        | some t => s.parkOnTile t (lanesIn at_ t) (walked at_ size)
        | none =>
          let got := at_.map fun x => (x.1, LaneAt.cached s x.2 size)
          (((s.fillLanes at_).putData o.d size m (laneRes [] got)).noteLanes at_).fin

/-- LDRO.b32. -/
def execLdroB32 (o : A3) (s : State) : Res := .next (s.ldro o 4)

/-- LDRO.b64. -/
def execLdroB64 (o : A3) (s : State) : Res := .next (s.ldro o 8)

/-- LDRO.b128. -/
def execLdroB128 (o : A3) (s : State) : Res := .next (s.ldro o 16)

/-- The lanes a PREF fills: those whose address passes every check and meets no dropped tile. -/
def State.prefLanes (s : State) (o : A3) (m : LaneMask) : List (Nat × LaneAt) :=
  let k : Access := if o.b.code = 1 then .readOnly else .load
  (s.active m).filterMap fun l =>
    match s.laneRead false (s.laneVirtual k (s.vsrc64 o.a l) 1) 1 with
    | .error _ => none
    | .ok a => if s.isRemote a.loc || (s.missingTile [(l, a)]).isSome then none else some (l, a)

/-- PREF: lines into the L2, and with selector 1 the sampler cache. -/
def execPref (o : A3) (s : State) : Res :=
  .next (
    let m := s.effMask o.g
    if m = 0 then s.fin
    else
      let at_ := s.prefLanes o m
      let s1 := s.noteLanes at_
      (if o.b.code = 1 then s1.fillLanes at_ else s1).fin)

end Sys2Proof.Machine
end

