-- ==== Sys2Proof/Machine/Rays.lean ====
section
/-!
DEFINITION. Rays (17 R344-R359): the ray instructions and the ray units' traversal.
-/

namespace Sys2Proof.Machine

/-! ### The ray instructions (17 R354-R359) -/

/-- The unfinished rays of a team, as cluster, slot and ray. -/
def State.raysOf (s : State) (u : Nat) : List (Nat × Nat × Ray) :=
  s.rays.flatMap fun c => (c.2.filter fun r => r.2.team == u).map fun r => (c.1, r.1, r.2)

/-- The address a lane's ray record has. -/
def State.rayAddr (s : State) (x : BitVec 8) (l : Nat) : Word := s.vsrc64 x l

/-- Check one lane of a RAYQ (17 R355). -/
def State.rayAt (s : State) (x : BitVec 8) (active : List Nat) (l : Nat) : Except Failure Word :=
  let a := s.rayAddr x l
  match s.check (s.teamCtx s.issue.team) .atomic a 128 128 with
  | .error f => .error ⟨f, faultAddr f a⟩
  | .ok (loc, _) =>
    let near := match loc with
      | .phys pa _ => s.target pa == .hbm || s.target pa == .fx
      | _ => true
    if !near then .error ⟨.permission, a⟩
    else if (active.any fun k => k != l && s.rayAddr x k == a) || (s.raysOf s.issue.team).any fun r => r.2.2.addr == a then
      .error ⟨.rayRecord, a⟩
    else .ok a

/-- The lowest n free slots of a ray unit. -/
def freeSlots (t : Table Ray) (n : Nat) : List Nat := ((List.range 4096).filter fun k => (tfind t k).isNone).take n

/-- Write the lanes of a mask of vector register x as a committing operation. -/
def State.putRegC (s : State) (x : Nat) (m : LaneMask) (f : Nat → Lane) : State :=
  s.modRegsC fun r => r.vput s.me.lanes x m f

/-- What RAYCAND gives a lane in register k of six. -/
def Cand.field (c : Option Cand) (k : Nat) : Lane :=
  match c with
  | none => 0
  | some c => match k with
    | 0 => c.record.extractLsb' 0 32
    | 1 => c.record.extractLsb' 32 32
    | 2 => c.uid
    | 3 => BitVec.ofNat 32 c.job
    | 4 => c.tcur.extractLsb' 0 32
    | _ => c.tcur.extractLsb' 32 32

/-- RAYCAND. -/
def execRaycand (o : A3) (s : State) : Res :=
  .next (s.uniC o.g fun m => s.notInRecipe m (s.drained m (
    if s.me.cands.isEmpty && !(s.raysOf s.issue.team).isEmpty then s.wait .candidate
    else
      let ls := s.active m
      let given := ls.zipIdx.map fun x => (x.1, s.me.cands[x.2]?)
      let of := fun (l : Nat) => (given.find? fun x => x.1 == l).bind (·.2)
      let s1 := (List.range 6).foldl (fun x k => x.putRegC (o.d.toNat + k) m fun l => Cand.field (of l) k) s
      (s1.modMe fun t => { t with cands := t.cands.drop ls.length }).finC)))

/-- Accept a hit at t (17 R348). -/
def Ray.takes (r : Ray) (t : Word) : Bool :=
  let x := f64.decode t.toNat
  let g := r.geom.getD []
  let tmin := f64.decode (fieldAt g 0x58 8)
  let cur := f64.decode r.tcur.toNat
  (match FVal.cmp x tmin with
    | some .lt => false
    | some _ => true
    | none => false) &&
  (match FVal.cmp x cur with
    | some .lt => true
    | some .eq => r.hit.isNone
    | _ => false)

/-- The ray has FIRST set. -/
def Ray.first (r : Ray) : Bool := fieldAt (r.geom.getD []) 0 1 % 2 == 1

/-- The code of a ray that ends by itself. -/
def Ray.endCode (r : Ray) : Nat := if r.hit.isSome then 1 else 0

/-- The program's decision for a paused ray (17 R358): the ray after it, and whether it ends. A logged ray logs the
decision first. -/
def Ray.acted (r : Ray) (t : Word) (mode : Nat) : Ray × Bool :=
  let uid := r.paused.getD 0
  let yes := mode ≠ 0 && r.takes t
  let r1 := { r with paused := none }
  let r2 := if yes then { r1 with tcur := t, hit := some (uid, t, 0, 0) } else r1
  let ends := mode == 2 || (yes && r.first)
  if r.log || (r.replay && !r.diverged) then ({ r2 with stack := .decided r.pausedAt yes ends :: r2.stack }, false)
  else (r2, ends)

/-- Change the ray of a slot. -/
def State.modRay (s : State) (cl slot : Nat) (f : Ray → Ray) : State :=
  { s with rays := tset s.rays cl (tmod (tget [] s.rays cl) slot f) }

/-- RAYACC. -/
def execRayacc (o : A3) (s : State) : Res :=
  .next (s.uniC o.g fun m => s.notInRecipe m (s.drained m (
    let rays := s.raysOf s.issue.team
    let named := fun (l : Nat) => rays.find? fun r => r.2.2.addr == s.rayAddr o.a l && r.2.2.paused.isSome
    match checkLanes (s.active m) fun l => match named l with
      | some r => .ok r
      | none => .error ⟨.rayRecord, s.rayAddr o.a l⟩ with
    | .error f => s.fault f.fail.code f.fail.addr f.lanes
    | .ok at_ =>
      (at_.foldl (fun x r =>
        match tfind (tget [] x.rays r.2.1) r.2.2.1 with
        | none => x
        | some ray =>
          if ray.paused.isNone then x
          else
            let y := ray.acted (s.vsrc64 o.d r.1) o.b.code
            let x1 := (x.modRay r.2.1 r.2.2.1 fun _ => y.1).modMe fun t =>
              { t with cands := t.cands.filter fun k => k.record != ray.addr }
            if y.2 then x1.endRay r.2.1 r.2.2.1 y.1.endCode else x1) s).finC)))

/-- RAYFIN: each ray that the lanes name ends, and its candidate leaves the queue (17 R359). -/
def execRayfin (o : A3) (s : State) : Res :=
  .next (s.uniC o.g fun m => s.notInRecipe m (s.drained m
    (((s.active m).foldl (fun x l =>
      match (x.raysOf s.issue.team).find? fun r => r.2.2.addr == s.rayAddr o.a l with
      | some r => (x.endRay r.1 r.2.1 2).modMe fun t => { t with cands := t.cands.filter fun k => k.record != r.2.2.addr }
      | none => x) s).finC)))

/-! ### Geometry (17 R344-R349) -/

/-- The format a ray computes in. -/
def Ray.fmt (r : Ray) : Fmt := if r.wide then f64 else f32

/-- RoundTo(P, RNE) of an exact value, as a value. -/
def rdIn (f : Fmt) (x : FVal) : FVal := f.decode (x.round f .rne false)

/-- A quotient rounded to P, as a value. -/
def divIn (f : Fmt) (mode : RMode) (a b : FVal) : FVal := f.decode (FVal.divBits f mode a b)

/-- A ray record with its geometry in binary64, the form a ray keeps. -/
def wideRecord (wide : Bool) (b : List Byte) : List Byte :=
  if wide then b
  else b.take 0x40 ++ (List.range 8).flatMap fun k =>
    natBytes ((f32.decode (fieldAt b (0x40 + 4 * k) 4)).round f64 .rne false) 8

/-- Component k of the geometry: O, TMIN, D, TMAX. -/
def geomAt (g : List Byte) (k : Nat) : FVal := f64.decode (fieldAt g (0x40 + 8 * k) 8)

/-- a < b, for numbers. -/
def FVal.lt (a b : FVal) : Bool := FVal.cmp a b == some .lt

/-- a ≤ b, for numbers. -/
def FVal.le (a b : FVal) : Bool := FVal.cmp a b == some .lt || FVal.cmp a b == some .eq

/-- A value is finite. -/
def FVal.finite : FVal → Bool
  | .fin _ _ _ => true
  | _ => false

/-- A ray record as read is well-formed (17 R346). -/
def rayOk (wide logs : Bool) (raw g : List Byte) : Bool :=
  decide (fieldAt raw 0 4 < 16) && fieldAt raw 0x18 8 == 0 && (wide || (raw.drop 0x60).all (· == 0)) &&
    ((List.range 7).all fun k => (geomAt g k).finite) &&
    ((geomAt g 7).finite || match geomAt g 7 with | .inf n => !n | _ => false) &&
    !((geomAt g 4).isZero && (geomAt g 5).isZero && (geomAt g 6).isZero) &&
    FVal.le (.fin false 0 0) (geomAt g 3) && FVal.le (geomAt g 3) (geomAt g 7) &&
    fieldAt raw 0x10 8 % 128 == 0 && (!logs || fieldAt raw 0x08 8 % 16 == 0)

/-- A box node is well-formed (17 Table 17-1). -/
def boxOk (b : List Byte) : Bool :=
  fieldAt b 0x0F 1 == 0 && fieldAt b 0x10 8 % 128 == 0 && ((b.drop 0x22).take 14).all (· == 0) &&
    (List.range 3).all fun a => (f32.decode (fieldAt b (4 * a) 4)).finite

/-- A bound of child i on axis a of a box node. -/
def boxBound (b : List Byte) (i a : Nat) (hi : Bool) : FVal :=
  let q := fieldAt b (0x30 + 6 * i + a + (if hi then 3 else 0)) 1
  FVal.add false (f32.decode (fieldAt b (4 * a) 4)) (.fin false q ((fieldAt b (0x0C + a) 1 : Int) - 127))

/-- The larger of two values, for numbers. -/
def FVal.most (a b : FVal) : FVal := if FVal.lt a b then b else a

/-- The smaller of two values. -/
def FVal.least (a b : FVal) : FVal := if FVal.lt b a then b else a

/-- Near and far of one axis, rounded outwards; none where a ray parallel to the axis lies outside (17 R347). -/
def slab (f : Fmt) (o d lo hi : FVal) : Option (FVal × FVal) :=
  if d.isZero then (if FVal.le lo o && FVal.le o hi then some (.inf true, .inf false) else none)
  else
    let l := FVal.add false lo o.neg
    let h := FVal.add false hi o.neg
    if d.isNeg then some (divIn f .rdn h d, divIn f .rup l d) else some (divIn f .rdn l d, divIn f .rup h d)

/-- tnear of child i of a box node, if the ray hits it (17 R347). -/
def Ray.hitsBox (r : Ray) (b : List Byte) (i : Nat) : Option FVal :=
  let g := r.geom.getD []
  let inside := (List.range 3).all fun a => decide (fieldAt b (0x30 + 6 * i + a) 1 ≤ fieldAt b (0x33 + 6 * i + a) 1)
  let s := (List.range 3).map fun a => slab r.fmt (geomAt g a) (geomAt g (4 + a)) (boxBound b i a false) (boxBound b i a true)
  if !inside || s.any (·.isNone) then none
  else
    let near := s.foldl (fun x y => match y with | some p => FVal.most x p.1 | none => x) (.inf true)
    let far := s.foldl (fun x y => match y with | some p => FVal.least x p.2 | none => x) (.inf false)
    if FVal.le near far && FVal.le (geomAt g 3) far && FVal.le near (f64.decode r.tcur.toNat) then some near else none

/-- Put a child among those already ordered, by tnear and then index. -/
def insertNear (x : Nat × FVal) : List (Nat × FVal) → List (Nat × FVal)
  | [] => [x]
  | y :: r => if FVal.lt x.2 y.2 then x :: y :: r else y :: insertNear x r

/-- The type of child i of a box node. -/
def childType (b : List Byte) (i : Nat) : Nat := bitsOf (fieldAt b 0x20 2) (2 * i + 1) (2 * i)

/-- The children of a box node a ray visits, in order (17 R347, R348, R350). -/
def Ray.visits (r : Ray) (b : List Byte) : List (Nat × FVal) :=
  let noUser := fieldAt (r.geom.getD []) 0 1 / 8 % 2 == 1
  ((List.range 8).filterMap fun i =>
    let ty := childType b i
    if ty = 0 ∨ (ty = 3 ∧ noUser) then none else (r.hitsBox b i).map fun t => (i, t)).foldl
      (fun l x => insertNear x l) []

/-- The bits of tnear, in binary64. -/
def nearBits (t : FVal) : Word := BitVec.ofNat 64 (t.round f64 .rne false)

/-- The work a child makes; `at_` is the node's address. -/
def childWork (b : List Byte) (at_ : Word) (x : Nat × FVal) : RayWork :=
  let a := BitVec.ofNat 64 (fieldAt b 0x10 8 + 128 * fieldAt b (0x18 + x.1) 1)
  match childType b x.1 with
  | 1 => .node a (nearBits x.2)
  | 2 => .block a (nearBits x.2)
  | _ => .user (BitVec.ofNat 32 (fieldAt b (0x60 + 4 * x.1) 4)) at_ (nearBits x.2)

/-- The ranges of virtual memory that a tree reaches from some work, as memory holds it now, none where a node must be waited
for; the first argument counts the look-ups left, `seen` the nodes looked at. -/
def State.treeRanges (s : State) (c : Ctx) : Nat → List Word → List RayWork → Option (List (Word × Nat))
  | 0, _, _ => some []
  | _, _, [] => some []
  | k + 1, seen, w :: r =>
    match w with
    | .node a _ =>
      if seen.contains a then s.treeRanges c k seen r
      else (match s.engGet c .load a 128 with
        | .ok b =>
          let kids := (List.range 8).filter fun i => childType b i == 1 || childType b i == 2
          s.treeRanges c k (a :: seen) ((if boxOk b then kids.map fun i => childWork b a (i, .inf true) else []) ++ r)
        | .fail _ => s.treeRanges c k (a :: seen) r
        | _ => none).map ((a, 128) :: ·)
    | .block a _ => (s.treeRanges c k seen r).map ((a, 256) :: ·)
    | _ => s.treeRanges c k seen r

/-- The mapping of a ray issued now (10 R238): of its record, of its log where it uses one, and of its tree: a virtual
address space has 2^64 addresses of nodes, each with at most 8 children. Where a record or node must be waited for it is the
whole of the partition's. -/
def State.rayMapping (s : State) (a : Word) (flags : Nat) : Mapping :=
  let c := s.teamCtx s.issue.team
  match s.engGet c .load a 128 with
  | .ok raw =>
    (match s.treeRanges c (2 ^ 68) [] [.node (BitVec.ofNat 64 (fieldAt raw 0x10 8)) 0] with
    | some l => s.mapping c (((a, 128) ::
        if flags % 4 = 0 then [] else [(BitVec.ofNat 64 (fieldAt raw 8 8), 16 * fieldAt raw 4 4 + 16)]) ++ l)
    | none => s.allPages c)
  | .fail _ => s.mapping c [(a, 128)]
  | _ => s.allPages c

/-- A triangle block is well-formed (17 R345). -/
def blockOk (b : List Byte) : Bool :=
  let w := fieldAt b 0 4
  decide (1 ≤ w ∧ w ≤ 4) && ((b.drop 4).take 12).all (· == 0) && (b.drop 0xB0).all (· == 0)

/-- Vertex k of triangle i of a block, component c. -/
def vertexAt (b : List Byte) (i k c : Nat) : FVal := f32.decode (fieldAt b (0x20 + 36 * i + 12 * k + 4 * c) 4)

/-- Vertex j precedes vertex k lexicographically (17 R349). -/
def precedes (b : List Byte) (i j k : Nat) : Bool :=
  let c := fun (a : Nat) => FVal.cmp (vertexAt b i j a) (vertexAt b i k a)
  if c 0 == some .eq then (if c 1 == some .eq then c 2 == some .lt else c 1 == some .lt) else c 0 == some .lt

/-- Products a·b − c·d, rounded in a format. -/
def crossIn (f : Fmt) (a b c d : FVal) : FVal := rdIn f (FVal.add false (FVal.mul a b) (FVal.mul c d).neg)

/-- The shear axes of a direction: kx, ky, kz. -/
def shearAxes (g : List Byte) : Nat × Nat × Nat :=
  let mag := fun (k : Nat) => match geomAt g (4 + k) with
    | .fin _ n e => FVal.fin false n e
    | x => x
  let z := if FVal.lt (mag 0) (mag 1) then (if FVal.lt (mag 1) (mag 2) then 2 else 1)
    else (if FVal.lt (mag 0) (mag 2) then 2 else 0)
  let x := (z + 1) % 3
  let y := (x + 1) % 3
  if (geomAt g (4 + z)).isNeg then (y, x, z) else (x, y, z)

/-- The sheared vertices of a triangle: x, y, z of A, B, C (17 R349). -/
def shearTri (f : Fmt) (g b : List Byte) (i : Nat) : List (FVal × FVal × FVal) :=
  let (kx, ky, kz) := shearAxes g
  let dz := geomAt g (4 + kz)
  let sx := divIn f .rne (geomAt g (4 + kx)) dz
  let sy := divIn f .rne (geomAt g (4 + ky)) dz
  let sz := divIn f .rne (.fin false 1 0) dz
  (List.range 3).map fun v =>
    let t := fun (c : Nat) => rdIn f (FVal.add false (vertexAt b i v c) (geomAt g c).neg)
    (rdIn f (FVal.add false (t kx) (FVal.mul sx (t kz)).neg), rdIn f (FVal.add false (t ky) (FVal.mul sy (t kz)).neg),
      rdIn f (FVal.mul sz (t kz)))

/-- U, V and W of a sheared triangle in a format. -/
def edgesIn (f : Fmt) (p : List (FVal × FVal × FVal)) : FVal × FVal × FVal :=
  let a := p.getD 0 (.nan, .nan, .nan)
  let b := p.getD 1 (.nan, .nan, .nan)
  let c := p.getD 2 (.nan, .nan, .nan)
  (crossIn f c.1 b.2.1 c.2.1 b.1, crossIn f a.1 c.2.1 a.2.1 c.1, crossIn f b.1 a.2.1 b.2.1 a.1)

/-- The triangle test (17 R349): t, u and v as binary64 bits. A quotient that is exactly 0 is +0, as the rule's example
gives V (DEDUCED, log 69). -/
def Ray.hitsTri (r : Ray) (b : List Byte) (i : Nat) : Option (Word × Word × Word) :=
  let g := r.geom.getD []
  let f := r.fmt
  let p := shearTri f g b i
  let e0 := edgesIn f p
  let (u, v, w) := if !r.wide && (e0.1.isZero || e0.2.1.isZero || e0.2.2.isZero) then edgesIn f64 p else e0
  let es := [(u, precedes b i 1 2), (v, precedes b i 2 0), (w, precedes b i 0 1)]
  let live := es.filter fun x => !x.1.isZero
  let det := FVal.add false (FVal.add false u v) w
  if !(u.finite && v.finite && w.finite) || live.isEmpty || (live.any fun x => x.1.isNeg) && (live.any fun x => !x.1.isNeg) ||
      (es.any fun x => x.1.isZero && !x.2) || det.isZero then none
  else
    let flags := fieldAt g 0 1
    if (!det.isNeg && flags / 4 % 2 == 1) || (det.isNeg && flags / 2 % 2 == 1) then none
    else
      let z := fun (k : Nat) => (p.getD k (.nan, .nan, .nan)).2.2
      let num := FVal.add false (FVal.add false (FVal.mul u (z 0)) (FVal.mul v (z 1))) (FVal.mul w (z 2))
      let out := fun (x : FVal) => if x.isZero then 0 else
        BitVec.ofNat 64 ((f.decode (FVal.divBits f .rne x det)).round f64 .rne false)
      some (out num, out v, out w)

/-- Test the triangles of a block from index i: the ray, the triangles that passed, and whether it ends (17 R348). -/
def Ray.testTris (r : Ray) (b : List Byte) : Nat → Nat → Nat → Ray × Nat × Bool
  | 0, _, hits => (r, hits, false)
  | k + 1, i, hits =>
    match r.hitsTri b i with
    | none => r.testTris b k (i + 1) hits
    | some (t, u, v) =>
      let h := hits + 2 ^ i
      if r.takes t then
        let r1 := { r with tcur := t, hit := some (BitVec.ofNat 32 (fieldAt b (0x10 + 4 * i) 4), t, u, v) }
        if r.first then (r1, h, true) else r1.testTris b k (i + 1) h
      else r.testTris b k (i + 1) h

/-! ### Log and replay (17 R351, R352) -/

/-- A log record: its address word and its second word. -/
def logBytes (addr : Word) (w : Nat) : List Byte := natBytes addr.toNat 8 ++ natBytes w 8

/-- The second word of a log record without divergence. -/
def logWord (kind hit : Nat) (order : List Nat) : Nat :=
  hit + ((order.zipIdx.map fun x => x.1 * 2 ^ (8 + 3 * x.2)).sum) + kind * 2 ^ 32

/-- What logging comes to: the ray goes on, ends with a code, or waits. -/
inductive RayLog where
  | go (s : State) (r : Ray)
  | ends (s : State) (r : Ray) (code : Nat)
  | wait (s : State)

/-- The log address of record i. -/
def Ray.logAt (r : Ray) (i : Nat) : Word := BitVec.ofNat 64 (fieldAt (r.geom.getD []) 8 8 + 16 * i)

/-- The log capacity. -/
def Ray.logCap (r : Ray) : Nat := fieldAt (r.geom.getD []) 4 4

/-- Replay has found the mismatch at record i (17 R352). -/
def State.rayDiverge (s : State) (r : Ray) (addr : Word) (w : Nat) : RayLog :=
  match s.engWrite r.team (r.logAt r.logCap) (logBytes addr (w + 2 ^ 39 + r.logIdx % 2 ^ 24 * 2 ^ 40)) with
  | .wait s1 => .wait s1
  | .fail f s1 => .ends s1 r f.code.num
  | .done s1 => if r.free then .go s1 { r with diverged := true } else .ends s1 r 0x51

/-- Log, or compare in replay, the record a ray makes (17 R352). -/
def State.rayLog (s : State) (r : Ray) (addr : Word) (w : Nat) : RayLog :=
  if r.log then
    if r.logN < r.logCap then
      match s.engWrite r.team (r.logAt r.logN) (logBytes addr w) with
      | .wait s1 => .wait s1
      | .fail f s1 => .ends s1 r f.code.num
      | .done s1 => .go s1 { r with logN := r.logN + 1 }
    else .go s { r with logOvf := true }
  else if r.replay && !r.diverged then
    if r.logIdx < r.logCap then
      match s.engResolve r.team (s.engGet (s.teamCtx r.team) .load (r.logAt r.logIdx) 16) with
      | .wait s1 => .wait s1
      | .fail f s1 => .ends s1 r f.code.num
      | .ok b =>
        if fieldAt b 0 8 = addr.toNat ∧ bitsOf (fieldAt b 8 8) 35 0 = w then
          .go (s.noteRange (s.teamCtx r.team) (r.logAt r.logIdx) 16) { r with logN := r.logN + 1, logIdx := r.logIdx + 1 }
        else s.rayDiverge r addr w
    else s.rayDiverge r addr w
  else .go s r

/-! ### RAYQ (17 R354-R356) -/

/-- RAYQ and RAYQD: one job of one ray per active lane. -/
def State.rayIssue (s : State) (o : A3) (wide : Bool) : State :=
  s.uniC o.g fun m => s.notInRecipe m (s.drained m (
    let ls := s.active m
    match checkLanes ls (s.rayAt o.a ls) with
    | .error f => s.fault f.fail.code f.fail.addr f.lanes
    | .ok at_ =>
      let unit := tget [] s.rays s.cluster
      if 4096 < unit.length + at_.length then s.wait .raySlots
      else
        let num := s.myGang.rayNum + 1
        let fl := o.b.code
        let new : Word → Ray := fun a =>
          ⟨s.me.gang, s.issue.team, num.toNat, a, wide, fl % 2 == 1, fl / 2 % 2 == 1, fl / 4 % 2 == 1, none, [], 0, none, 0, 0,
            false, false, none, 0, s.rayMapping a fl, none⟩
        let full := ((freeSlots unit at_.length).zip at_).foldl (fun t x => tset t x.1 (new x.2.2)) unit
        let s1 := { s with rays := tset s.rays s.cluster full }
        ((s1.modMyGang fun g =>
          { g with rayNum := num, rayJobs := g.rayJobs ++ [⟨num, s.issue.team, at_.length⟩] }).putSC o.d num).finC))

/-- RAYQ. -/
def execRayq (o : A3) (s : State) : Res := .next (s.rayIssue o false)

/-- RAYQD. -/
def execRayqd (o : A3) (s : State) : Res := .next (s.rayIssue o true)

/-! ### Traversal (17 R346, R348, R350) -/

/-- A ray goes on after its log, or ends. -/
def afterLog (cl slot : Nat) (x : RayLog) (ends : Option Nat) : State :=
  match x with
  | .wait s1 => s1
  | .ends s1 r code => (s1.modRay cl slot fun _ => r).endRay cl slot code
  | .go s1 r =>
    let s2 := s1.modRay cl slot fun _ => r
    match ends with
    | some code => s2.endRay cl slot code
    | none => s2

/-- A node or block could not be read: the ray ends with the code, and poison leaves a record (17 R353). -/
def State.rayFetchFail (s : State) (cl slot : Nat) (r : Ray) (f : Failure) : State :=
  let s1 := if f.code = .poison then s.engineRecord r.gang r.team false f.code.num f.addr f.addr else s
  s1.endRay cl slot f.code.num

/-- A ray that ends writes its hit block, once it can; a record that cannot be written makes a fault record of its gang
(17 R346, R353). -/
def State.closeRay (s : State) (cl slot : Nat) (r : Ray) (code : Nat) : State :=
  match s.engWrite r.team (r.addr + 0x20) (r.hitBlock code) with
  | .wait s1 => s1
  | .done s1 => s1.finishRay cl slot r
  | .fail f s1 => (s1.engineRecord r.gang r.team true f.code.num r.addr f.addr).finishRay cl slot r

/-- The ray starts: its record is read once (17 R346), also for a ray that RAYFIN has ended before. -/
def State.rayStart (s : State) (cl slot : Nat) (r : Ray) : State :=
  match s.engResolve r.team (s.engGet ⟨(s.gang r.gang).part, cl * 4, some r.team, none⟩ .load r.addr 128) with
  | .wait s1 => s1
  | .fail f s1 => (s1.engineRecord r.gang r.team true f.code.num r.addr f.addr).finishRay cl slot r
  | .ok raw =>
    let g := wideRecord r.wide raw
    let r1 := { r with
      geom := some g
      tcur := BitVec.ofNat 64 (fieldAt g 0x78 8)
      stack := [.node (BitVec.ofNat 64 (fieldAt raw 0x10 8)) (nearBits (.inf true))] }
    let s1 := (s.noteRange (s.teamCtx r.team) r.addr 128).modRay cl slot fun _ => r1
    if rayOk r.wide (r.log || r.replay) raw g then s1 else s1.endRay cl slot 0x50

/-- One item of a ray's work. -/
def State.rayStep (s : State) (cl slot : Nat) (r : Ray) (w : RayWork) (rest : List RayWork) : State :=
  let c : Ctx := ⟨(s.gang r.gang).part, cl * 4, some r.team, none⟩
  let skip := fun (t : Word) => !FVal.le (f64.decode t.toNat) (f64.decode r.tcur.toNat)
  let r0 := { r with stack := rest }
  match w with
  | .decided addr yes ends =>
    afterLog cl slot (s.rayLog r0 addr (logWord 2 (if yes then 1 else 0) [])) (if ends then some r0.endCode else none)
  | .user uid addr t =>
    if skip t then s.modRay cl slot fun _ => r0
    else (s.modRay cl slot fun _ => { r0 with paused := some uid, pausedAt := addr }).modTeam r.team fun x =>
      { x with cands := x.cands ++ [⟨r.addr, uid, r.job, r.tcur⟩] }
  | .node a t =>
    if skip t then s.modRay cl slot fun _ => r0
    else
      (match s.engResolve r.team (s.engGet c .load a 128) with
      | .wait s1 => s1
      | .fail f s1 => s1.rayFetchFail cl slot r f
      | .ok b =>
        if !boxOk b then s.endRay cl slot 0x50
        else
          let v := r.visits b
          let r1 := { r with stack := v.map (childWork b a) ++ rest }
          afterLog cl slot ((s.noteRange c a 128).rayLog r1 a (logWord 0 ((v.map fun x => 2 ^ x.1).sum) (v.map (·.1)))) none)
  | .block a t =>
    if skip t then s.modRay cl slot fun _ => r0
    else
      (match s.engResolve r.team (s.engGet c .load a 256) with
      | .wait s1 => s1
      | .fail f s1 => s1.rayFetchFail cl slot r f
      | .ok b =>
        if !blockOk b then s.endRay cl slot 0x50
        else
          let x := r0.testTris b (fieldAt b 0 4) 0 0
          afterLog cl slot ((s.noteRange c a 256).rayLog x.1 a (logWord 1 x.2.1 [])) (if x.2.2 then some x.1.endCode else none))

/-- RAY_TRAVERSAL: a ray slot advances: it starts, handles one item of work, ends, or writes its hit block; a paused ray
stays. -/
def execRayTraversal (cluster slot : Nat) (s : State) : Res :=
  .next (match tfind (tget [] s.rays cluster) slot with
    | none => s
    | some r => s.under (.ray cluster slot) r.old fun s =>
      if r.paused.isSome then s
      else if r.geom.isNone then s.rayStart cluster slot r
      else match r.ending, r.stack with
        | some code, _ => s.closeRay cluster slot r code
        | none, w :: rest => s.rayStep cluster slot r w rest
        | none, [] =>
          if r.replay && !r.diverged && decide (r.logIdx < r.logCap) then
            afterLog cluster slot (s.rayLog r 0 (logWord 3 0 [])) (some r.endCode)
          else s.endRay cluster slot r.endCode)

end Sys2Proof.Machine
end

