-- ==== Sys2Proof/Machine/Render.lean ====
section
/-!
DEFINITION. Splats (17 R360-R364) and samplers (17 R365-R367).
-/

namespace Sys2Proof.Machine

/-- RoundTo(binary32, RNE) as bits. -/
def rd32 (x : FVal) : Nat := x.round f32 .rne false

/-- RoundTo(binary32, RNE) as a value. -/
def rdf (x : FVal) : FVal := rdIn f32 x

/-! ### The splat instructions (17 R363) -/

/-- SPLATQ: at most 64 lists wait. -/
def execSplatq (o : A3) (s : State) : Res :=
  .next (s.uni o.g fun m => s.notInRecipe m (
    let n := (sB s.rd false o.b).toNat
    if n = 0 ∨ 16777215 < n then s.faultB .operandInvalid m
    else if (s.sA o).toNat % 32 ≠ 0 then s.fault .alignment (s.sA o) m
    else if 64 ≤ s.me.regs.splats.length then (s.putS o.d 1).fin
    else ((s.modRegs fun r => { r with splats := r.splats ++ [⟨s.sA o, n⟩] }).putS o.d 0).fin))

/-- The checks of a frame descriptor (17 R361). -/
def frameCheck (b : List Byte) : Option (FaultCode × Option Word) :=
  let w := fieldAt b 0x20 2
  let h := fieldAt b 0x22 2
  let thr := f32.decode (fieldAt b 0x24 4)
  let bad := fun (off al : Nat) => fieldAt b off 8 % al != 0
  if w = 0 ∨ 16384 < w ∨ h = 0 ∨ 16384 < h ∨ fieldAt b 0x34 4 < w ∨
      !(FVal.lt (.fin false 0 0) thr && FVal.le thr (.fin false 1 0)) then some (.operandInvalid, none)
  else if bad 0 32 then some (.alignment, some (BitVec.ofNat 64 (fieldAt b 0 8)))
  else if bad 8 8 then some (.alignment, some (BitVec.ofNat 64 (fieldAt b 8 8)))
  else if bad 0x10 4 then some (.alignment, some (BitVec.ofNat 64 (fieldAt b 0x10 8)))
  else if bad 0x18 4 then some (.alignment, some (BitVec.ofNat 64 (fieldAt b 0x18 8)))
  else if bad 0x38 16 then some (.alignment, some (BitVec.ofNat 64 (fieldAt b 0x38 8)))
  else none

/-- The mapping of a splat job issued now (10 R238): its lists, the features its records name, its surfaces row by row and
its status; where a list must be waited for, the whole of the partition's. -/
def State.splatMapping (s : State) (b : List Byte) (lists : List SplatList) : Mapping :=
  let c := s.teamCtx s.issue.team
  let got := lists.map fun l => s.engGet c .load l.addr (32 * l.count)
  let recs := got.flatMap fun x => match x with
    | .ok r => Sys2Proof.Machine.runs 32 r
    | _ => []
  let waits := got.any fun x => match x with
    | .tile _ => true
    | .remote _ _ _ => true
    | _ => false
  let surf := fun (off size : Nat) => (List.range (fieldAt b 0x22 2)).map fun y =>
    (BitVec.ofNat 64 (fieldAt b off 8 + y * fieldAt b 0x34 4 * size), fieldAt b 0x20 2 * size)
  if waits then s.allPages c
  else s.mapping c ((lists.map fun l => (l.addr, 32 * l.count)) ++
    (recs.map fun r => (BitVec.ofNat 64 (fieldAt b 0 8 + 32 * fieldAt r 0x1C 4), 32)) ++
    surf 8 8 ++ surf 0x10 4 ++ surf 0x18 4 ++ [(BitVec.ofNat 64 (fieldAt b 0x38 8), 16)])

/-- SPLATRUN: a job over the pending lists enters the splat unit of the die. -/
def execSplatrun (o : A3) (s : State) : Res :=
  .next (s.uniC o.g fun m => s.notInRecipe m (s.drained m (s.uniReadIn 0 (s.sA o) 64 64 m fun s b =>
    match frameCheck b with
    | some (c, none) => s.faultB c m
    | some (c, some a) => s.fault c a m
    | none =>
      let num := s.myGang.splatNum + 1
      let die := s.issue.core / 96
      let job : SplatJob := ⟨s.me.gang, s.issue.team, num, s.sA o, b, s.rd.splats, false, s.splatMapping b s.rd.splats, none⟩
      let s1 := { s with splats := tset s.splats die (tget [] s.splats die ++ [job]) }
      let s2 := s1.modMyGang fun g => { g with splatNum := num, splatJobs := g.splatJobs ++ [⟨num, s.issue.team, 1⟩] }
      ((s2.modRegsC fun r => { r with splats := [] }).putSC o.d num).finC)))

/-! ### The splat units (17 R360-R364) -/

/-- A splat record as read: its fields as values, DEPTH and FEAT. -/
structure Splat where
  cx : FVal
  cy : FVal
  qa : FVal
  qb : FVal
  qc : FVal
  depth : Nat
  opacity : FVal
  feat : Nat

/-- Read a record's 32 bytes; none where it is skipped (17 R360). -/
def parseSplat (b : List Byte) : Option Splat :=
  let f := fun (k : Nat) => f32.decode (fieldAt b k 4)
  let x : Splat := ⟨f 0, f 4, f 8, f 0x0C, f 0x10, fieldAt b 0x14 4, f 0x18, fieldAt b 0x1C 4⟩
  let zero : FVal := .fin false 0 0
  let det := FVal.add false (FVal.mul x.qa x.qc) (FVal.mul x.qb x.qb).neg
  if x.cx.finite && x.cy.finite && x.qa.finite && x.qb.finite && x.qc.finite && x.opacity.finite &&
      FVal.lt zero x.qa && FVal.lt zero x.qc && FVal.lt zero det && FVal.le zero x.opacity &&
      FVal.le x.opacity (.fin false 1 0) then some x
  else none

/-- Put a record behind those that are not deeper (17 R362: stable). -/
def insertSplat (x : Splat) : List Splat → List Splat
  | [] => [x]
  | y :: r => if x.depth < y.depth then x :: y :: r else y :: insertSplat x r

/-- α of a record at a pixel (17 R362); none where the bound applies, α being 0.99, which no binary number is. -/
def Splat.alpha (s : Splat) (x y : Nat) : Option FVal :=
  let half := fun (n : Nat) => FVal.fin false (2 * n + 1) (-1)
  let dx := rdf (FVal.add false (half x) s.cx.neg)
  let dy := rdf (FVal.add false (half y) s.cy.neg)
  let two : FVal := .fin false 2 0
  let q := FVal.add false (FVal.add false (FVal.mul s.qa (FVal.mul dx dx)) (FVal.mul two (FVal.mul s.qb (FVal.mul dx dy))))
    (FVal.mul s.qc (FVal.mul dy dy))
  let e := f32.decode (FVal.expBits .rne (FVal.mul (.fin true 1 (-1)) (rdf q)))
  let a := rdf (FVal.mul s.opacity e)
  if FVal.le (f32.decode 0x3F7D70A4) a then none else some a

/-- The quotient of two values, rounded to binary32. -/
def ratio32 (a b : FVal) : FVal := f32.decode (FVal.divBits f32 .rne a b)

/-- Rd(α × T). -/
def alphaTimes (a : Option FVal) (t : FVal) : FVal :=
  match a with
  | some v => rdf (FVal.mul v t)
  | none => ratio32 (FVal.mul (.fin false 99 0) t) (.fin false 100 0)

/-- Rd(1 − α). -/
def alphaRest (a : Option FVal) : FVal :=
  match a with
  | some v => rdf (FVal.add false (.fin false 1 0) v.neg)
  | none => ratio32 (.fin false 1 0) (.fin false 100 0)

/-- What a pixel has gathered: T, C, Dz and M, and the features it has read. -/
structure Gather where
  t : FVal
  c : List FVal
  dz : FVal
  m : List FVal
  feats : List Nat

/-- Accumulate a weighted feature, each component rounded. -/
def accum (w : FVal) (l : List FVal) (f : List FVal) : List FVal :=
  (l.zip f).map fun x => rdf (FVal.add false x.1 (FVal.mul w x.2))

/-- What reading a feature and compositing come to. -/
inductive Pixel where
  | ok (g : Gather)
  | stop (x : EngRead)

/-- Composite the records of a pixel in order; features are read as they are needed (17 R362). -/
def State.composite (s : State) (u : Nat) (feats : Word) (thr : FVal) (x y : Nat) : Gather → List Splat → Pixel
  | g, [] => .ok g
  | g, p :: r =>
    if FVal.lt g.t thr then .ok g
    else
      let a := p.alpha x y
      if a.any fun v => FVal.lt v (f32.decode 0x3B808081) then s.composite u feats thr x y g r
      else
        match s.engResolve u (s.engGet (s.teamCtx u) .load (feats + BitVec.ofNat 64 (32 * p.feat)) 32) with
        | .ok b =>
          let f := (List.range 6).map fun k => f32.decode (fieldAt b (4 * k) 4)
          let w := alphaTimes a g.t
          s.composite u feats thr x y
            ⟨rdf (FVal.mul g.t (alphaRest a)), accum w g.c f,
              rdf (FVal.add false g.dz (FVal.mul w (f.getD 3 .nan))), accum w g.m (f.drop 4), p.feat :: g.feats⟩ r
        | e => .stop e

/-- A binary32 value converted to binary16 (07 R158, SAT = 0). -/
def half16 (x : FVal) : List Byte := natBytes (x.round f16 .rne false) 2

/-- The bytes of a pixel: colour, depth, motion (17 R362). -/
def Gather.bytes (g : Gather) (b : List Byte) : List Byte × List Byte × List Byte :=
  let cov := rdf (FVal.add false (.fin false 1 0) g.t.neg)
  let bg := (List.range 3).map fun k => f32.decode (fieldAt b (0x28 + 4 * k) 4)
  let some_ := FVal.lt (.fin false 0 0) cov
  let col := (accum g.t g.c bg).flatMap half16 ++ half16 cov
  let depth := if some_ then FVal.divBits f32 .rne g.dz cov else f32.infCode
  let mot := if some_ then g.m.flatMap fun m => half16 (f32.decode (FVal.divBits f32 .rne m cov)) else [0, 0, 0, 0]
  (col, natBytes depth 4, mot)

/-- Write bytes of a surface, which must lie in local HBM or the frame exchange range (17 R361). -/
def State.surfWrite (s : State) (u : Nat) (va : Word) (d : List Byte) : EngWrite :=
  match s.check (s.teamCtx u) .store va d.length 1 with
  | .ok (.phys pa _, _) =>
    if s.target pa == .hbm || s.target pa == .fx then s.engWrite u va d else .fail ⟨.permission, va⟩ s
  | _ => s.engWrite u va d

/-- Compute and write one pixel of a job. -/
def State.splatPixel (s : State) (j : SplatJob) (l : List Splat) (x y : Nat) : EngWrite :=
  let b := j.desc
  let at_ := fun (off size : Nat) => BitVec.ofNat 64 (fieldAt b off 8 + (y * fieldAt b 0x34 4 + x) * size)
  match s.composite j.team (BitVec.ofNat 64 (fieldAt b 0 8)) (f32.decode (fieldAt b 0x24 4)) x y
      ⟨.fin false 1 0, List.replicate 3 (.fin false 0 0), .fin false 0 0, List.replicate 2 (.fin false 0 0), []⟩ l with
  | .stop e => e.andPut fun _ => .done s
  | .ok g =>
    let p := g.bytes b
    let s0 := g.feats.foldl (fun x k => x.noteRange (x.teamCtx j.team) (BitVec.ofNat 64 (fieldAt b 0 8 + 32 * k)) 32) s
    (s0.surfWrite j.team (at_ 8 8) p.1).andPut fun s1 =>
      (s1.surfWrite j.team (at_ 0x10 4) p.2.1).andPut fun s2 => s2.surfWrite j.team (at_ 0x18 4) p.2.2

/-- The pixels from number k on, row by row. -/
def State.splatPixels (s : State) (j : SplatJob) (l : List Splat) : Nat → Nat → EngWrite
  | 0, _ => .done s
  | n + 1, k =>
    let w := fieldAt j.desc 0x20 2
    (s.splatPixel j l (k % w) (k / w)).andPut fun s1 => s1.splatPixels j l n (k + 1)

/-- Read the records of a job's lists in submission order, as their bytes. -/
def State.splatRecords (s : State) (u : Nat) : List SplatList → List Byte → EngRead
  | [], acc => .ok acc
  | l :: r, acc =>
    match s.engResolve u (s.engGet (s.teamCtx u) .load l.addr (32 * l.count)) with
    | .ok b => s.splatRecords u r (acc ++ b)
    | x => x

/-- SPLAT_JOB_START: the unit starts the next accepted job. -/
def execSplatJobStart (die : Nat) (s : State) : Res :=
  .next (
    let l := tget [] s.splats die
    if l.any (·.started) then s
    else match l.find? fun j => s.runs (s.gang j.gang) with
      | some j => { s with splats := tset s.splats die ({ j with started := true } :: l.filter fun x => x != j) }
      | none => s)

/-- The job at the head of a die's unit is over and its STAT written: a failure leaves a record, its timeline advances
(17 R364). -/
def State.splatOut (s : State) (die : Nat) (j : SplatJob) (f : Option Failure) : State :=
  let s2 := match f with
    | some x => s.engineRecord j.gang j.team true x.code.num j.addr x.addr
    | none => s
  let s3 := { s2 with splats := tset s2.splats die ((tget [] s2.splats die).drop 1) }
  (s3.modTeam j.team fun t => t.engDone (.splat j.num)).modGang j.gang fun g =>
    let k := jobsFinish g.splatJobs j.num g.splatTl
    { g with splatJobs := k.1, splatTl := k.2 }

/-- The job at the head of a die's unit has composited what it can: STAT is written, once it can be (17 R364). -/
def State.splatDone (s : State) (die : Nat) (j : SplatJob) (done skipped : Nat) (f : Option Failure) : State :=
  let stat := BitVec.ofNat 64 (fieldAt j.desc 0x38 8)
  let code := match f with | some x => x.code.num | none => 0
  if stat = 0 then s.splatOut die j f
  else match s.engWrite j.team stat (natBytes done 4 ++ natBytes skipped 4 ++ natBytes code 4 ++ natBytes 0 4) with
    | .done s1 => s1.splatOut die j f
    | .fail x s1 => s1.splatOut die j (f.or (some x))
    | .wait s1 =>
      let l := { j with outcome := some (done, skipped, f) } :: (tget [] s1.splats die).drop 1
      { s1 with splats := tset s1.splats die l }

/-- SPLAT_JOB_END: the running job composites every pixel and ends, or stops on a failure, or waits for what it reads or
writes. -/
def execSplatJobEnd (die : Nat) (s : State) : Res :=
  .next (match tget [] s.splats die with
    | [] => s
    | j :: _ =>
      if !j.started then s
      else s.under (.splat j.num) j.old fun s => match j.outcome, s.splatRecords j.team j.lists [] with
        | some r, _ => s.splatDone die j r.1 r.2.1 r.2.2
        | none, .wait s1 => s1
        | none, .fail f s1 => s1.splatDone die j 0 0 (some f)
        | none, .ok raw =>
          let all := (runs 32 raw).map parseSplat
          let good := all.filterMap id
          let sorted := good.foldl (fun l x => insertSplat x l) []
          let n := fieldAt j.desc 0x20 2 * fieldAt j.desc 0x22 2
          let s0 := j.lists.foldl (fun x l => x.noteRange (x.teamCtx j.team) l.addr (32 * l.count)) s
          match s0.splatPixels j sorted n 0 with
          | .wait s1 => s1
          | .done s1 => s1.splatDone die j good.length (all.length - good.length) none
          | .fail f s1 => s1.splatDone die j good.length (all.length - good.length) (some f))

/-! ### Samplers (17 R365-R367) -/

/-- A texture descriptor. -/
structure Tex where
  base : Nat
  w : Nat
  h : Nat
  fmt : Nat
  levels : Nat
  bilinear : Bool
  wrapU : Nat
  wrapV : Nat

/-- Parse a descriptor; none where a reserved field or code breaks Table 17 of R365. -/
def parseTex (b : List Byte) : Option Tex :=
  let c := fieldAt b 0x0C 4
  let x : Tex := ⟨fieldAt b 0 8, fieldAt b 8 2 + 1, fieldAt b 0x0A 2 + 1, c % 16, bitsOf c 7 4 + 1, bitsOf c 8 8 == 1,
    bitsOf c 10 9, bitsOf c 12 11⟩
  if x.fmt ≤ 3 ∧ x.levels ≤ 15 ∧ x.wrapU ≤ 1 ∧ x.wrapV ≤ 1 ∧ c < 2 ^ 13 ∧ (b.drop 0x10).all (· == 0) then some x else none

/-- Bytes of a texel. -/
def Tex.texel (t : Tex) : Nat := match t.fmt with | 0 => 16 | 1 => 8 | _ => 4

/-- Width of a level. -/
def Tex.wAt (t : Tex) (l : Nat) : Nat := max 1 (t.w / 2 ^ l)

/-- Height of a level. -/
def Tex.hAt (t : Tex) (l : Nat) : Nat := max 1 (t.h / 2 ^ l)

/-- The offset of a level: each begins at a line after the level before. -/
def Tex.levelOff (t : Tex) : Nat → Nat
  | 0 => 0
  | l + 1 => ceilDiv (t.levelOff l + t.wAt l * t.hAt l * t.texel) 128 * 128

/-- The floor of a finite value. -/
def FVal.floor : FVal → Int
  | .fin s n e => let m := roundInt .rdn s n e; if s then -(m : Int) else m
  | _ => 0

/-- A value and one half more. -/
def plusHalf (x : FVal) : FVal := FVal.add false x (.fin false 1 (-1))

/-- A level number clamped to those there are. -/
def Tex.clamp (t : Tex) (x : FVal) : Nat :=
  match x with
  | .nan => 0
  | .inf s => if s then 0 else t.levels - 1
  | v => min (plusHalf v).floor.toNat (t.levels - 1)

/-- ρ of a pair of derivatives: the root of the exact sum of squares, rounded. -/
def rho (t : Tex) (du dv : FVal) : FVal :=
  let a := FVal.mul du (.fin false t.w 0)
  let b := FVal.mul dv (.fin false t.h 0)
  f32.decode (FVal.sqrtBits f32 .rne (FVal.add false (FVal.mul a a) (FVal.mul b b)))

/-- The level of a lane, from its coordinates (17 R367): kind 0 SAMPLE, 1 SAMPLEG, 2 SAMPLEL. -/
def Tex.level (t : Tex) (kind : Nat) (c : List FVal) : Nat :=
  match kind with
  | 0 => 0
  | 1 =>
    let x := rho t (c.getD 2 .nan) (c.getD 3 .nan)
    let y := rho t (c.getD 4 .nan) (c.getD 5 .nan)
    t.clamp (f32.decode (FVal.log2Bits .rne (FVal.max x y)))
  | _ => t.clamp (c.getD 2 .nan)

/-- Wrap a texel index. -/
def wrapIndex (mode : Nat) (i : Int) (n : Nat) : Nat :=
  if mode = 0 then (min (max i 0) ((n : Int) - 1)).toNat else (i % (n : Int)).toNat

/-- The texels a lane reads, as addresses with weights; none where its coordinates are not finite. With one texel the
weight is not used. -/
def Tex.plan (t : Tex) (kind : Nat) (c : List FVal) : Option (List (Word × FVal)) :=
  if c.any fun x => !x.finite then none
  else
    let l := t.level kind c
    let xs := rdf (FVal.mul (c.getD 0 .nan) (.fin false (t.wAt l) 0))
    let ys := rdf (FVal.mul (c.getD 1 .nan) (.fin false (t.hAt l) 0))
    if !(xs.finite && ys.finite) then none
    else
      let at_ := fun (i j : Int) => BitVec.ofNat 64 (t.base + t.levelOff l +
        (wrapIndex t.wrapV j (t.hAt l) * t.wAt l + wrapIndex t.wrapU i (t.wAt l)) * t.texel)
      let half : FVal := .fin true 1 (-1)
      if !t.bilinear then some [(at_ xs.floor ys.floor, .fin false 1 0)]
      else
        let x := FVal.add false xs half
        let y := FVal.add false ys half
        let i := x.floor
        let j := y.floor
        let fx := FVal.add false x (FVal.ofInt (-i) 0)
        let fy := FVal.add false y (FVal.ofInt (-j) 0)
        let one := fun (v : FVal) => FVal.add false (.fin false 1 0) v.neg
        some [(at_ i j, FVal.mul (one fx) (one fy)), (at_ (i + 1) j, FVal.mul fx (one fy)),
          (at_ i (j + 1), FVal.mul (one fx) fy), (at_ (i + 1) (j + 1), FVal.mul fx fy)]

/-- Channel k of a texel as binary32 bits (17 R365). -/
def Tex.channel (t : Tex) (b : List Byte) (k : Nat) : Nat :=
  match t.fmt with
  | 0 => fieldAt b (4 * k) 4
  | 1 => (f16.decode (fieldAt b (2 * k) 2)).round f32 .rne false
  | 2 => FVal.divBits f32 .rne (.fin false (fieldAt b k 1) 0) (.fin false 255 0)
  | _ => if k = 0 then fieldAt b 0 4 else if k = 3 then 0x3F800000 else 0

/-- Channel k of a lane's result from its texels. -/
def Tex.result (t : Tex) (texels : List (List Byte × FVal)) (k : Nat) : Lane :=
  match texels with
  | [] => 0x7FC00000
  | [x] => BitVec.ofNat 32 (t.channel x.1 k)
  | l => BitVec.ofNat 32 (rd32 ((l.map fun x => FVal.mul (f32.decode (t.channel x.1 k)) x.2).foldl (FVal.add false)
      (.fin true 0 0)))

/-- Check the texels of one lane. -/
def State.texelsAt (s : State) (n : Nat) : List (Word × FVal) → Except Failure (List LaneAt)
  | [] => .ok []
  | (va, _) :: r =>
    match s.laneCached (s.laneVirtual .readOnly va n) n with
    | .error f => .error f
    | .ok a => match s.texelsAt n r with
      | .error f => .error f
      | .ok l => .ok (a :: l)

/-- SAMPLE, SAMPLEG and SAMPLEL (17 R366). -/
def State.sampleOp (s : State) (o : A3) (kind : Nat) : State :=
  let m := s.effMask o.g
  if m = 0 then s.fin
  else match s.laneCached (s.laneVirtual .readOnly (sB s.rd false o.b) 32) 32 with
    | .error f => s.fault f.code f.addr m
    | .ok da =>
      match s.missingTile [(0, da)] with
      | some t => s.parkOnTile t m [(sB s.rd false o.b, 32)]
      | none =>
        match parseTex (LaneAt.cached s da 32) with
        | none => s.faultB .operandInvalid m
        | some t =>
          if t.base % 128 ≠ 0 then s.fault .alignment (BitVec.ofNat 64 t.base) m
          else
            let coords := fun (l : Nat) => (List.range (match kind with | 0 => 2 | 1 => 6 | _ => 3)).map fun k =>
              f32.decode (s.rd.vget (o.a.toNat + k) l).toNat
            let plan := fun (l : Nat) => (t.plan kind (coords l)).getD []
            match checkLanes (s.active m) fun l => s.texelsAt t.texel (plan l) with
            | .error f => s.fault f.fail.code f.fail.addr f.lanes
            | .ok at_ =>
              let all := at_.flatMap fun x => x.2.map fun a => (x.1, a)
              match s.missingTile all with
              | some n => s.parkOnTile n (lanesIn all n) (walked ((0, da) :: all) t.texel)
              | none =>
                let got := at_.map fun x =>
                  (x.1, (x.2.map fun a => LaneAt.cached s a t.texel).zip ((plan x.1).map (·.2)))
                let s1 := (s.fillLanes ((0, da) :: all)).noteLanes ((0, da) :: all)
                ((List.range 4).foldl (fun x k => x.putReg (o.d.toNat + k) m fun l => t.result (laneRes [] got l) k) s1).fin

/-- SAMPLE. -/
def execSample (o : A3) (s : State) : Res := .next (s.sampleOp o 0)

/-- SAMPLEG. -/
def execSampleg (o : A3) (s : State) : Res := .next (s.sampleOp o 1)

/-- SAMPLEL. -/
def execSamplel (o : A3) (s : State) : Res := .next (s.sampleOp o 2)

end Sys2Proof.Machine
end

