-- ==== Sys2Proof/Machine/Heads.lean ====
section
/-!
DEFINITION. Belvedere's heads (22): descriptors and timetables, enabling and disabling, releases of bands with their
frame and pose, deadlines, slips and the fallback path, scan-out, and the pose mailboxes.
-/

namespace Sys2Proof.Machine

/-! ### Descriptor fields (22 Table 22-2) -/

/-- A bit field of the 8-byte word at an offset of a head's descriptor. -/
def Head.field (x : Head) (off hi lo : Nat) : Nat := bitsOf (fieldAt x.desc off 8) hi lo

/-- Latch lead in lines. -/
def Head.lead (x : Head) : Nat := if x.field 0 14 8 = 0 then 4 else x.field 0 14 8
/-- Band height in lines. -/
def Head.bandH (x : Head) : Nat := if x.field 0 22 16 = 0 then 4 else x.field 0 22 16
/-- Frame slots. -/
def Head.nslot (x : Head) : Nat := x.field 0 5 4 + 1
/-- Active pixels of a line. -/
def Head.width (x : Head) : Nat := x.field 8 12 0 + 1
/-- Active lines. -/
def Head.height (x : Head) : Nat := x.field 8 28 16 + 1
/-- Line tick of active line 0 in a frame. -/
def Head.vstart (x : Head) : Nat := x.field 8 44 32
/-- Line ticks of a frame. -/
def Head.vtotal (x : Head) : Nat := x.field 8 61 48 + 1
/-- Bands of a frame. -/
def Head.bandCount (x : Head) : Nat := ceilDiv x.height x.bandH
/-- The line cores, ascending. -/
def Head.coreSet (x : Head) : List Nat := (List.range 16).filter fun n => (fieldAt x.desc 4 2).testBit n
/-- The owning partition's accesses on the head's behalf. -/
def Head.ctx (x : Head) : Ctx := sysCtx x.part
/-- BORDER. -/
def Head.border (x : Head) : BitVec 64 := BitVec.ofNat 64 (fieldAt x.desc 0x78 8)
/-- An address field. -/
def Head.addr (x : Head) (off : Nat) : Word := BitVec.ofNat 64 (fieldAt x.desc off 8)
/-- A binary32 field. -/
def Head.f32At (x : Head) (off : Nat) : FVal := f32.decode (fieldAt x.desc off 4)
/-- The lines of a band: the first and the one after the last. -/
def Head.bandLines (x : Head) (b : Nat) : Nat × Nat := (b * x.bandH, min x.height ((b + 1) * x.bandH))
/-- S_b, the line tick of a band's first line. -/
def Head.scanAt (x : Head) (b : Nat) : Nat := x.vstart + b * x.bandH
/-- The line tick of a band's release in its frame (22 R433). -/
def Head.releaseAt (x : Head) (b : Nat) : Nat := max (x.tt.getD b (0, 0)).1 (x.scanAt b - x.lead)
/-- The line tick at which a line is due in its frame (22 R432). -/
def Head.dueAt (x : Head) (l : Nat) : Nat := (x.tt.getD (l / x.bandH) (0, 0)).2 + l % x.bandH
/-- Line l of the FIFO. -/
def Head.line (x : Head) (l : Nat) : FifoLine := tget ⟨[], false, false, false⟩ x.fifo l
/-- The head with a line of its FIFO replaced. -/
def Head.setLine (x : Head) (l : Nat) (f : FifoLine) : Head := { x with fifo := tset x.fifo l f }

/-! ### Checks at enable (22 R430, R432) -/

/-- The fields of a descriptor lie in their ranges. -/
def Head.fieldsOk (x : Head) (h : Nat) : Bool :=
  let dp := decide (h < 4)
  let w0 := fieldAt x.desc 0 4
  let w4 := fieldAt x.desc 4 4
  let y := fieldAt x.desc 8 8
  let al := fun (off n : Nat) => fieldAt x.desc off 8 % n == 0
  bitsOf w0 15 15 == 0 && bitsOf w0 31 23 == 0 && bitsOf w0 7 6 != 3 && bitsOf w0 14 8 ≤ 64 && bitsOf w0 22 16 ≤ 64 &&
    (dp || bitsOf w0 3 2 == 0) && bitsOf w4 15 0 != 0 &&
    (if dp then [1, 2, 4].contains (bitsOf w4 18 16) && bitsOf w4 22 19 ≤ 6 else bitsOf w4 22 16 == 0) &&
    (if bitsOf w0 3 3 = 1 then decide (96 ≤ bitsOf w4 31 23 ∧ bitsOf w4 31 23 ≤ 384) else bitsOf w4 31 23 == 0) &&
    bitsOf y 15 13 == 0 && bitsOf y 31 29 == 0 && bitsOf y 47 45 == 0 && bitsOf y 63 62 == 0 &&
    (if dp then decide (x.width ≤ fieldAt x.desc 0x14 2) else decide (100 ≤ fieldAt x.desc 0x10 4) && fieldAt x.desc 0x14 2 == 0) &&
    (if bitsOf w0 2 2 = 1 then decide (x.vtotal ≤ fieldAt x.desc 0x16 2) else fieldAt x.desc 0x16 2 == 0) &&
    fieldAt x.desc 0x18 2 != fieldAt x.desc 0x1A 2 && bitsOf (fieldAt x.desc 0x1C 4) 31 18 == 0 &&
    al 0x20 128 && al 0x28 4 && decide (1 ≤ fieldAt x.desc 0x30 4 ∧ fieldAt x.desc 0x30 4 ≤ 5461) &&
    decide (fieldAt x.desc 0x34 4 < fieldAt x.desc 0x30 4) && al 0x38 8 && al 0x40 32 &&
    (if bitsOf w0 1 1 = 1 then al 0x48 64 else fieldAt x.desc 0x48 8 == 0) &&
    (dp || (al 0x50 8 && fieldAt x.desc 0x58 4 % 8 == 0 && decide (8 * x.width ≤ fieldAt x.desc 0x58 4))) &&
    fieldAt x.desc 0x5C 4 == 0 && allZero (x.desc.drop 0x80) &&
    decide (x.lead ≤ x.vstart ∧ x.vstart + x.height ≤ x.vtotal)

/-- The timetable's entries meet 22 R432. -/
def Head.timesOk (x : Head) : Bool :=
  (List.range x.bandCount).all fun b =>
    let e := x.tt.getD b (0, 0)
    decide (e.1 ≤ e.2 ∧ x.scanAt b ≤ e.2 + 8 ∧ e.2 + 1 ≤ x.scanAt b)

/-- A range of virtual memory lies in the frame exchange range, and a head may read it (22 R430). -/
def State.inExchange (s : State) (c : Ctx) (va : Word) : Nat → Nat → Bool
  | 0, n => n == 0
  | fuel + 1, n =>
    n == 0 ||
      (let m := min n (65536 - va.toNat % 65536)
       match s.check c .load va m 1 with
       | .ok (.phys pa _, _) => s.target pa == .fx && s.inExchange c (va + BitVec.ofNat 64 m) fuel (n - m)
       | _ => false)

/-- A range of virtual memory is mapped to the frame exchange range. -/
def State.mapsExchange (s : State) (c : Ctx) (va : Word) : Nat → Nat → Bool
  | 0, n => n == 0
  | fuel + 1, n =>
    n == 0 ||
      (let m := min n (65536 - va.toNat % 65536)
       match s.xlate c va with
       | .ok l => s.target l.pa == .fx && s.mapsExchange c (va + BitVec.ofNat 64 m) fuel (n - m)
       | .error _ => false)

/-- What a head reads and writes translates as it needs. -/
def State.headMaps (s : State) (x : Head) (h : Nat) : Bool :=
  let c := x.ctx
  let len := fieldAt x.desc 0x58 4 * (x.height - 1) + 8 * x.width
  let surface := fun (k : Nat) =>
    (s.rangeFail c .store (x.addr 0x50 + BitVec.ofNat 64 k * x.addr 0x60) (len / 65536 + 2) len).isNone
  s.dev.fxPart.toNat == x.part &&
    ((List.range x.nslot).all fun k => s.inExchange c (x.addr 0x20 + BitVec.ofNat 64 (128 * k)) 2 128) &&
    (fieldAt x.desc 0x40 8 == 0 || (s.rangeFail c .store (x.addr 0x40) 2 2048).isNone) &&
    (x.field 0 1 1 == 0 || s.inExchange c (x.addr 0x48) 2 64) &&
    (decide (h < 4) || (List.range (x.field 0x18 49 48 + 1)).all surface)

/-- No enabled head has a core of this set. -/
def State.coresFree (s : State) (x : Head) : Bool :=
  s.heads.all fun y => !y.2.en || y.2.coreSet.all fun n => !x.coreSet.contains n

/-- A timetable as read; none where a reserved field is set. -/
def parseTimes (n : Nat) (b : List Byte) : Option (List (Nat × Nat)) :=
  let l := pieces 8 n b
  if l.all fun e => fieldAt e 4 4 == 0 then some (l.map fun e => (fieldAt e 0 2, fieldAt e 2 2)) else none

/-- The descriptor, the timetable and the band program that an enable of head h reads, where every check passes. -/
def State.headRead (s : State) (h : Nat) (linkTrains : Bool) : Option (Head × List Byte) :=
  let x := s.head h
  match s.readMem x.ctx .load x.descVa 256 with
  | .error _ => none
  | .ok d =>
    let y := { x with desc := d }
    if !(y.fieldsOk h && s.coresFree y && s.headMaps y h && (decide (4 ≤ h) || (x.hpd && linkTrains))) then none
    else match s.readMem x.ctx .load (y.addr 0x38) (8 * y.bandCount), s.readMem x.ctx .load (y.addr 0x28) (12 * fieldAt d 0x30 4) with
      | .ok t, .ok p => (parseTimes y.bandCount t).bind fun tt =>
          let z := { y with tt := tt }
          if z.timesOk then some (z, p) else none
      | _, _ => none

/-! ### Frames in use (22 R436) -/

/-- A head keeps a frame's pixels until a line is complete: the line is the fallback path's. -/
def Head.owes (x : Head) (l : Nat) : Bool := !(x.line l).complete && (x.slipped || (x.line l).owed)

/-- The sequences that bands and fallback lines of a head not yet ended use. -/
def State.inUse (s : State) (h : Nat) : List Word :=
  let x := s.head h
  let band := fun (b : Nat × BandState) =>
    let r := x.bandLines b.1
    if b.2.frameless then none
    else if !b.2.ended || (List.range (r.2 - r.1)).any fun i => x.owes (r.1 + i) then some b.2.sel else none
  let run := fun (c : Nat × LineCore) => c.2.run.bind fun r => if r.head = h ∧ r.frame ≠ x.frame then some r.sel else none
  x.bands.filterMap band ++ s.lineCores.filterMap run

/-- The lowest of some sequences. -/
def lowest : List Word → Option Word
  | [] => none
  | a :: r => match lowest r with
    | none => some a
    | some b => some (if a.toNat ≤ b.toNat then a else b)

/-- RETSLOT is signalled with u - 1. -/
def State.returnFrames (s : State) (h : Nat) : State :=
  let x := s.head h
  let u := (lowest (s.inUse h)).getD x.lastSel
  if u = 0 then s else s.signal x.part (fieldAt x.desc 0x1A 2) (u - 1)

/-- A device error record of a read a head makes itself (26 Table 26-4). -/
def State.headError (s : State) (h : Nat) (f : Failure) : State := s.logDevice f.code.num 4 h 0 f.addr

/-! ### The fallback path (22 R440) -/

/-- The quaternion at an offset of a record: x, y, z, w. -/
def quatAt (b : List Byte) (off : Nat) : List FVal := (List.range 4).map fun k => f32.decode (fieldAt b (off + 4 * k) 4)

/-- The exact sum of values. -/
def sumOf (l : List FVal) : FVal := l.foldl (FVal.add false) (.fin false 0 0)

/-- |q|² exactly. -/
def quatNorm (q : List FVal) : FVal := sumOf (q.map fun v => FVal.mul v v)

/-- |q|² times element (r, c) of Rot(q / |q|), exactly. -/
def rotElem (q : List FVal) (r c : Nat) : FVal :=
  let p := fun (i j : Nat) => FVal.mul (q.getD i .nan) (q.getD j .nan)
  let two := fun (v : FVal) => FVal.mul (.fin false 2 0) v
  if r = c then
    let i := (r + 1) % 3
    let j := (r + 2) % 3
    FVal.add false (quatNorm q) (two (FVal.add false (p i i) (p j j))).neg
  else
    let k := 3 - r - c
    let w := p 3 k
    two (FVal.add false (p r c) (if (r + 1) % 3 = c then w.neg else w))

/-- M: the nine elements row by row. -/
def reproject (qr qp : List FVal) : List FVal :=
  let bad := fun (q : List FVal) => q.any (fun v => !v.finite) || (quatNorm q).isZero
  (List.range 9).map fun k =>
    let a := k / 3
    let c := k % 3
    if bad qr || bad qp then .fin false (if a = c then 1 else 0) 0
    else
      let n := sumOf ((List.range 3).map fun i => FVal.mul (rotElem qr i a) (rotElem qp i c))
      f32.decode (FVal.divBits f32 .rne n (FVal.mul (quatNorm qr) (quatNorm qp)))

/-- Rd(f × e ÷ z + c − 0.5) for z > 0. -/
def axisAt (f e c z : FVal) : FVal :=
  let base := FVal.add false c (.fin true 1 (-1))
  match z with
  | .fin _ _ _ => f32.decode (FVal.divBits f32 .rne (FVal.add false (FVal.mul f e) (FVal.mul base z)) z)
  | _ => if (FVal.mul f e).finite then rdf base else .nan

/-- The pixel of the selected frame that output pixel (px, y) shows, where there is one. -/
def Head.source (x : Head) (m : List FVal) (header : List Byte) (px y : Nat) : Option (Nat × Nat) :=
  let axis := fun (p fo co : Nat) =>
    f32.decode (FVal.divBits f32 .rne (FVal.add false (.fin false (2 * p + 1) (-1)) (x.f32At co).neg) (x.f32At fo))
  let d := [axis px 0x68 0x70, axis y 0x6C 0x74, .fin false 1 0]
  let e := fun (a : Nat) => rdf (sumOf ((List.range 3).map fun c => FVal.mul (m.getD (3 * a + c) .nan) (d.getD c .nan)))
  if (e 2).cmp (.fin false 0 0) ≠ some .gt then none
  else
    let gi := axisAt (x.f32At 0x68) (e 0) (x.f32At 0x70) (e 2)
    let gj := axisAt (x.f32At 0x6C) (e 1) (x.f32At 0x74) (e 2)
    if !(gi.finite && gj.finite) then none
    else
      let i := (plusHalf gi).floor
      let j := (plusHalf gj).floor
      if 0 ≤ i ∧ i < fieldAt header 8 2 ∧ 0 ≤ j ∧ j < fieldAt header 0x0A 2 then some (i.toNat, j.toNat) else none

/-- The address of pixel (i, j) of a surface of `size`-byte pixels (22 R434). -/
def pixelVa (header : List Byte) (off size i j : Nat) : Word :=
  BitVec.ofNat 64 (fieldAt header off 8 + (j * fieldAt header 0x0C 4 + i) * size)

/-- The pixels of a fallback line, last first, and its first failed read. -/
def State.fallbackPixels (s : State) (x : Head) (b : BandState) (y : Nat) : List (BitVec 64) × Option Failure :=
  let pose := b.pose.flatMap fun w => natBytes w.toNat 4
  let m := reproject (quatAt b.header 0x28) (quatAt pose 0)
  (List.range x.width).foldl (fun acc px =>
    let last := acc.1.headD x.border
    match x.source m b.header px y with
    | none => (last :: acc.1, acc.2)
    | some (i, j) =>
      match s.readMem x.ctx .load (pixelVa b.header 0x10 8 i j) 8 with
      | .ok d => (BitVec.ofNat 64 (bytesNat d) :: acc.1, acc.2)
      | .error f => (last :: acc.1, acc.2.or (some f))) ([], none)

/-- Number a list's entries, as a table. -/
def numbered {α : Type} (l : List α) : Table α := l.zipIdx.map fun e => (e.2, e.1)

/-- The fallback path makes a line: BORDER where its band has not been released or is frameless. -/
def State.makeFallback (s : State) (h l : Nat) : State :=
  let x := s.head h
  let put := fun (t : State) (px : Table (BitVec 64)) => (t.modHead h fun y =>
    y.setLine l { y.line l with px := px, complete := true, owed := false }).returnFrames h
  match tfind x.bands (l / x.bandH) with
  | none => put s []
  | some b =>
    if b.frameless then put s []
    else
      let r := s.fallbackPixels x b l
      let s1 := match r.2 with | some f => s.headError h f | none => s
      put s1 (numbered r.1.reverse)

/-! ### The end of band runs -/

/-- The run of a core is over for RETSLOT (22 R436). -/
def State.endRun (s : State) (n : Nat) : State :=
  match (s.lineCore n).run with
  | none => s
  | some r =>
    let s1 := s.modLineCore n fun c => { c with run := none, loops := [], flow := .seq, waiting := false, failed := none }
    let s2 := if (s1.head r.head).frame = r.frame then
        s1.modHead r.head fun x => { x with bands := tmod x.bands r.band fun b => { b with ended := true } }
      else s1
    s2.returnFrames r.head

/-- Stop the cores that run bands of a head, of frame f where one is given; their work at the matrix engine is
discarded. -/
def State.stopCores (s : State) (h : Nat) (f : Option Nat) : State :=
  let stop := fun (c : LineCore) => match c.run with
    | some r => if r.head = h ∧ (f = none ∨ f = some r.frame) then
        { c with run := none, loops := [], flow := .seq, waiting := false, failed := none, matrix := none } else c
    | none => c
  { s with lineCores := s.lineCores.map fun c => (c.1, stop c.2) }

/-! ### Releases (22 R433-R439) -/

/-- A surface of a frame does not leave the frame exchange range (22 R435); its reads are checked as they are made. -/
def State.surfaceOk (s : State) (x : Head) (b : List Byte) (off size : Nat) : Bool :=
  let n := ((fieldAt b 0x0A 2 - 1) * fieldAt b 0x0C 4 + fieldAt b 8 2) * size
  decide (n ≤ s.fxBytes) && s.mapsExchange x.ctx (BitVec.ofNat 64 (fieldAt b off 8)) (n / 65536 + 2) n

/-- A frame header is that of sequence v and in range (22 R435). -/
def State.headerOk (s : State) (x : Head) (v : Word) (b : List Byte) : Bool :=
  let w := fieldAt b 8 2
  let t := fieldAt b 0x0A 2
  fieldAt b 0 8 == v.toNat && decide (1 ≤ w ∧ w ≤ 8192 ∧ 1 ≤ t ∧ t ≤ 8192 ∧ w ≤ fieldAt b 0x0C 4) && fieldAt b 0x44 4 == 0 &&
    allZero ((b.drop 0x50).take 0x30) && s.surfaceOk x b 0x10 8 && s.surfaceOk x b 0x18 4 && s.surfaceOk x b 0x20 4

/-- The header of a selection, where it gives a frame; a failed read is logged. -/
def State.selectFrame (s : State) (h : Nat) (v : Word) : Option (List Byte) × State :=
  let x := s.head h
  if v = 0 then (none, s)
  else match s.readMem x.ctx .load (x.addr 0x20 + BitVec.ofNat 64 (128 * (v.toNat % x.nslot))) 128 with
    | .error f => (none, s.headError h f)
    | .ok b => (if s.headerOk x v b then some b else none, s)

/-- The pose record a head latches; a failed read gives zeros and is logged (22 R439). -/
def State.poseOf (s : State) (h : Nat) : List Byte × State :=
  let x := s.head h
  if x.field 0 1 1 = 0 then (x.live, s)
  else match s.readMem x.ctx .load (x.addr 0x48) 64 with
    | .ok b => (b, s)
    | .error f => (List.replicate 64 0, s.headError h f)

/-- POSE_0 to POSE_15 of a latch (22 R437). -/
def latch (rec_ : List Byte) (now sel : Word) : List Lane :=
  ((List.range 12).map fun k => if k = 7 then 0 else BitVec.ofNat 32 (fieldAt rec_ (4 * k) 4)) ++
    [now.extractLsb' 0 32, now.extractLsb' 32 32, sel.extractLsb' 0 32, sel.extractLsb' 32 32]

/-- Band b is released: its frame selected, its pose latched, and it waits for its core; a frameless band's lines are
BORDER at once. A band that is never to start has ended with its release (22 R436, 25 R471). -/
def State.releaseBand (s : State) (h b : Nat) : State :=
  let x := s.head h
  let slot := s.slotVal x.part (fieldAt x.desc 0x18 2)
  let v := if x.field 0 0 0 = 1 then slot else x.firstSel.getD slot
  let (frame, s1) := s.selectFrame h v
  let (rec_, s2) := s1.poseOf h
  let cores := x.coreSet
  let bs : BandState := ⟨x.released, v, frame.getD [], latch rec_ s.timer v, frame.isNone,
    cores.getD (x.released % cores.length) 0, false, frame.isNone || x.slipped⟩
  let r := x.bandLines b
  let fill := fun (y : Head) (i : Nat) =>
    if (y.line (r.1 + i)).complete then y else y.setLine (r.1 + i) ⟨[], true, false, false⟩
  let s3 := s2.modHead h fun y =>
    let z := { y with
      released := y.released + 1, firstSel := some (y.firstSel.getD v), lastSel := v, bands := tset y.bands b bs
      badf := if frame.isNone && y.badf != 255 then y.badf + 1 else y.badf }
    if frame.isNone then (List.range (r.2 - r.1)).foldl fill z else z
  if bs.ended then s3.returnFrames h else s3

/-- BAND_START: the oldest released band of a free core starts on it (22 R427), until the line tick that follows the
clearing of EN (22 R428). -/
def execBandStart (core : Nat) (s : State) : Answer :=
  .next (
    if 16 ≤ core ∨ (s.lineCore core).run.isSome then s
    else
      let ready := fun (e : Nat × Head) => if e.2.stopping || !e.2.run || e.2.slipped then none else
        ((e.2.bands.filter fun b => !b.2.started && !b.2.ended && b.2.core == core).foldl (fun (a : Option (Nat × BandState)) b =>
          match a with
          | none => some b
          | some y => if b.2.order < y.2.order then some b else some y) none).map fun b => (e.1, b)
      match s.heads.findSome? ready with
      | none => s
      | some (h, b, bs) =>
        let x := s.head h
        (s.modHead h fun y => { y with bands := tmod y.bands b fun z => { z with started := true } }).modLineCore core fun c =>
          { c with
            run := some ⟨h, x.frame, x.start, b, bs.sel, bs.header⟩
            line := BitVec.ofNat 32 (x.bandLines b).1, band := BitVec.ofNat 32 b, pose := bs.pose
            pc := fieldAt x.desc 0x34 4, loops := [], flow := .seq, waiting := false, failed := none })

/-! ### Deadlines (22 R440, R441) -/

/-- The length of a line tick of head h in device-timer ticks, as a quotient: HTOTAL pixel periods at PIXKHZ, or LPERIOD
ticks (22 R431). -/
def Head.period (x : Head) (h : Nat) : Nat × Nat :=
  if h < 4 then (fieldAt x.desc 0x14 2 * 1000000, max 1 (fieldAt x.desc 0x10 4)) else (fieldAt x.desc 0x10 4, 1)

/-- The device timer at the start of line tick n of head h, counted from its enable. -/
def Head.tickTime (x : Head) (h n : Nat) : Nat :=
  let p := x.period h
  (x.epoch * p.2 + n * p.1) / p.2

/-- A slip of the presented frame at line l: its record, whose TICK is the device timer at the line's deadline (22 R441),
and the end of the frame's band programs. -/
def State.slip (s : State) (h l : Nat) : State :=
  let x := s.head h
  let b := l / x.bandH
  let fseq : Word := match tfind x.bands b with | some y => y.sel | none => 0
  let rec_ := natBytes (h + b * 2 ^ 16) 4 ++ natBytes l 4 ++ natBytes x.frame 8 ++
    natBytes (x.tickTime h (x.start.toNat + x.dueAt l)) 8 ++ natBytes fseq.toNat 8
  let s1 := if fieldAt x.desc 0x40 8 = 0 then s
    else s.writeOrLog x.ctx (x.addr 0x40 + BitVec.ofNat 64 (32 * (x.slips.toNat % 64))) rec_
  ((s1.stopCores h (some x.frame)).modHead h fun y =>
    { y with slipped := true, slips := y.slips + 1, bands := y.bands.map fun z => (z.1, { z.2 with ended := true }) }).returnFrames h

/-- The lines of the presented frame. -/
def Head.lines (x : Head) : List Nat := List.range x.height

/-- Line deadlines at line tick o of the frame: the first late line slips the frame (22 R440). -/
def State.deadlines (s : State) (h o : Nat) : State :=
  let x := s.head h
  match x.lines.find? fun l => !x.slipped && x.dueAt l == o && !(x.line l).complete && !(x.line l).owed with
  | some l => s.slip h l
  | none => s

/-- The fallback path makes the lines due from it by line tick o (22 R440). -/
def State.fallbacks (s : State) (h o : Nat) : State :=
  let x := s.head h
  (x.lines.filter fun l => decide (x.dueAt l ≤ o) && x.owes l).foldl (fun t l => t.makeFallback h l) s

/-! ### Scan-out (22 R443, R444) -/

/-- A FIFO channel as sent on a link of n bits to a channel. -/
def linkCode (n : Nat) (c : BitVec 16) : Nat :=
  match f16.decode c.toNat with
  | .nan => 0
  | v => (FVal.toInt .rne 0 (2 ^ n - 1)
      (FVal.mul (FVal.min (FVal.max v (.fin false 0 0)) (.fin false 1 0)) (.fin false (2 ^ n - 1) 0))).toNat

/-- The pixels of a complete line. -/
def Head.pixels (x : Head) (l : Nat) : List (BitVec 64) := (List.range x.width).map fun i => tget x.border (x.line l).px i

/-- Active line l scans out: a link carries it, a virtual head writes it; the last line of a frame signals VSLOT. -/
def State.scanOut (s : State) (h l : Nat) : State :=
  let x := s.head h
  let px := x.pixels l
  let s1 := s.modHead h fun y => y.setLine l { y.line l with px := [], buffer := false }
  if x.blank then s1
  else if h < 4 then
    let n := [8, 10, 12].getD (x.field 0 7 6) 8
    s1.modHead h fun y => { y with
      onLink := px.flatMap fun p => (List.range 3).map fun k => linkCode n (p.extractLsb' (16 * k) 16) }
  else
    let n := x.field 0x18 49 48 + 1
    let va := x.addr 0x50 + BitVec.ofNat 64 (x.frame % n) * x.addr 0x60 + BitVec.ofNat 64 (l * fieldAt x.desc 0x58 4)
    let s2 := match s1.writeAll x.ctx va (px.flatMap fun p => natBytes p.toNat 8) with
      | (t, none) => t
      | (_, some f) => s1.logDevice f.code.num 2 h 0 f.addr
    if l + 1 = x.height then s2.signal x.part (fieldAt x.desc 0x1C 2) (BitVec.ofNat 64 (x.frame + 1)) else s2

/-! ### Line ticks (22 R431) -/

/-- The presented frame is over at line tick o: after its length, extended under ADSYNC while nothing newer is
published. -/
def State.frameOver (s : State) (h o : Nat) : Bool :=
  let x := s.head h
  let used : Word := match tfind x.bands (x.bandCount - 1) with | some b => b.sel | none => x.lastSel
  let newer := decide (used.toNat < (s.slotVal x.part (fieldAt x.desc 0x18 2)).toNat)
  decide (x.vtotal ≤ o) && (x.field 0 2 2 == 0 || newer || decide (fieldAt x.desc 0x16 2 ≤ o))

/-- The next frame starts at the line tick LTC names. -/
def Head.nextFrame (x : Head) : Head :=
  { x with
    frame := x.frame + 1, start := x.ltc, frames := x.frames + 1, firstSel := none, bands := [], fifo := [], slipped := false }

/-- The bands released at line tick o of the presented frame (22 R433). -/
def State.releases (s : State) (h o : Nat) : State :=
  let x := s.head h
  ((List.range x.bandCount).filter fun b => x.releaseAt b == o).foldl (fun t b => t.releaseBand h b) s

/-- What happens at line tick o of the presented frame: deadlines, then releases (22 R471), then within the tick the
fallback lines due and the scan-out. -/
def State.tickWork (s : State) (h o : Nat) : State :=
  let x := s.head h
  let s1 := ((s.deadlines h o).releases h o).fallbacks h o
  if x.vstart ≤ o ∧ o < x.vstart + x.height then s1.scanOut h (o - x.vstart) else s1

/-- The device timer has reached the start of head h's next line tick. -/
def Head.tickDue (x : Head) (h now : Nat) : Bool :=
  let p := x.period h
  decide (x.epoch * p.2 + (x.ltc.toNat + 1) * p.1 ≤ now * p.2)

/-- Head h begins its next line tick: LTC advances; a head that has been disabled blanks and stops its cores (22 R428,
R431). -/
def State.beginTick (s : State) (h : Nat) : State :=
  let x := s.head h
  let s1 := s.modHead h fun y => { y with ltc := y.ltc + 1 }
  if !x.en then (s1.stopCores h none).modHead h fun y =>
    { y with stopping := true, blank := true, bands := [], fifo := [] }
  else
    let o := (x.ltc + 1 - x.start).toNat
    if s1.frameOver h o then (s1.modHead h Head.nextFrame).tickWork h 0 else s1.tickWork h o

/-- LINE_TICK: once the line period is over the head's next line tick begins. -/
def execLineTick (h : Nat) (s : State) : Answer :=
  .next (if 12 ≤ h ∨ !(s.head h).run ∨ !(s.head h).tickDue h s.tick then s else s.beginTick h)

/-- The end of the display cycle under way, in eighths of a tick: display cycles last 5/8 of a tick, counted from the
device timer's 0 (00 Table 0-4, log 66). -/
def State.displayEnd (s : State) : Nat := (s.cycle * 8 / 15 + 1) * 5

/-- The line ticks of head h that have not begun and whose start lies before a time in eighths of a tick. -/
def Head.ticksBefore (x : Head) (h e : Nat) : Nat :=
  let p := x.period h
  (e * p.2 - x.epoch * p.2 * 8 - 1) / (8 * p.1) - x.ltc.toNat

/-- Head h begins every line tick whose boundary the display cycle under way holds or has passed: an EMIT of that cycle
comes after it and is late (22 R440, log 66). -/
def State.ticksHeld (s : State) (h : Nat) : State :=
  (List.range ((s.head h).ticksBefore h s.displayEnd)).foldl (fun t _ => if (t.head h).run then t.beginTick h else t) s

/-! ### Head control (22 R427, R428, R430) -/

/-- Load the band program into a head's cores and zero their line memory. -/
def State.loadCores (s : State) (cores : List Nat) (prog : List Byte) (n : Nat) : State :=
  let imem := numbered ((pieces 12 n prog).map fun b => BitVec.ofNat 96 (bytesNat b))
  cores.foldl (fun t c => t.modLineCore c fun y => { y with imem := imem, lmem := [], bad := [] }) s

/-- The fields DESC and PART of a HEADCTL value, with ERR cleared where the write says so. -/
def Head.configure (x : Head) (v : BitVec 64) : Head :=
  { x with descVa := BitVec.ofNat 64 (v.toNat / 4096 * 4096), part := bitsOf v.toNat 7 5, err := x.err && !v.getLsbD 3 }

/-- HEADCTL_ENABLE: refused while the head is enabled or running, or where a check fails; otherwise frame 0 starts. -/
def execHeadctlEnable (h : Nat) (v : BitVec 64) (linkTrains : Bool) (s : State) : Answer :=
  .next (s.ready (
    let x := s.head h
    if 12 ≤ h then s
    else if x.en || x.run then s.modHead h fun y => { y with err := true }
    else
      let s1 := s.modHead h fun y => y.configure v
      match s1.headRead h linkTrains with
      | none => s1.modHead h fun y => { y with err := true }
      | some (y, prog) =>
        let s2 := s1.loadCores y.coreSet prog (fieldAt y.desc 0x30 4)
        let z := { y with
          run := true, en := true, frames := 0, slips := 0, badf := 0, ltc := 0, epoch := s.tick, stopping := false, frame := 0, start := 0
          released := 0, firstSel := none, lastSel := 0, bands := [], fifo := [], slipped := false, blank := false }
        (s2.modHead h fun _ => z).tickWork h 0))

/-- HEADCTL_DISABLE: a write with EN = 0 clears EN, and sets the other fields only where EN was 0. -/
def execHeadctlDisable (h : Nat) (v : BitVec 64) (s : State) : Answer :=
  .next (s.ready (
    if 12 ≤ h then s
    else s.modHead h fun y => if y.en then { y with en := false } else y.configure v))

/-- HEAD_STOPPED: RUN clears once a disabled head has blanked at a line tick and its cores have stopped (22 R428). -/
def execHeadStopped (h : Nat) (s : State) : Answer :=
  .next (
    let x := s.head h
    let busy := s.lineCores.any fun c => match c.2.run with | some r => r.head == h | none => false
    if 12 ≤ h ∨ x.en ∨ !x.stopping ∨ busy then s else s.modHead h fun y => { y with run := false })

/-- HPD_CHANGE: a link that loses its sink blanks; line ticks go on. -/
def execHpdChange (h : Nat) (connected : Bool) (s : State) : Answer :=
  .next (if 4 ≤ h then s else s.modHead h fun y => { y with hpd := connected, blank := y.blank || !connected })

/-! ### Pose mailboxes (22 R438) -/

/-- POSE_MAILBOX_WRITE: an aligned 4- or 8-byte write to bytes 0x00 to 0x27 changes the shadow copy; the reserved bytes
stay 0. -/
def execPoseMailboxWrite (p h off size : Nat) (v : BitVec 64) (s : State) : Answer :=
  .next (s.ready (
    if 12 ≤ h ∨ (s.head h).part ≠ p ∨ (size ≠ 4 ∧ size ≠ 8) ∨ off % size ≠ 0 ∨ 0x28 < off + size then s
    else s.modHead h fun y =>
      { y with shadow := setBytes (setBytes y.shadow off (natBytes v.toNat size)) 0x1C [0, 0, 0, 0] }))

/-- POSE_MAILBOX_COMMIT: an 8-byte write to SEQ makes the shadow, with that SEQ, the live record. -/
def execPoseMailboxCommit (p h : Nat) (v : BitVec 64) (s : State) : Answer :=
  .next (s.ready (
    if 12 ≤ h ∨ (s.head h).part ≠ p then s
    else s.modHead h fun y => { y with live := setBytes y.shadow 0x28 (natBytes v.toNat 8) }))

end Sys2Proof.Machine
end

