-- ==== Sys2Proof/Machine/Belv.lean ====
section
/-!
DEFINITION. The instructions of Belvedere's line cores (23 R451-R464) and the display matrix engine (22 R426, 23 R462).
Slots read the registers as earlier bundles left them and write beside them (23 R448).
-/

namespace Sys2Proof.Machine

/-! ### Registers (23 Table 23-2) -/

/-- g0 to g31; g0 reads 0. -/
def BRegs.gget (r : BRegs) (i : Nat) : Lane := if i = 0 then 0 else tget 0 r.g i

/-- Writes to g0 are ignored. -/
def BRegs.gset (r : BRegs) (i : Nat) (v : Lane) : BRegs := if i = 0 then r else { r with g := tset r.g i v }

/-- Lane l of k[i]. -/
def BRegs.kget (r : BRegs) (i l : Nat) : Lane := (tget [] r.k i).getD l 0

/-- k[i] with the lanes of a mask replaced. -/
def BRegs.kput (r : BRegs) (i : Nat) (m : BitVec 64) (f : Nat → Lane) : BRegs :=
  { r with k := tset r.k i ((List.range 64).map fun l => if m.getLsbD l then f l else r.kget i l) }

/-- f0 to f7; f0 reads all ones. -/
def BRegs.fget (r : BRegs) (i : Nat) : BitVec 64 := if i = 0 then BitVec.allOnes 64 else tget 0 r.f i

/-- Writes to f0 are ignored. -/
def BRegs.fset (r : BRegs) (i : Nat) (v : BitVec 64) : BRegs := if i = 0 then r else { r with f := tset r.f i v }

/-- Element (i, j) of m[n], as its bits. -/
def BRegs.mget (r : BRegs) (n i j : Nat) : Lane := (tget [] r.m n).getD (64 * i + j) 0

/-- m[n] replaced, element by element in row-major order. -/
def BRegs.mput (r : BRegs) (n : Nat) (f : Nat → Lane) : BRegs := { r with m := tset r.m n ((List.range 4096).map f) }

/-- The line core whose slot is executed. -/
def State.lc (s : State) : LineCore := s.lineCore s.issue.core

/-- The state with `f` applied to that core. -/
def State.modLc (s : State) (f : LineCore → LineCore) : State := s.modLineCore s.issue.core f

/-- The registers the slot reads. -/
def State.br (s : State) : BRegs := s.lc.before

/-- The state with `f` applied to the registers the slot writes. -/
def State.modB (s : State) (f : BRegs → BRegs) : State := s.modLc fun c => { c with regs := f c.regs }

/-- The slot fails (23 R450). -/
def State.bfail (s : State) (c : FaultCode) (addr : Word) : State :=
  s.modLc fun x => { x with failed := x.failed.or (some (s.issue.slot, ⟨c, addr⟩)) }

/-- The slot waits, and with it its bundle. -/
def State.bwait (s : State) : State := s.modLc fun x => { x with waiting := true }

/-- The band run in progress. -/
def State.bandRun (s : State) : BandRun := s.lc.run.getD default

/-- The head that runs the band. -/
def State.bandHead (s : State) : Head := s.head s.bandRun.head

/-- Bundles of the band program. -/
def State.progLen (s : State) : Nat := fieldAt s.bandHead.desc 0x30 4

/-- An operation on m tiles waits for the one at the display matrix engine. -/
def State.mIdle (s : State) (k : State) : State := if s.lc.matrix.isSome then s.bwait else k

/-! ### The C slot (23 R451-R456) -/

/-- NOP. -/
def execBelvNop (_ : BitVec 24) (s : State) : Answer := .next s

/-- Operand B of a scalar operation. -/
def State.gB (s : State) (o : BrOp) : Lane := if o.m.getLsbD 0 then o.b.setWidth 32 else s.br.gget o.b.toNat

/-- g[D] from g[A] and B. -/
def State.gOp (s : State) (o : BrOp) (f : Lane → Lane → Lane) : State :=
  s.modB fun r => r.gset o.d.toNat (f (s.br.gget o.a.toNat) (s.gB o))

/-- GADD. -/
def execGadd (o : BrOp) (s : State) : Answer := .next (s.gOp o fun a b => a + b)

/-- GSUB. -/
def execGsub (o : BrOp) (s : State) : Answer := .next (s.gOp o fun a b => a - b)

/-- GMUL. -/
def execGmul (o : BrOp) (s : State) : Answer := .next (s.gOp o fun a b => a * b)

/-- GAND. -/
def execGand (o : BrOp) (s : State) : Answer := .next (s.gOp o fun a b => a &&& b)

/-- GOR. -/
def execGor (o : BrOp) (s : State) : Answer := .next (s.gOp o fun a b => a ||| b)

/-- GXOR. -/
def execGxor (o : BrOp) (s : State) : Answer := .next (s.gOp o fun a b => a ^^^ b)

/-- GSHL. -/
def execGshl (o : BrOp) (s : State) : Answer := .next (s.gOp o fun a b => a <<< (b.toNat % 32))

/-- GSHR. -/
def execGshr (o : BrOp) (s : State) : Answer := .next (s.gOp o fun a b => a >>> (b.toNat % 32))

/-- GCMPLT. -/
def execGcmplt (o : BrOp) (s : State) : Answer :=
  .next (s.gOp o fun a b => if (if o.m.getLsbD 1 then a.ult b else a.slt b) then 1 else 0)

/-- GCMPEQ. -/
def execGcmpeq (o : BrOp) (s : State) : Answer := .next (s.gOp o fun a b => if a = b then 1 else 0)

/-- GMOVI. -/
def execGmovi (o : BiOp) (s : State) : Answer := .next (s.modB fun r => r.gset o.d.toNat (o.i.signExtend 32))

/-- Branch to the bundle at a signed offset. -/
def State.branchTo (s : State) (i : BitVec 18) : State :=
  let t : Int := s.lc.pc + i.toInt
  if t < 0 ∨ (s.progLen : Int) ≤ t then s.bfail .permission 0 else s.modLc fun c => { c with flow := .jump t.toNat }

/-- BR: taken where D = 0 or g[D] is not 0. -/
def execBelvBr (o : BiOp) (s : State) : Answer :=
  .next (if o.d = 0 ∨ s.br.gget o.d.toNat ≠ 0 then s.branchTo o.i else s)

/-- BRF. -/
def execBrf (o : BiOp) (s : State) : Answer :=
  .next (
    let f := s.br.fget (o.d.toNat / 8)
    let take := match o.d.toNat % 8 with
      | 0 => f != 0
      | 1 => f == 0
      | _ => f == BitVec.allOnes 64
    if take then s.branchTo o.i else s)

/-- LOOP. -/
def execBelvLoop (o : BlOp) (s : State) : Answer :=
  .next (
    let c := s.br.gget o.d.toNat
    let at_ := s.lc.pc
    if c = 0 then s.modLc fun x => { x with flow := .leave (at_ + o.len.toNat) }
    else if 4 ≤ s.lc.loops.length then s.bfail .loopNest 0
    else s.modLc fun x => { x with loops := ⟨at_ + 1, at_ + o.len.toNat, c.toNat⟩ :: x.loops })

/-- WAITTK: waits for a line-tick offset of the band's frame, which it then writes. -/
def execWaittk (o : BrOp) (s : State) : Answer :=
  .next (
    let now := s.bandHead.ltc - s.bandRun.start
    if now.toNat < (s.br.gget o.a.toNat + s.gB o).toNat then s.bwait
    else s.modB fun r => r.gset o.d.toNat (now.extractLsb' 0 32))

/-- The item a POSE selector names (23 Table 23-4). -/
def State.poseItem (s : State) (sel : Nat) : Lane :=
  let x := s.bandHead
  let r := s.bandRun
  if sel < 16 then s.lc.pose.getD sel 0
  else if sel = 16 then s.lc.line
  else if sel = 17 then s.lc.band
  else if sel = 18 then BitVec.ofNat 32 x.width
  else if sel = 19 then BitVec.ofNat 32 x.height
  else if sel = 20 then BitVec.ofNat 32 x.bandH
  else if sel = 21 then BitVec.ofNat 32 (fieldAt r.header 8 2)
  else if sel = 22 then BitVec.ofNat 32 (fieldAt r.header 0x0A 2)
  else if sel = 23 then BitVec.ofNat 32 r.head
  else if sel < 31 then BitVec.ofNat 32 (fieldAt r.header (0x28 + 4 * (sel - 24)) 4)
  else BitVec.ofNat 32 s.issue.core

/-- POSE. -/
def execPose (o : BrOp) (s : State) : Answer := .next (s.modB fun r => r.gset o.d.toNat (s.poseItem o.b.toNat))

/-- BEND: the run ends once the core's earlier L operations have completed. -/
def execBend (_ : BrOp) (s : State) : Answer := .next (s.mIdle (s.modLc fun c => { c with flow := .ended }))

/-! ### The P slot (23 R457-R459) -/

/-- The type of a P operation. -/
def opType (o : BrOp) : Fmt := if o.m.getLsbD 0 then f16 else f32

/-- Lane bits read as a type. -/
def laneAs (f : Fmt) (x : Lane) : FVal := f.decode (x.toNat % 2 ^ f.width)

/-- Operand B of a P operation in a lane, as bits. -/
def State.pB (s : State) (o : BrOp) (l : Nat) : Lane :=
  if o.m.getLsbD 1 then s.br.gget o.b.toNat else s.br.kget o.b.toNat l

/-- k[D] in the flagged lanes, as codes of the type. -/
def State.pPut (s : State) (o : BrOp) (f : Nat → Nat) : State :=
  s.modB fun r => r.kput o.d.toNat (s.br.fget o.g.toNat) fun l => BitVec.ofNat 32 (f l)

/-- k[D] from A, B and the old k[D], rounded once. -/
def State.texelOp (s : State) (o : BrOp) (f : FVal → FVal → FVal → FVal) : State :=
  let v := fun (x : Lane) => laneAs (opType o) x
  s.pPut o fun l => (f (v (s.br.kget o.a.toNat l)) (v (s.pB o l)) (v (s.br.kget o.d.toNat l))).round (opType o) .rne false

/-- PADD. -/
def execPadd (o : BrOp) (s : State) : Answer := .next (s.texelOp o fun a b _ => FVal.add false a b)

/-- PSUB. -/
def execPsub (o : BrOp) (s : State) : Answer := .next (s.texelOp o fun a b _ => FVal.add false a b.neg)

/-- PMUL. -/
def execPmul (o : BrOp) (s : State) : Answer := .next (s.texelOp o fun a b _ => FVal.mul a b)

/-- PFMA. -/
def execPfma (o : BrOp) (s : State) : Answer := .next (s.texelOp o fun a b d => FVal.add false (FVal.mul a b) d)

/-- PMIN. -/
def execPmin (o : BrOp) (s : State) : Answer := .next (s.texelOp o fun a b _ => FVal.min a b)

/-- PMAX. -/
def execPmax (o : BrOp) (s : State) : Answer := .next (s.texelOp o fun a b _ => FVal.max a b)

/-- PLERP. -/
def execPlerp (o : BrOp) (s : State) : Answer :=
  .next (s.texelOp o fun a b t => FVal.add false a (FVal.mul t (FVal.add false b a.neg)))

/-- PCMPLT. -/
def execPcmplt (o : BrOp) (s : State) : Answer :=
  .next (
    let g := s.br.fget o.g.toNat
    let lt := fun (l : Nat) => (laneAs (opType o) (s.br.kget o.a.toNat l)).cmp (laneAs (opType o) (s.pB o l)) == some .lt
    let bits : BitVec 64 := BitVec.ofNat 64 (((List.range 64).filter lt).map fun l => 2 ^ l).sum
    s.modB fun r => r.fset o.d.toNat ((r.fget o.d.toNat &&& ~~~g) ||| (bits &&& g)))

/-- PSEL: every lane is written. -/
def execPsel (o : BrOp) (s : State) : Answer :=
  .next (s.modB fun r => r.kput o.d.toNat (BitVec.allOnes 64) fun l =>
    let x := if (s.br.fget o.g.toNat).getLsbD l then s.br.kget o.a.toNat l else s.pB o l
    BitVec.ofNat 32 (x.toNat % 2 ^ (opType o).width))

/-- The result of a PCVT code (23 R458). -/
def pcvt (code : Nat) (x : Lane) : Nat :=
  match code with
  | 0 => (f32.decode x.toNat).round f16 .rne false
  | 1 => (f16.decode (x.toNat % 65536)).round f32 .rne false
  | 2 => (BitVec.ofInt 32 (FVal.toInt .rne (-2 ^ 31) (2 ^ 31 - 1) (f32.decode x.toNat))).toNat
  | 3 => (FVal.ofInt x.toInt 0).round f32 .rne false
  | _ => ((f32.decode x.toNat).integral .rdn).round f32 .rne false

/-- PCVT. -/
def execPcvt (o : BrOp) (s : State) : Answer := .next (s.pPut o fun l => pcvt o.m.toNat (s.br.kget o.a.toNat l))

/-- PRCP. -/
def execPrcp (o : BrOp) (s : State) : Answer :=
  .next (s.pPut o fun l => FVal.rcpBits (opType o) .rne (laneAs (opType o) (s.br.kget o.a.toNat l)))

/-- PRSQ. -/
def execPrsq (o : BrOp) (s : State) : Answer :=
  .next (s.pPut o fun l => FVal.rsqBits (opType o) .rne (laneAs (opType o) (s.br.kget o.a.toNat l)))

/-- PLANE. -/
def execPlane (o : BrOp) (s : State) : Answer := .next (s.pPut o fun l => (FVal.fin false l 0).round (opType o) .rne false)

/-- PMOVG: in the flagged lanes (DEDUCED, log 81). -/
def execPmovg (o : BrOp) (s : State) : Answer := .next (s.pPut o fun _ => (s.br.gget o.a.toNat).toNat)

/-- PXFORM. -/
def execPxform (o : BrOp) (s : State) : Answer :=
  .next (s.mIdle (
    let term := fun (r l k : Nat) =>
      FVal.mul (f32.decode (s.br.mget o.b.toNat r k).toNat) (f32.decode (s.br.kget (o.a.toNat + k) l).toNat)
    let row := fun (r l : Nat) => rd32 (FVal.add false (FVal.add false (term r l 0) (term r l 1)) (term r l 2))
    s.modB fun b => (List.range 3).foldl (fun x r =>
      x.kput (o.d.toNat + r) (s.br.fget o.g.toNat) fun l => BitVec.ofNat 32 (row r l)) b))

/-! ### Line memory (23 R460) -/

/-- Bytes of line memory. -/
def lineMemory : Nat := 2 ^ 20

/-- The flagged lanes. -/
def State.flagged (s : State) (o : BrOp) : List Nat := (List.range 64).filter fun l => (s.br.fget o.g.toNat).getLsbD l

/-- The address of LLD and LST in a lane. -/
def State.lineAddr (s : State) (o : BrOp) (l : Nat) : Nat :=
  (s.br.gget o.a.toNat + (if o.m.getLsbD 0 then BitVec.ofNat 32 (o.b.toNat * 256) else s.br.gget o.b.toNat)).toNat + 4 * l

/-- Every flagged lane's address is in line memory and a multiple of 4, or the operation fails. -/
def State.inLines (s : State) (o : BrOp) (at_ : Nat → Nat) (k : State) : State :=
  if (s.flagged o).all fun l => at_ l % 4 == 0 && decide (at_ l + 4 ≤ lineMemory) then k else s.bfail .operandInvalid 0

/-- A read of line memory meets a poisoned line: the operation fails with POISON and the line's address (10 R228, which
names line memories; that it is a band error is DEDUCED, log 57). -/
def State.lineClean (s : State) (bad : Option Nat) (k : State) : State :=
  match bad with
  | some a => s.bfail .poison (BitVec.ofNat 64 a)
  | none => k

/-- Load lanes from line memory. -/
def State.lineLoad (s : State) (o : BrOp) (at_ : Nat → Nat) : State :=
  s.inLines o at_ (s.lineClean ((s.flagged o).findSome? fun l => badLine s.lc.bad (at_ l) 4)
    (s.pPut o fun l => bytesNat (Memory.readBytes s.lc.lmem (at_ l) 4)))

/-- LLD. -/
def execLld (o : BrOp) (s : State) : Answer := .next (s.lineLoad o (s.lineAddr o))

/-- LST. -/
def execLst (o : BrOp) (s : State) : Answer :=
  .next (s.inLines o (s.lineAddr o) (s.modLc fun c => { c with
    lmem := (s.flagged o).foldl (fun m l => Memory.writeBytes m (s.lineAddr o l) (natBytes (s.br.kget o.d.toNat l).toNat 4))
      c.lmem
    bad := mendedBy c.bad fun b => ((s.flagged o).map (s.lineAddr o)).contains (b / 4 * 4) }))

/-- GATHER. -/
def execGather (o : BrOp) (s : State) : Answer :=
  .next (s.lineLoad o fun l => (s.br.gget o.b.toNat).toNat + (s.br.kget o.a.toNat l).toNat)

/-! ### Frame reads (23 R461) -/

/-- A binary16 channel widened to binary32. -/
def widen16 (b : List Byte) (k : Nat) : Nat := (f16.decode (fieldAt b (2 * k) 2)).round f32 .rne false

/-- A pixel of the selected frame: its bytes or the failure of the read. -/
def State.framePixel (s : State) (off size i j : Nat) : Except Failure (List Byte) :=
  s.readMem s.bandHead.ctx .load (pixelVa s.bandRun.header off size i j) size

/-- The values a lane receives from XFETCH (channel group ch). -/
def State.fetchLane (s : State) (ch : Nat) (x y : FVal) : Except Failure (List Nat) :=
  let w := fieldAt s.bandRun.header 8 2
  let t := fieldAt s.bandRun.header 0x0A 2
  let within := fun (v : FVal) (n : Nat) => v.finite && decide (0 ≤ v.floor ∧ v.floor < n)
  let px := fun (off size : Nat) => s.framePixel off size x.floor.toNat y.floor.toNat
  if !(within x w && within y t) then
    .ok (match ch with
      | 0 => (List.range 4).map (widen16 (natBytes s.bandHead.border.toNat 8))
      | 1 => [0x7F800000]
      | _ => [0, 0])
  else match ch with
    | 0 => (px 0x10 8).map fun b => (List.range 4).map (widen16 b)
    | 1 => (px 0x18 4).map fun b => [fieldAt b 0 4]
    | _ => (px 0x20 4).map fun b => (List.range 2).map (widen16 b)

/-- The exact weighted sum of four texels, channel by channel, rounded once. -/
def blend (l : List (List Byte × FVal)) (k : Nat) : Nat :=
  rd32 ((l.map fun x => FVal.mul (f16.decode (fieldAt x.1 (2 * k) 2)) x.2).foldl (FVal.add false) (.fin true 0 0))

/-- Read weighted colour pixels. -/
def State.framePixels (s : State) : List ((Nat × Nat) × FVal) → Except Failure (List (List Byte × FVal))
  | [] => .ok []
  | (p, w) :: r =>
    match s.framePixel 0x10 8 p.1 p.2, s.framePixels r with
    | .ok b, .ok l => .ok ((b, w) :: l)
    | .error f, _ => .error f
    | _, .error f => .error f

/-- The values a lane receives from WARPS. -/
def State.warpLane (s : State) (mode : Nat) (u v : FVal) : Except Failure (List Nat) :=
  let w := fieldAt s.bandRun.header 8 2
  let t := fieldAt s.bandRun.header 0x0A 2
  let pos := fun (i j : Int) => (wrapIndex 0 i w, wrapIndex 0 j t)
  if !(u.finite && v.finite) then .ok (List.replicate 4 0x7FC00000)
  else if mode = 1 then (s.framePixel 0x10 8 (pos u.floor v.floor).1 (pos u.floor v.floor).2).map fun b =>
    (List.range 4).map (widen16 b)
  else
    let x := FVal.add false u (.fin true 1 (-1))
    let y := FVal.add false v (.fin true 1 (-1))
    let i := x.floor
    let j := y.floor
    let fx := FVal.add false x (FVal.ofInt (-i) 0)
    let fy := FVal.add false y (FVal.ofInt (-j) 0)
    let one := fun (z : FVal) => FVal.add false (.fin false 1 0) z.neg
    (s.framePixels [(pos i j, FVal.mul (one fx) (one fy)), (pos (i + 1) j, FVal.mul fx (one fy)),
      (pos i (j + 1), FVal.mul (one fx) fy), (pos (i + 1) (j + 1), FVal.mul fx fy)]).map fun l => (List.range 4).map (blend l)

/-- The values of every flagged lane, or the first failure. -/
def lanesFetched (f : Nat → Except Failure (List Nat)) : List Nat → Except Failure (List (Nat × List Nat))
  | [] => .ok []
  | l :: r =>
    match f l, lanesFetched f r with
    | .ok v, .ok t => .ok ((l, v) :: t)
    | .error e, _ => .error e
    | _, .error e => .error e

/-- Put fetched lanes into n registers from k[D]. -/
def State.putFetched (s : State) (o : BrOp) (n : Nat) (f : Nat → Except Failure (List Nat)) : State :=
  match lanesFetched f (s.flagged o) with
  | .error e => s.bfail e.code e.addr
  | .ok t => s.modB fun r => (List.range n).foldl (fun x k =>
      x.kput (o.d.toNat + k) (s.br.fget o.g.toNat) fun l => BitVec.ofNat 32 ((tget [] t l).getD k 0)) r

/-- A lane's coordinates. -/
def State.coordsAt (s : State) (o : BrOp) (l : Nat) : FVal × FVal :=
  (f32.decode (s.br.kget o.a.toNat l).toNat, f32.decode (s.br.kget o.b.toNat l).toNat)

/-- XFETCH. -/
def execXfetch (o : BrOp) (s : State) : Answer :=
  .next (s.putFetched o ([4, 1, 2].getD o.m.toNat 1) fun l => s.fetchLane o.m.toNat (s.coordsAt o l).1 (s.coordsAt o l).2)

/-- WARPS. -/
def execWarps (o : BrOp) (s : State) : Answer :=
  .next (s.putFetched o 4 fun l => s.warpLane o.m.toNat (s.coordsAt o l).1 (s.coordsAt o l).2)

/-! ### The display matrix engine (22 R426, 23 R462) -/

/-- Bytes of an m tile. -/
def mTileBytes : Nat := 16384

/-- The address of MLD and MST, checked. -/
def State.tileAddr (s : State) (o : BrOp) (k : Nat → State) : State :=
  let a := (s.br.gget o.a.toNat).toNat
  s.mIdle (if a % 4 = 0 ∧ a + mTileBytes ≤ lineMemory then k a else s.bfail .operandInvalid 0)

/-- MLD. -/
def execMld (o : BrOp) (s : State) : Answer :=
  .next (s.tileAddr o fun a => s.lineClean (badLine s.lc.bad a mTileBytes)
    (s.modB fun r => r.mput o.d.toNat fun e => BitVec.ofNat 32 (bytesNat (Memory.readBytes s.lc.lmem (a + 4 * e) 4))))

/-- MST. -/
def execMst (o : BrOp) (s : State) : Answer :=
  .next (s.tileAddr o fun a => s.modLc fun c => { c with
    lmem := Memory.writeBytes c.lmem a ((List.range 4096).flatMap fun e =>
      natBytes (s.br.mget o.d.toNat (e / 64) (e % 64)).toNat 4)
    bad := mended c.bad a mTileBytes })

/-- An operation goes to the display matrix engine once the core's last one is done. -/
def State.toMatrix (s : State) (conv : Bool) (o : BrOp) : State :=
  s.mIdle (s.modLc fun c => { c with matrix := some (conv, o) })

/-- MMUL. -/
def execMmul (o : BrOp) (s : State) : Answer := .next (s.toMatrix false o)

/-- MCONV. -/
def execMconv (o : BrOp) (s : State) : Answer := .next (s.toMatrix true o)

/-- BF16 of an element. -/
def BRegs.mBf (r : BRegs) (n i j : Nat) : FVal := bf16.decode ((f32.decode (r.mget n i j).toNat).round bf16 .rne false)

/-- Element (i, j) of MMUL's result. -/
def BRegs.mmulElem (r : BRegs) (o : BrOp) (i j : Nat) : Nat :=
  dot f32 (if o.m = 1 then 0 else (r.mget o.d.toNat i j).toNat)
    ((List.range 64).map fun k => FVal.mul (r.mBf o.a.toNat i k) (r.mBf o.b.toNat j k))

/-- The nine weights and terms of MCONV at (i, j). -/
def BRegs.mconvTerms (r : BRegs) (o : BrOp) (i j : Nat) : List (FVal × FVal) :=
  (List.range 9).map fun e =>
    (r.mBf o.b.toNat 0 e, r.mBf o.a.toNat (wrapIndex 0 ((i + e / 3 : Nat) - 1 : Int) 64) (wrapIndex 0 ((j + e % 3 : Nat) - 1 : Int) 64))

/-- The exact sum of some values; -0 only when every one is. -/
def exactSum (l : List FVal) : FVal := l.foldl (FVal.add false) (.fin true 0 0)

/-- Element (i, j) of MCONV's result. -/
def BRegs.mconvElem (r : BRegs) (o : BrOp) (i j : Nat) : Nat :=
  let t := r.mconvTerms o i j
  if o.m = 0 then rd32 (exactSum (t.map fun x => FVal.mul x.1 x.2))
  else
    let u := t.filter fun x => x.2 != .nan
    let w := exactSum (u.map (·.1))
    if u.isEmpty || w.isZero then f32.nanCode
    else FVal.divBits f32 .rne (exactSum (u.map fun x => FVal.mul x.1 x.2)) w

/-- The core whose request is served has its tile written. -/
def State.serve (s : State) (n : Nat) : State :=
  s.modLineCore n fun c =>
    let put := fun (d : BitVec 6) (f : Nat → Nat → Nat) =>
      { c with matrix := none, regs := c.regs.mput d.toNat fun e => BitVec.ofNat 32 (f (e / 64) (e % 64)) }
    match c.matrix with
    | some (false, o) => put o.d (c.regs.mmulElem o)
    | some (true, o) => put o.d (c.regs.mconvElem o)
    | none => c

/-- The deadline of the earliest unfinished line of the band a core runs, on the device timer, as a quotient. -/
def State.bandDeadline (s : State) (n : Nat) : Option (Nat × Nat) :=
  match (s.lineCore n).run with
  | none => none
  | some r =>
    let x := s.head r.head
    let lines := x.bandLines r.band
    let open_ := ((List.range (lines.2 - lines.1)).map fun i => lines.1 + i).find? fun l => !(x.line l).complete
    if r.frame ≠ x.frame then none
    else open_.map fun l =>
      let p := x.period r.head
      (x.epoch * p.2 + (x.start.toNat + x.dueAt l) * p.1, p.2)

/-- An earlier deadline; a core without one comes last. -/
def earlier (a b : Option (Nat × Nat)) : Bool :=
  match a, b with
  | some x, some y => decide (x.1 * y.2 < y.1 * x.2)
  | some _, none => true
  | _, _ => false

/-- MATRIX_ENGINE_SERVE: the pending request with the earliest deadline is served, the lower core number first. -/
def execMatrixEngineServe (s : State) : Answer :=
  .next (
    let l := (List.range 16).filter fun n => (s.lineCore n).matrix.isSome
    match l with
    | [] => s
    | n :: r => s.serve (r.foldl (fun b k => if earlier (s.bandDeadline k) (s.bandDeadline b) then k else b) n))

/-! ### Output (23 R463, R464) -/

/-- The pixel four channels of a lane make. -/
def State.emitPixel (s : State) (o : BrOp) (l : Nat) : BitVec 64 :=
  BitVec.ofNat 64 (((List.range 4).map fun k => pcvt 0 (s.br.kget (o.a.toNat + k) l) * 2 ^ (16 * k)).sum)

/-- Lines begun by an EMIT that have not scanned out. -/
def Head.buffers (x : Head) : Nat := (x.fifo.filter fun f => f.2.buffer).length

/-- EMIT. -/
def execEmit (o : BrOp) (s : State) : Answer :=
  .next (
    let x := s.bandHead
    let r := s.bandRun
    let l := (s.br.gget o.d.toNat).toNat
    let lines := x.bandLines r.band
    let f := x.line l
    if l < lines.1 ∨ lines.2 ≤ l ∨ r.frame ≠ x.frame ∨ f.complete then s.bfail .operandInvalid 0
    else if !f.buffer && decide (8 ≤ x.buffers) then s.bwait
    else
      let at_ := (s.br.gget o.b.toNat).toNat
      let px := ((s.flagged o).filter fun k => decide (at_ + k < x.width)).foldl
        (fun t k => tset t (at_ + k) (s.emitPixel o k)) f.px
      s.modHead r.head fun y => y.setLine l ⟨px, o.m.getLsbD 0, true, f.owed⟩)

/-- FBWAIT. -/
def execFbwait (_ : BrOp) (s : State) : Answer := .next (s.mIdle s)

/-- FALLBK: the run ends, and the fallback path owes the band's lines from g[A] on. -/
def execFallbk (o : BrOp) (s : State) : Answer :=
  .next (s.mIdle (
    let x := s.bandHead
    let r := s.bandRun
    let l := (s.br.gget o.a.toNat).toNat
    let lines := x.bandLines r.band
    if l < lines.1 ∨ lines.2 ≤ l then s.bfail .operandInvalid 0
    else
      let owe := fun (y : Head) (i : Nat) =>
        if (y.line (l + i)).complete then y else y.setLine (l + i) { y.line (l + i) with owed := true }
      let s1 := if r.frame ≠ x.frame then s
        else s.modHead r.head fun y => (List.range (lines.2 - l)).foldl owe y
      s1.modLc fun c => { c with flow := .ended }))

/-! ### Bundles (23 R445, R448, R450, R453) -/

/-- Sequential flow leaves bundle `at_`: the loops that end there take their back edges, innermost first. -/
def leaveBundle (at_ : Nat) : Nat → List BLoop → List BLoop × Nat
  | 0, l => (l, at_ + 1)
  | _, [] => ([], at_ + 1)
  | fuel + 1, l :: r =>
    if l.last ≠ at_ then (l :: r, at_ + 1)
    else if l.left ≠ 1 then ({ l with left := l.left - 1 } :: r, l.first)
    else leaveBundle at_ fuel r

/-- A band error: its record, and the end of the band run. -/
def State.bandError (s : State) (n slot : Nat) (f : Failure) : State :=
  let c := s.lineCore n
  let h := match c.run with | some r => r.head | none => 0
  (s.logDevice f.code.num 3 n (h + slot * 2 ^ 8 + c.pc % 2 ^ 22 * 2 ^ 10) f.addr).endRun n

/-- The bundle of a core is done: its writes stand, and flow leaves it. -/
def State.endLineBundle (s : State) (n : Nat) : State :=
  let c := s.lineCore n
  let go := fun (at_ : Nat) => leaveBundle at_ (c.loops.length + 1) c.loops
  match c.flow with
  | .ended => s.endRun n
  | .jump t => s.modLineCore n fun x => { x with pc := t, flow := .seq }
  | .leave l => s.modLineCore n fun x => { x with loops := (go l).1, pc := (go l).2, flow := .seq }
  | _ => s.modLineCore n fun x => { x with loops := (go c.pc).1, pc := (go c.pc).2, flow := .seq }

end Sys2Proof.Machine
end

