-- ==== Sys2Proof/Machine/Control.lean ====
section
/-!
DEFINITION. Branches, indexed jumps, loops, the mask stack, teams, traps and control registers of the S slot
(08 R176-R196), with the NOP of 04.
-/

namespace Sys2Proof.Machine

/-! ### Flow -/

/-- NOP: nothing (04). -/
def execNop (_ : BitVec 22) (s : State) : Res := .next s.fin

/-- A bundle index as an unsigned 64-bit number (01 R22). -/
def indexOf (i : Int) : Nat := (BitVec.ofInt 64 i).toNat

/-- The target of a J19 operation (08 R176). -/
def State.target19 (s : State) (o : J19) : Nat := indexOf (s.pos + o.off.toInt)

/-- A branch that is taken or not, with its packet (08 R176, 21 R423). -/
def State.branch (s : State) (taken : Bool) (target : Nat) (pay : List Word) : State :=
  let s1 := s.emitOp 1 taken (if taken then pay else [])
  (if taken then s1.flow (.jump target) else s1).fin

/-- BR (08 R176). -/
def execBr (o : J19) (s : State) : Res := .next (s.branch (s.sGuard o.g) (s.target19 o) [])

/-- BRNOT: branch when c[G] = 0 (08 R176). -/
def execBrnot (o : J19) (s : State) : Res := .next (s.branch (!s.sGuard o.g) (s.target19 o) [])

/-- CALL: s63 takes the return position (08 R176). -/
def execCall (o : J19) (s : State) : Res :=
  .next ((if s.sGuard o.g then s.putS 63 (BitVec.ofNat 64 (s.pos + 1)) else s).branch (s.sGuard o.g) (s.target19 o) [])

/-- RET: branch to s[A] (08 R176). -/
def execRet (o : A3) (s : State) : Res := .next (s.branch (s.sGuard o.g) (s.sA o).toNat [s.sA o])

/-- MBEZ: branch when the top mask is empty (08 R176). -/
def execMbez (o : J19) (s : State) : Res :=
  .next (s.branch (s.sGuard o.g && s.topMask == 0) (s.target19 o) [])

/-! ### Indexed jumps (08 R177-R179) -/

/-- The IND packet of an indexed jump (21 Table 21-5). -/
def State.emitInd (s : State) (flag : Bool) (idx target : Nat) : State :=
  s.emitOp 3 flag [BitVec.ofNat 64 (idx + target % 2 ^ 32 * 2 ^ 32)]

/-- The address of a dispatch entry (01 R25). -/
def State.entryVa (s : State) (i : Nat) : Word := s.myGang.image.dtBase + BitVec.ofNat 64 (4 * i)

/-- What reading a dispatch entry through the team's translation gives (01 R25): a table may lie in a recipe tile or on
another device. -/
def State.entryGot (s : State) (i : Nat) : Got :=
  s.gotVa (s.teamCtx s.issue.team) .dispatch [] s.me.remote (s.entryVa i) 2 4

/-- A dispatch entry, or the failure of its read; one that has to be awaited is read later (`awaitEntry`). -/
def State.dispatchEntry (s : State) (i : Nat) : Except Failure Nat :=
  match s.entryGot i with
  | .ok b => .ok (bytesNat b)
  | .fail f => .error f
  | .tile n => .error ⟨.recipeInvalid, (s.part s.myGang.part).tileVa n⟩
  | .remote _ _ a => .error ⟨.fabricError, a⟩

/-- Go on unless entry i has to be awaited: a tile to be rebuilt parks the team, a remote entry is asked of its owner
(13 R301, 18 R372). -/
def State.awaitEntry (s : State) (i : Nat) (k : State) : State :=
  match s.entryGot i with
  | .tile n => s.parkOnTile n s.topMask [(s.entryVa i, 4)]
  | .remote d q a => ((s.ask d q a).holdWalk [(s.entryVa i, 4)]).wait .remote
  | _ => k

/-- The address whose translation a dispatch read used is cached, and the recipe tile it lies in has been read. -/
def State.noteEntry (s : State) (i : Nat) : State :=
  (s.noteXlate (s.teamCtx s.issue.team) (s.entryVa i)).noteRange (s.teamCtx s.issue.team) (s.entryVa i) 4

/-- JIDX: branch to a dispatch entry (08 R177). -/
def execJidx (o : A3) (s : State) : Res :=
  .next (
    if !s.sGuard o.g then (s.emitInd true 0 (s.pos + 1)).fin
    else if s.myGang.image.dtLen ≤ (s.sA o).toNat then s.fault .dispatchRange (s.sA o) s.topMask
    else s.awaitEntry (s.sA o).toNat (match s.dispatchEntry (s.sA o).toNat with
      | .error f => s.fault f.code f.addr s.topMask
      | .ok t => (((s.noteEntry (s.sA o).toNat).emitInd false (s.sA o).toNat t).flow (.jump t)).fin))

/-- The depth a team's mask stack may reach: 32, and 8 in a handler (06 R140). -/
def Team.maskLimit (t : Team) : Nat := if t.handler.isSome then 8 else 32

/-- The least of some lanes' indices. -/
def leastIndex (x : Nat → Lane) : List Nat → Nat
  | [] => 0
  | [l] => (x l).toNat
  | l :: r => min (x l).toNat (leastIndex x r)

/-- The least index that the lanes of a remainder name. -/
def State.leastOf (s : State) (reg : Nat) (rem : LaneMask) : Nat := leastIndex (s.rd.vget reg) (s.active rem)

/-- Serve the lanes of a remainder with the least index: the group, its entry's target, or the fault that forbids it
(08 R178, R179). -/
def State.nextGroup (s : State) (reg : Nat) (rem : LaneMask) : Except (FaultCode × Word × LaneMask) (Nat × LaneMask × Nat) :=
  let x := s.rd.vget reg
  let lanes := s.active rem
  let bad := maskOf (lanes.filter fun l => decide (s.myGang.image.dtLen ≤ (x l).toNat))
  if bad ≠ 0 then
    .error (.dispatchRange, BitVec.ofNat 64 (x ((s.active bad).headD 0)).toNat, bad)
  else
    let i := leastIndex x lanes
    match s.dispatchEntry i with
    | .error f => .error (f.code, f.addr, s.topMask)
    | .ok t => .ok (i, maskOf (lanes.filter fun l => (x l).toNat == i), t)

/-- VJIDX (08 R178). -/
def execVjidx (o : A3) (s : State) : Res :=
  .next (
    let top := s.topMask
    if !s.sGuard o.g || s.active top == [] then
      ((s.emitInd true 0 (s.pos + 1)).emitMask top top s.rd.masks.length).fin
    else match s.nextGroup o.a.toNat top with
      | .error (.dispatchRange, a, l) => s.fault .dispatchRange a l
      | r =>
        if s.me.maskLimit < s.rd.masks.length + 2 then s.faultB .maskStack top
        else s.awaitEntry (s.leastOf o.a.toNat top) (match r with
          | .error (c, a, l) => s.fault c a l
          | .ok (i, g, t) =>
            let rem : MaskEntry := ⟨top &&& ~~~g, true, false, o.a.extractLsb' 0 6, BitVec.ofNat 32 (s.pos + 1)⟩
            let s1 := s.dueOp.modRegs fun r => { r with masks := ⟨g, false, true, 0, 0⟩ :: rem :: r.masks }
            ((((s1.noteEntry i).emitInd false i t).emitMask top g (s.rd.masks.length + 2)).flow (.jump t)).fin))

/-- DJOIN (08 R179). -/
def execDjoin (o : A3) (s : State) : Res :=
  .next (
    if !s.sGuard o.g then ((s.emitInd true 0 (s.pos + 1)).emitMask s.topMask s.topMask s.rd.masks.length).fin
    else match s.rd.masks with
      | top :: rem :: below =>
        if !top.group then s.faultB .maskStack top.mask
        else if s.active rem.mask == [] then
          let new := (below.headD rem).mask
          ((((s.dueOp.modRegs fun r => { r with masks := r.masks.drop 2 }).emitInd true 0 rem.join.toNat).emitMask top.mask new
            below.length).flow (.jump rem.join.toNat)).fin
        else match s.nextGroup rem.idxReg.toNat rem.mask with
          | .error (.dispatchRange, a, l) => s.fault .dispatchRange a l
          | r => s.awaitEntry (s.leastOf rem.idxReg.toNat rem.mask) (match r with
            | .error (c, a, l) => s.fault c a l
            | .ok (i, g, t) =>
              let s1 := s.dueOp.modRegs fun r =>
                { r with masks := { top with mask := g } :: { rem with mask := rem.mask &&& ~~~g } :: r.masks.drop 2 }
              ((((s1.noteEntry i).emitInd false i t).emitMask top.mask g s.rd.masks.length).flow (.jump t)).fin)
      | _ => s.faultB .maskStack s.topMask)

/-! ### Hardware loops (08 R180, R181) -/

/-- Push a loop record: its level's counters restart (21 R416). -/
def State.pushLoop (s : State) (l : LoopRec) : State :=
  s.modMe fun t =>
    let k := t.regs.loops.length
    let t1 := { t with regs := { t.regs with loops := l :: t.regs.loops } }
    if t.handler.isSome then t1
    else
      let base := 0x050 + 12 * k
      { t1 with counters := tset ((List.range 12).foldl (fun c i => tdel c (base + i)) t1.counters) (base + 9) 1 }

/-- LOOP (08 R180). -/
def execLoopOp (o : LpOp) (s : State) : Res :=
  .next (
    let c := s.rd.sget o.n.toNat
    let last := s.pos + o.len.toNat
    if c = 0 then ((s.emitOp 1 false [c]).flow (.leave last)).fin
    else if 4 ≤ s.rd.loops.length then s.faultB .loopNest s.topMask
    else ((s.dueOp.pushLoop ⟨BitVec.ofNat 32 (s.pos + 1), BitVec.ofNat 32 last, c, 0, 0, false, s.pos⟩).emitOp 1 true [c]).fin)

/-- LOOPW (08 R180). -/
def execLoopw (o : LpOp) (s : State) : Res :=
  .next (
    if 4 ≤ s.rd.loops.length then s.faultB .loopNest s.topMask
    else (s.pushLoop ⟨BitVec.ofNat 32 (s.pos + 1), BitVec.ofNat 32 (s.pos + o.len.toNat), 0, o.n.extractLsb' 0 3,
      o.n.extractLsb' 3 2, true, s.pos⟩).fin)

/-- LBRK: the innermost record goes and flow leaves that loop's last position (08 R181). -/
def execLbrk (o : A3) (s : State) : Res :=
  .next (
    if !s.sGuard o.g then (s.emitOp 1 false []).fin
    else match s.rd.loops with
      | [] => s.faultB .loopNest s.topMask
      | l :: _ =>
        (((s.dueOp.modRegs fun r => { r with loops := r.loops.drop 1 }).emitOp 1 true []).flow (.leave l.last.toNat)).fin)

/-! ### The mask stack (08 R183, R184) -/

/-- Replace the mask stack, with its packet. -/
def State.setMasks (s : State) (l : List MaskEntry) : State :=
  (s.dueOp.modRegs fun r => { r with masks := l }).emitMask s.topMask (l.headD ⟨0, false, false, 0, 0⟩).mask l.length

/-- A mask operation under a false guard leaves the stack as it is; its packet says so (21 R423). -/
def State.maskOp (s : State) (g : BitVec 3) (k : State) : State :=
  if s.sGuard g then k else (s.emitMask s.topMask s.topMask s.rd.masks.length).fin

/-- MPUSH: push top AND p[A] (08 R183). -/
def execMpush (o : A3) (s : State) : Res :=
  .next (s.maskOp o.g (
    if s.me.maskLimit ≤ s.rd.masks.length then s.faultB .maskStack s.topMask
    else (s.setMasks (⟨s.topMask &&& s.rd.pget o.a.toNat, false, false, 0, 0⟩ :: s.rd.masks)).fin))

/-- MINV: the top becomes the entry below without it (08 R183). -/
def execMinv (o : A3) (s : State) : Res :=
  .next (s.maskOp o.g (
    match s.rd.masks with
    | top :: below :: r =>
      if top.group || top.disp then s.faultB .maskStack top.mask
      else (s.setMasks ({ top with mask := below.mask &&& ~~~top.mask } :: below :: r)).fin
    | _ => s.faultB .maskStack s.topMask))

/-- MPOP (08 R183). -/
def execMpop (o : A3) (s : State) : Res :=
  .next (s.maskOp o.g (
    match s.rd.masks with
    | top :: below :: r =>
      if top.group || top.disp then s.faultB .maskStack top.mask else (s.setMasks (below :: r)).fin
    | _ => s.faultB .maskStack s.topMask))

/-- The item of MREAD a selector names (08 R184). -/
def Regs.maskItem (r : Regs) (k : Nat) : Option Word :=
  if k < 32 then some ((maskWord r.top.mask k).zeroExtend 64)
  else if k = 32 then some ((summary r.top.mask).zeroExtend 64)
  else if k = 33 then some (BitVec.ofNat 64 r.masks.length)
  else if k = 34 then some (BitVec.ofNat 64 r.loops.length)
  else none

/-- MREAD (08 R184). -/
def execMread (o : A3) (s : State) : Res :=
  .next (s.sOp o.g (
    match s.rd.maskItem (sB s.rd false o.b).toNat with
    | some v => (s.putS o.d v).fin
    | none => s.faultB .operandInvalid s.topMask))

/-! ### Context slots and pools (03 R75, R79, R83, R89) -/

/-- The first place of `need` units in `total` that misses the places taken, given by start. -/
def firstFit (need total : Nat) : Table Nat → Nat → Option Nat
  | [], at_ => if at_ + need ≤ total then some at_ else none
  | (a, n) :: r, at_ => if at_ + need ≤ a then some at_ else firstFit need total r (max at_ (a + n))

/-- Take `need` bytes of a partition's context pool: the lowest place that fits, in whole 4 KiB pages (DESIGN CHOICE, log 50:
03 R75 does not say which). -/
def Part.takePool (p : Part) (need : Nat) : Option (Nat × Part) :=
  let n := ceilDiv need 4096 * 4096
  (firstFit n (p.ctxSize.toNat * 2 ^ 21) p.pool 0).map fun a => (a, { p with pool := tset p.pool a n })

/-- Bytes of a team image (03 R77). -/
def teamImageBytes (vregs lanes : Nat) : Nat := 0x4000 + vregs * lanes * 4

/-- The slots of a core that hold teams, a DRAINING one of a suspended gang among them (21 R410). -/
def State.slotsUsed (s : State) (core : Nat) : List Nat :=
  (s.teams.filter fun t => t.2.core == core && t.2.st != .out && s.onDie (s.gang t.2.gang) && decide (t.2.slot < Config.coreSlots)).map fun t => t.2.slot

/-- The lowest free slots of a core. -/
def State.freeSlots (s : State) (core : Nat) : List Nat :=
  (List.range Config.coreSlots).filter fun k => !(s.slotsUsed core).contains k

/-- Ready OUT teams of resident gangs that must return to a core: their condition holds (03 R83). -/
def State.claims (s : State) (core : Nat) : Nat :=
  (s.teams.filter fun t => t.2.core == core && t.2.st == .out && t.2.waits.isEmpty && !t.2.stopped &&
    !(s.gang t.2.gang).suspended && s.onDie (s.gang t.2.gang)).length

/-- The lowest TEAMID from 128 to 255 that no team of a gang has. -/
def State.childId (s : State) (g : Nat) : Option Nat :=
  let used := (s.teams.filter fun t => t.2.gang == g).map fun t => t.2.teamId
  ((List.range 128).map (· + 128)).find? fun k => !used.contains k

/-- A TFORK child at its start (08 Table 8-4). Its first bundle waits for the stores of its creator made before (08 R185). -/
def Team.child (t : Team) (u id k slot : Nat) (img : Word) (r : Regs) (d entry next tick : Nat) : Team :=
  let regs : Regs := { Regs.zero with
    s := (({ r with s := tset r.s d (r.sget d) }.sset 3 (BitVec.ofNat 64 k))).s
    fmt := r.fmt
    masks := [⟨lanesMask t.lanes, false, false, 0, 0⟩] }
  { Team.absent with
    gang := t.gang, teamId := id, role := t.role, ordinal := k, lanes := t.lanes, vregs := t.vregs, parent := some u
    core := t.core, slot := slot, img := img, fenced := t.fenced, st := .runnable, readySince := tick, pc := entry, skipLand := false
    regs := regs, ckpt := ⟨entry, 0, 0, next, .seq, regs, regs, ⟨none, none, none⟩, false⟩
    birth := some (t.ckptCnt.toNat, tick) }

/-- Create up to n children from ordinal k on; the count created (08 R185). Where the gang has no TEAMID from 128 to 255
free creation stops, as where 03 R89 has no slot or pool for a child (DESIGN CHOICE, log 84: R89 does not name the case). -/
def State.fork (s : State) (r : Regs) (d entry : Nat) : Nat → Nat → State × Nat
  | 0, k => (s, k)
  | n + 1, k =>
    let t := s.me
    let p := (s.gang t.gang).part
    match s.freeSlots t.core, s.childId t.gang, (s.part p).takePool (teamImageBytes t.vregs t.lanes) with
    | slot :: more, some id, some (a, q) =>
      if more.length < s.claims t.core then (s, k)
      else
        let c := t.child s.issue.team id k slot ((s.part p).ctxBase + BitVec.ofNat 64 a) r d entry (nextIndex entry (s.litAt s.issue.team entry)) s.tick
        let s1 := ({ (s.modPart p fun _ => q) with teams := tset s.teams s.uids c, uids := s.uids + 1 } : State).bindSlot c.entity 1
        s1.fork r d entry n (k + 1)
    | _, _, _ => (s, k)

/-- TFORK (08 R185): it never waits; recipe code may not fork (13 Table 13-5). -/
def execTfork (o : A3) (s : State) : Res :=
  .next (s.sOp o.g (
    let n := (sB s.rd false o.b).toNat
    if s.myGang.recompute.isSome then s.faultB .recipeIllegal s.topMask
    else if 32 < n ∨ s.myGang.image.codeLen ≤ (s.sA o).toNat then s.faultB .operandInvalid s.topMask
    else
      let (s1, m) := s.fork s.rd o.d.toNat (s.sA o).toNat n 0
      ((s1.modMe fun t => { t with joinCnt := t.joinCnt + BitVec.ofNat 32 m }).modRegsC fun r =>
        r.sset o.d.toNat (BitVec.ofNat 64 m)).finC))

/-- TJOIN: wait until the join counter is 0; it acquires what the children it counted have done, their copies included
(08 R186). -/
def execTjoin (o : A3) (s : State) : Res :=
  .next (s.sOp o.g (if s.me.joinCnt = 0 then (s.acquireJoined s.issue.team).fin else s.wait .join))

/-- END (08 R187). -/
def execEndOp (o : A3) (s : State) : Res := .next (s.sOp o.g ((s.flow .ended).finC))

/-- The value one WNEXT draws and the launch's counter after it (01 R33). -/
def Launch.draw (l : Launch) : Word × Launch :=
  if l.work.toNat < l.desc.workEnd.toNat then (l.work, { l with work := l.work + 1 }) else (BitVec.allOnes 64, l)

/-- WNEXT: draw a work value; it lands before the eighth bundle on (08 R188, 06 R136). A recompute team has no launch:
its draw returns all ones (13 R305). -/
def execWnext (o : A3) (s : State) : Res :=
  .next (s.sOp o.g (
    let put := fun (x : State) (v : Word) =>
      (x.modRegsC fun r => { r with wnextPend := r.wnextPend ++ [(8, o.d, v)] }).finC
    match s.myGang.launch with
    | none => put s (BitVec.allOnes 64)
    | some l =>
      let d := (s.launch l).draw
      put (s.modLaunch l fun _ => d.2) d.1))

/-- YIELD: the team counts as chosen in this rotation (08 R189). -/
def execYield (o : A3) (s : State) : Res :=
  .next (s.sOp o.g ((s.modCore s.issue.core fun c => { c with rota := s.issue.team :: c.rota }).fin))

/-! ### Traps (08 R190-R192) -/

/-- TRAP: SOFTWARE_TRAP with the value B (08 R190). -/
def execTrap (o : A3) (s : State) : Res :=
  .next (s.sOp o.g (s.fault .softwareTrap (sB s.rd false o.b) s.topMask))

/-- BKPT: BREAKPOINT with the value B, delivered to the debugger first (08 R190, 19 R398). -/
def execBkpt (o : A3) (s : State) : Res :=
  .next (s.sOp o.g (
    let v := sB s.rd false o.b
    if (s.part s.myGang.part).dbgEn then s.debugStop s.issue.team ⟨.breakpoint, v, 0, s.topMask⟩
    else s.fault .breakpoint v s.topMask))

/-- TRET: resume the interrupted team once the bundle is complete (08 R191). -/
def execTret (o : A3) (s : State) : Res :=
  .next (s.sOp o.g (
    let mode := match o.b with
      | .reg x => (s.rd.sget x.toNat).toNat
      | b => b.code
    match s.me.handler with
    | none => s.faultB .operandInvalid s.topMask
    | some h =>
      if mode = 0 ∨ (mode = 1 ∧ (h.frame.code = .softwareTrap ∨ h.frame.code = .breakpoint)) then (s.flow (.tret mode)).fin
      else s.faultB .operandInvalid s.topMask))

/-- CKPT: the checkpoint was taken at dispatch (08 R192). -/
def execCkpt (_ : A3) (s : State) : Res := .next s.fin

/-! ### Control registers (08 R193-R196) -/

/-- SETF and SETC of FMT: the value is in force from the fifth bundle on (08 R194, 06 R135, 07 R155). -/
def State.setFmt (s : State) (v : Word) : State :=
  let w := v.extractLsb' 0 32
  if fmtOk w then (s.modRegs fun r => { r with fmtPend := r.fmtPend ++ [(5, w)] }).fin
  else s.faultB .operandInvalid s.topMask

/-- SETF (08 R194). -/
def execSetf (o : A3) (s : State) : Res := .next (s.sOp o.g (s.setFmt (s.sA o)))

/-- A tile control register as the bundle's slots read it (06 R129). -/
def State.tcSeen (s : State) (n : Nat) : Word :=
  match s.me.flight.bind (·.olds.tc) with
  | some (m, v) => if m = n then v else tget 0 s.myGang.tc n
  | none => tget 0 s.myGang.tc n

/-- A bond register as the bundle's slots read it; 1 before any write (08 R196). -/
def State.bdSeen (s : State) (n : Nat) : Word :=
  match s.me.flight.bind (·.olds.bd) with
  | some (m, v) => if m = n then v else tget 1 s.myGang.bd n
  | none => tget 1 s.myGang.bd n

/-- What the bundle being executed has itself added to a slot counter (21 R417). -/
def Team.ownCount (t : Team) (n : Nat) : Nat :=
  match t.flight with
  | none => 0
  | some f =>
    let hit := fun (i : Nat) => if i < 8 then (if ((f.bundle.slot (i % 4)).opNum = 0) = (4 ≤ i) then 1 else 0) else if i = 8 then 1 else 0
    if n < 0x048 then hit (n - 0x040)
    else if 0x050 ≤ n ∧ t.handler.isNone ∧ (n - 0x050) / 12 < f.before.loops.length then hit ((n - 0x050) % 12)
    else 0

/-- The value of a team control register (08 Table 8-5). -/
def State.ctlRead (s : State) (n : Nat) : Option Word :=
  let t := s.me
  let g := s.myGang
  let r := s.rd
  if n = 0x000 then some (r.fmt.zeroExtend 64)
  else if n = 0x001 then some (BitVec.ofNat 64 t.teamId)
  else if n = 0x002 then some (BitVec.ofNat 64 t.lanes)
  else if n = 0x003 then some (BitVec.ofNat 64 t.core)
  else if n = 0x004 then some (t.migr.zeroExtend 64)
  else if n = 0x005 then some g.image.dtBase
  else if n = 0x006 then some (BitVec.ofNat 64 g.image.dtLen)
  else if n = 0x007 then some ((s.part g.part).parkThr.zeroExtend 64)
  else if n = 0x008 then some (s.dev.ilim.zeroExtend 64)
  else if n = 0x009 then some (s.core t.core).frz
  else if n = 0x00A then some (t.ckptCnt.zeroExtend 64)
  else if n = 0x00B then some s.timer
  else if n = 0x00C then some (BitVec.ofNat 64 g.prio)
  else if n = 0x00D then some (t.joinCnt.zeroExtend 64)
  else if n = 0x00E then some (r.rcpDepth.zeroExtend 64)
  else if 0x020 ≤ n ∧ n ≤ 0x023 then
    some (match r.loops.reverse[n - 0x020]? with
      | some l => if l.loopw then 0 else l.remain
      | none => 0)
  else if 0x040 ≤ n ∧ n ≤ 0x07F then some (tget 0 t.counters n - BitVec.ofNat 64 (t.ownCount n))
  else if 0x080 ≤ n ∧ n ≤ 0x09F ∧ n - 0x080 < g.ntile then some (s.tcSeen (n - 0x080))
  else none

/-- The register number of MOVC and SETC: a field's bits and I6, or s[B] (08 R192). -/
def ctlNumber (r : Regs) (hi : BitVec 8) (b : SrcB) : Nat :=
  match b with
  | .reg x => (r.sget x.toNat).toNat
  | b => hi.toNat * 64 + b.code

/-- MOVC (08 R193). -/
def execMovc (o : A3) (s : State) : Res :=
  .next (s.sOp o.g (
    match s.ctlRead (ctlNumber s.rd o.a o.b) with
    | some v => (s.putS o.d v).fin
    | none => s.faultB .operandInvalid s.topMask))

/-- SETC (08 R194): FMT and RCPDEPTH are the writable registers. Every operation of a later bundle finds the new RCPDEPTH
(DESIGN CHOICE, log 20: 06 R132 lets V and M operations find either value until a SYNC or a checkpoint). -/
def execSetc (o : A3) (s : State) : Res :=
  .next (s.sOp o.g (
    let n := ctlNumber s.rd o.d o.b
    let depth := (s.sA o).extractLsb' 0 4
    if n = 0x000 then s.setFmt (s.sA o)
    else if n = 0x00E ∧ 1 ≤ depth.toNat ∧ depth.toNat ≤ 8 then (s.modRegs fun r => { r with rcpDepth := depth }).fin
    else s.faultB .operandInvalid s.topMask))

/-- MOVBD: a bond dimension from 1 to 256; what the bundle's other slots read is kept (08 R196). -/
def execMovbd (o : A3) (s : State) : Res :=
  .next (s.sOp o.g (
    let v := s.sA o
    if v = 0 ∨ 256 < v.toNat then s.faultB .operandInvalid s.topMask
    else
      let old := tget 1 s.myGang.bd o.d.toNat
      ((s.modMe fun t => { t with flight := t.flight.map fun f => { f with olds := { f.olds with bd := some (o.d.toNat, old) } } }).modMyGang
        fun g => { g with bd := tset g.bd o.d.toNat v }).fin))

end Sys2Proof.Machine
end

