-- ==== Sys2Proof/Machine/Flags.lean ====
section
/-!
DEFINITION. Conditions: the relations that compares write to c and p registers (08 R174, 09 R202, R205), the class word
of a float (09 R206), clamping (07 R148), the division table (07 Table 7-2) and counts of bits (08 Table 8-1).
-/

namespace Sys2Proof.Machine

/-- A relation of the integer compares. -/
inductive Rel where
  | eq | ne | lt | le
deriving DecidableEq, Repr, Inhabited

/-- The relation of two integers. -/
def Rel.holds (r : Rel) (a b : Int) : Bool :=
  match r with
  | .eq => a == b
  | .ne => a != b
  | .lt => decide (a < b)
  | .le => decide (a ≤ b)

/-- The relation of two registers read as signed or unsigned. -/
def Rel.of {w : Nat} (r : Rel) (signed : Bool) (a b : BitVec w) : Bool :=
  if signed then r.holds a.toInt b.toInt else r.holds a.toNat b.toNat

/-- The lesser of two registers. -/
def minOf {w : Nat} (signed : Bool) (a b : BitVec w) : BitVec w := if Rel.le.of signed a b then a else b

/-- The greater of two registers. -/
def maxOf {w : Nat} (signed : Bool) (a b : BitVec w) : BitVec w := if Rel.le.of signed a b then b else a

/-- An integer clamped into the signed or unsigned range of w bits (07 R148). -/
def clampTo (w : Nat) (signed : Bool) (x : Int) : BitVec w :=
  if signed then BitVec.ofInt w (max (-2 ^ (w - 1)) (min (2 ^ (w - 1) - 1) x)) else BitVec.ofInt w (max 0 (min (2 ^ w - 1) x))

/-- Bits of the double-width product above the low w (08 Table 8-1, 09 Table 9-1). -/
def mulHigh {w : Nat} (signed : Bool) (a b : BitVec w) : BitVec w :=
  if signed then BitVec.ofInt w (a.toInt * b.toInt / 2 ^ w) else BitVec.ofNat w (a.toNat * b.toNat / 2 ^ w)

/-- The signed quotient (07 Table 7-2). -/
def sdivOf {w : Nat} (a b : BitVec w) : BitVec w :=
  if b = 0 then (if 0 ≤ a.toInt then BitVec.allOnes w else 1) else BitVec.ofInt w (a.toInt.tdiv b.toInt)

/-- The unsigned quotient (07 Table 7-2). -/
def udivOf {w : Nat} (a b : BitVec w) : BitVec w := if b = 0 then BitVec.allOnes w else BitVec.ofNat w (a.toNat / b.toNat)

/-- The signed remainder (07 Table 7-2). -/
def sremOf {w : Nat} (a b : BitVec w) : BitVec w := if b = 0 then a else BitVec.ofInt w (a.toInt.tmod b.toInt)

/-- The unsigned remainder (07 Table 7-2). -/
def uremOf {w : Nat} (a b : BitVec w) : BitVec w := if b = 0 then a else BitVec.ofNat w (a.toNat % b.toNat)

/-- The absolute value modulo 2^w. -/
def absOf {w : Nat} (a : BitVec w) : BitVec w := if a.msb then -a else a

/-- The number of 1 bits. -/
def popOf {w : Nat} (a : BitVec w) : Nat := ((List.range w).filter fun i => a.getLsbD i).length

/-- Leading zeros; the width when the operand is 0. -/
def clzOf {w : Nat} (a : BitVec w) : Nat := if a = 0 then w else w - 1 - Nat.log2 a.toNat

/-- Trailing zeros; the width when the operand is 0. -/
def ctzOf {w : Nat} (a : BitVec w) : Nat := ((List.range w).find? fun i => a.getLsbD i).getD w

/-- A field of len bits at pos, zero-extended. -/
def bfxOf {w : Nat} (a : BitVec w) (pos len : Nat) : BitVec w := BitVec.ofNat w (a.toNat / 2 ^ pos % 2 ^ len)

/-- A field of len bits at pos replaced by the low bits of a. -/
def bfiOf {w : Nat} (old a : BitVec w) (pos len : Nat) : BitVec w :=
  let m : BitVec w := BitVec.ofNat w ((2 ^ len - 1) * 2 ^ pos)
  (old &&& ~~~m) ||| ((a <<< pos) &&& m)

/-- The relations of the float compares (09 R205). -/
inductive FRel where
  | eq | lt | le | un
deriving DecidableEq, Repr, Inhabited

/-- A float relation holds. -/
def FRel.holds (r : FRel) (a b : FVal) : Bool :=
  match r, a.cmp b with
  | .un, none => true
  | .un, some _ => false
  | _, none => false
  | .eq, some x => x == .eq
  | .lt, some x => x == .lt
  | .le, some x => x != .gt

/-- The class bit of a code of a format (09 R206). -/
def classBit (f : Fmt) (c : Nat) : Nat :=
  let sub := fun (n : Nat) => decide (n < 2 ^ f.tbits)
  match f.decode c with
  | .nan => if c / 2 ^ (f.tbits - 1) % 2 = 1 then 9 else 8
  | .inf s => if s then 0 else 7
  | .fin s n _ =>
    if n = 0 then (if s then 3 else 4)
    else if sub n then (if s then 2 else 5)
    else if s then 1 else 6

end Sys2Proof.Machine
end

