-- ==== Sys2Proof/Machine/CrossLane.lean ====
section
/-!
DEFINITION. Cross-lane operations and membership masks (09 R216-R220, 07 R168), lane reordering (17 R368) and
reservoirs (17 R369).
-/

namespace Sys2Proof.Machine

/-! ### Membership masks (09 R216, R217) -/

/-- Clear the bits of a membership mask that name no word of the team. -/
def trimMask (w : Nat) (m : Lane) : Lane := m &&& BitVec.ofNat 32 (2 ^ (w / 32) - 1)

/-- The mask each active lane supplies, of the vector form. -/
def State.laneMask (s : State) (x : BitVec 8) (l : Nat) : Lane := trimMask s.me.lanes (s.rd.vget x.toNat l)

/-- The active lanes of mask word k. -/
def State.wordLanes (s : State) (m : LaneMask) (k : Nat) : List Nat := (s.active m).filter fun l => l / 32 == k

/-- Word k breaks condition (a), (b) or (c). -/
def State.breaks (s : State) (m : LaneMask) (x : BitVec 8) (k : Nat) : Bool :=
  match s.wordLanes m k with
  | [] => false
  | l :: r =>
    let mk := s.laneMask x l
    !(r.all fun j => s.laneMask x j == mk) || !mk.getLsbD k ||
      (List.range 32).any fun j => mk.getLsbD j && (match s.wordLanes m j with
        | [] => false
        | i :: q => (i :: q).any fun h => s.laneMask x h != mk)

/-- The lanes of the words that break a condition. -/
def State.mismatch (s : State) (m : LaneMask) (x : BitVec 8) : LaneMask :=
  maskOf ((List.range 32).flatMap fun k => if s.breaks m x k then s.wordLanes m k else [])

/-- The groups of participating lanes, each ascending. -/
def State.groups (s : State) (m : LaneMask) (b : SrcB) : List (List Nat) :=
  match b with
  | .reg x =>
    let lanes := s.active m
    ((lanes.map fun l => s.laneMask x l).eraseDups).map fun v => lanes.filter fun l => s.laneMask x l == v
  | b =>
    let v : Lane := match b with
      | .imm i => i.zeroExtend 32
      | .lit sel w => litEntry sel w
      | .reg _ => 0
    [(s.active m).filter fun l => v.getLsbD (l / 32)]

/-- A masked cross-lane operation: the membership check, then an action for the groups. -/
def State.xOp (s : State) (o : A3) (k : List (List Nat) → State) : State :=
  let m := s.effMask o.g
  let bad := match o.b with
    | .reg x => s.mismatch m x
    | _ => 0
  s.vOp m [] [] (if bad ≠ 0 then s.faultB .maskMismatch bad else k (s.groups m o.b))

/-- The group of a lane. -/
def groupOf (gs : List (List Nat)) (l : Nat) : List Nat := (gs.find? fun g => g.contains l).getD []

/-- All participating lanes. -/
def members (gs : List (List Nat)) : LaneMask := maskOf gs.flatten

/-! ### Permutes and votes (09 R218, R219) -/

/-- XPERM: v[A] of the lane v[D] names, 0 where it does not participate. -/
def execXperm (o : A3) (s : State) : Res :=
  .next (s.xOp o fun gs => s.putV o.d (members gs) fun l =>
    let i := (s.rd.vget o.d.toNat l).toNat
    if (groupOf gs l).contains i then s.rd.vget o.a.toNat i else 0)

/-- XBCAST: v[A] of the lowest lane of the group. -/
def execXbcast (o : A3) (s : State) : Res :=
  .next (s.xOp o fun gs => s.putV o.d (members gs) fun l => s.rd.vget o.a.toNat ((groupOf gs l).headD 0))

/-- XSWZ: v[A] of the lane of the same word that v[D] names, 0 where it is not active. -/
def execXswz (o : A3) (s : State) : Res :=
  let m := s.effMask o.g
  .next (s.vOp m [] [] (s.putV o.d m fun l =>
    let i := l / 32 * 32 + (s.rd.vget o.d.toNat l).toNat % 32
    if m.getLsbD i then s.rd.vget o.a.toNat i else 0))

/-- p[A] of a lane. -/
def State.predA (s : State) (o : A3) (l : Nat) : Bool := (s.rd.pget o.a.toNat).getLsbD l

/-- XANY. -/
def execXany (o : A3) (s : State) : Res :=
  .next (s.xOp o fun gs => s.putP o.d (members gs) fun l => (groupOf gs l).any (s.predA o))

/-- XALL. -/
def execXall (o : A3) (s : State) : Res :=
  .next (s.xOp o fun gs => s.putP o.d (members gs) fun l => (groupOf gs l).all (s.predA o))

/-- XBALLOT: each lane holds the ballot word its position in its mask word names. -/
def execXballot (o : A3) (s : State) : Res :=
  .next (s.xOp o fun gs => s.putV o.d (members gs) fun l =>
    let j := l % 32
    BitVec.ofNat 32 ((((groupOf gs l).filter fun i => i / 32 == j && s.predA o i).map fun i => 2 ^ (i % 32)).sum))

/-! ### Reductions (09 R220, 07 R168) -/

/-- A node of the pairwise tree. -/
def treeNode (comb : Lane → Lane → Lane) (leaf : Nat → Option Lane) : Nat → Nat → Option Lane
  | 0, i => leaf i
  | k + 1, i =>
    match treeNode comb leaf k (2 * i), treeNode comb leaf k (2 * i + 1) with
    | some a, some b => some (comb a b)
    | some a, none => some a
    | none, b => b

/-- The levels of the tree over W lanes. -/
def treeLevels (w : Nat) : Nat := Nat.log2 (w - 1) + 1

/-- TreeSum over the lanes of a group. -/
def State.treeSum (s : State) (comb : Lane → Lane → Lane) (x : BitVec 8) (lanes : List Nat) : Lane :=
  let m := maskOf lanes
  (treeNode comb (fun i => if m.getLsbD i then some (s.rd.vget x.toNat i) else none) (treeLevels s.me.lanes) 0).getD 0

/-- A binary32 value with every NaN made the canonical one (07 R151): a tree of one leaf combines nothing. -/
def canonF (x : Lane) : Lane :=
  match f32.decode x.toNat with
  | .nan => BitVec.ofNat 32 f32.nanCode
  | _ => x

/-- A reduction: every lane of a group takes its tree's value, after `fin`. -/
def State.xRed (s : State) (o : A3) (comb : Lane → Lane → Lane) (fin : Lane → Lane := id) : State :=
  s.xOp o fun gs =>
    let sums := gs.map fun g => (g, fin (s.treeSum comb o.a g))
    s.putV o.d (members gs) fun l => ((sums.find? fun p => p.1.contains l).map (·.2)).getD 0

/-- A scan: a lane takes the tree over its group's lanes up to itself, after `fin`. -/
def State.xScan (s : State) (o : A3) (comb : Lane → Lane → Lane) (fin : Lane → Lane := id) : State :=
  s.xOp o fun gs =>
    s.putV o.d (members gs) fun l => fin (s.treeSum comb o.a ((groupOf gs l).filter fun i => decide (i ≤ l)))

/-- Combine of the binary32 sums under FMT.RM. -/
def State.addF (s : State) (a b : Lane) : Lane :=
  let rm := fmtRm s.rd.fmt
  BitVec.ofNat 32 ((FVal.add (rm == .rdn) (f32.decode a.toNat) (f32.decode b.toNat)).round f32 rm false)

/-- Combine of the binary32 minima and maxima. -/
def pickF (f : FVal → FVal → FVal) (a b : Lane) : Lane :=
  BitVec.ofNat 32 ((f (f32.decode a.toNat) (f32.decode b.toNat)).round f32 .rne false)

/-- XRED.i32. -/
def execXredI32 (o : A3) (s : State) : Res := .next (s.xRed o fun a b => a + b)

/-- XRED.f32. -/
def execXredF32 (o : A3) (s : State) : Res := .next (s.xRed o s.addF canonF)

/-- XREDMIN.s32. -/
def execXredminS32 (o : A3) (s : State) : Res := .next (s.xRed o (minOf true))

/-- XREDMIN.n32. -/
def execXredminN32 (o : A3) (s : State) : Res := .next (s.xRed o (minOf false))

/-- XREDMIN.f32. -/
def execXredminF32 (o : A3) (s : State) : Res := .next (s.xRed o (pickF FVal.min) canonF)

/-- XREDMAX.s32. -/
def execXredmaxS32 (o : A3) (s : State) : Res := .next (s.xRed o (maxOf true))

/-- XREDMAX.n32. -/
def execXredmaxN32 (o : A3) (s : State) : Res := .next (s.xRed o (maxOf false))

/-- XREDMAX.f32. -/
def execXredmaxF32 (o : A3) (s : State) : Res := .next (s.xRed o (pickF FVal.max) canonF)

/-- XSCAN.i32. -/
def execXscanI32 (o : A3) (s : State) : Res := .next (s.xScan o fun a b => a + b)

/-- XSCAN.f32. -/
def execXscanF32 (o : A3) (s : State) : Res := .next (s.xScan o s.addF canonF)

/-! ### Lane reordering (17 R368) -/

/-- Insert a lane in ascending order of key, lanes of one key in their order. -/
def insertLane (key : Nat → Nat) (l : Nat) : List Nat → List Nat
  | [] => [l]
  | x :: r => if key l < key x then l :: x :: r else x :: insertLane key l r

/-- The lanes of a team sorted by key and index. -/
def sortLanes (key : Nat → Nat) (w : Nat) : List Nat := (List.range w).foldl (fun acc l => insertLane key l acc) []

/-- Permute a mask's bits over W lanes. -/
def permMask (w : Nat) (pi : List Nat) (m : LaneMask) : LaneMask :=
  maskOf ((List.range w).filter fun j => m.getLsbD (pi.getD j 0)) ||| (m &&& ~~~(lanesMask w))

/-- The register state with the moved set permuted: n registers from d, register a, p1 to p7 and the mask; lanes that a
higher slot has written keep its value (06 R129). -/
def Regs.permute (r old : Regs) (w d n a : Nat) (pi : List Nat) (kept : Nat → LaneMask) : Regs :=
  let full := lanesMask w
  let move := fun (q : Regs) (x : Nat) => q.vput w x (full &&& ~~~(kept x)) fun j => old.vget x (pi.getD j 0)
  let r1 := (a :: (List.range n).map (d + ·)).foldl move r
  let r2 := (List.range 7).foldl (fun q k => q.pset (k + 1) (permMask w pi (old.pget (k + 1)))) r1
  { r2 with masks := r2.masks.dropLast ++ (r2.masks.getLast?.toList.map fun e =>
      { e with mask := permMask w pi old.top.mask }) }

/-- TREORD (17 R368). -/
def execTreord (o : A3) (s : State) : Res :=
  .next (
    if s.rd.masks.length ≠ 1 then s.faultB .maskStack s.topMask
    else
      let w := s.me.lanes
      let top := s.topMask
      let key := fun (l : Nat) => if top.getLsbD l then (s.rd.vget o.a.toNat l).toNat % 2 ^ 24 else 2 ^ 24
      let pi := sortLanes key w
      let s1 := s.dueOp.modRegs fun r => r.permute s.rd w o.d.toNat (o.b.code + 1) o.a.toNat pi s.keptLanes
      (s1.emitMask top (permMask w pi top) 1).fin)

/-! ### Reservoirs (17 R369) -/

/-- A random operand taken into [0, 1). -/
def unitRandom (x : Lane) : FVal :=
  match f32.decode x.toNat with
  | .nan => .fin false 0 0
  | v => if v.isNeg then .fin false 0 0 else v.min (f32.decode 0x3F7FFFFF)

/-- A weight taken as 0 where it is NaN, infinite or negative. -/
def cleanWeight (x : Lane) : FVal :=
  match f32.decode x.toNat with
  | .fin false n e => .fin false n e
  | _ => .fin false 0 0

/-- One lane of a reservoir: WSUM, ID, counts and target, given the candidate's weight, ID, target and count. -/
def reservoir (wsum id mc tgt : Lane) (w : FVal) (cid ctgt : Lane) (cm : Nat) (r : FVal) : List Lane :=
  let raw := (FVal.add false (f32.decode wsum.toNat) w).round f32 .rne false
  let S := if raw = 0x7F800000 then 0x7F7FFFFF else raw
  let take := !w.isZero && (r.mul (f32.decode S)).cmp w == some .lt
  let cap := mc.toNat / 65536
  let m := min (mc.toNat % 65536 + cm) cap
  [BitVec.ofNat 32 S, if take then cid else id, BitVec.ofNat 32 (m + cap * 65536), if take then ctgt else tgt]

/-- The four registers of a reservoir update; `merge` takes the candidate from another reservoir. -/
def State.rsv (s : State) (o : A3) (merge : Bool) : State :=
  let m := s.effMask o.g
  let rx := match o.b with
    | .reg x => x
    | _ => 0
  let v := fun (i l : Nat) => s.rd.vget i l
  let d := o.d.toNat
  let a := o.a.toNat
  let out := fun (l : Nat) => reservoir (v d l) (v (d + 1) l) (v (d + 2) l) (v (d + 3) l) (cleanWeight (v a l)) (v (a + 1) l)
    (v (if merge then a + 3 else a + 2) l) (if merge then (v (a + 2) l).toNat % 65536 else 1) (unitRandom (v rx.toNat l))
  s.vOp m [] [] ((((s.putReg d m fun l => (out l).getD 0 0).putReg (d + 1) m fun l => (out l).getD 1 0).putReg (d + 2) m
    fun l => (out l).getD 2 0).putReg (d + 3) m fun l => (out l).getD 3 0)

/-- RSVUPD (17 R369). -/
def execRsvupd (o : A3) (s : State) : Res := .next (s.rsv o false)

/-- RSVMRG (17 R369). -/
def execRsvmrg (o : A3) (s : State) : Res := .next (s.rsv o true)

end Sys2Proof.Machine
end

