-- ==== Sys2Proof/Machine/Trellis.lean ====
section
/-!
DEFINITION. The Trellis engine as teams use it: tile control registers, busy bits, the reservation table and the
commands that enter it, TTOV and VTOT (12 R267-R284, R286-R290).
-/

namespace Sys2Proof.Machine

/-! ### Tile control registers (12 R268, R269) -/

/-- FORMAT of a tile control register. -/
def tcFormat (w : Word) : Nat := (w.extractLsb' 0 4).toNat

/-- Rows of a tile. -/
def tcRows (w : Word) : Nat := (w.extractLsb' 8 8).toNat + 1

/-- Columns of a tile. -/
def tcCols (w : Word) : Nat := (w.extractLsb' 16 8).toNat + 1

/-- SCALE: 0 none, 1 QA, 2 QB. -/
def tcScale (w : Word) : Nat := (w.extractLsb' 27 2).toNat

/-- The binary8 format of a tile. -/
def tcFmt8 (w : Word) : Fmt8 := ⟨(w.extractLsb' 29 3).toNat + 1, w.getLsbD 32, w.getLsbD 33⟩

/-- The codebook number of a tile. -/
def tcCb (w : Word) : Nat := (w.extractLsb' 34 6).toNat

/-- Bytes of an element. -/
def tcElem (w : Word) : Nat := if tcFormat w = 1 then 4 else if tcFormat w = 2 ∨ tcFormat w = 3 then 2 else 1

/-- Block scales of a row. -/
def tcBlocks (w : Word) : Nat :=
  if tcScale w = 1 then ceilDiv (tcCols w) 32 else if tcScale w = 2 then ceilDiv (tcCols w) 64 else 0

/-- Scale bytes of a row: a QB row begins with its BF16 row scale. -/
def tcScaleRow (w : Word) : Nat := tcBlocks w + (if tcScale w = 2 then 2 else 0)

/-- Data bytes of a tile. -/
def tcData (w : Word) : Nat := tcRows w * tcCols w * tcElem w

/-- A tile's footprint in bytes. -/
def tcFootprint (w : Word) : Nat :=
  if tcFormat w = 0 then 0 else ceilDiv (tcData w + tcRows w * tcScaleRow w) 4096 * 4096

/-- A tile control value breaks no condition of Table 12-1. -/
def tcOk (w : Word) : Bool :=
  let f := tcFormat w
  w.extractLsb' 40 24 == 0 && (f == 5 || tcCb w == 0) && (f == 4 || (!w.getLsbD 33 && !w.getLsbD 32 && w.extractLsb' 29 3 == 0)) &&
    w.extractLsb' 29 3 != 7 && tcScale w != 3 && (f == 4 || tcScale w == 0) && w.extractLsb' 24 3 == 0 &&
    w.extractLsb' 4 4 == 0 && decide (f ≤ 5)

/-- Where row r's scale bytes begin among a tile's bytes. -/
def scaleAt (w : Word) (r : Nat) : Nat := tcData w + r * tcScaleRow w

/-- The bytes of a tile just allocated: data and scales 0, QB row scales 1.0 (12 R270). -/
def freshBytes (w : Word) : Memory :=
  if tcScale w = 2 then (List.range (tcRows w)).foldl (fun m r => Memory.writeBytes m (scaleAt w r) [0x80, 0x3F]) []
  else []

/-- Tile n of a gang. -/
def Gang.tile (g : Gang) (n : Nat) : Tile := tget default g.tiles n

/-- The first poisoned line that some ranges of tiles meet (10 R228). -/
def Gang.badTile (g : Gang) (l : List (Nat × Nat × Nat)) : Option Nat :=
  l.findSome? fun x => if x.2.2 = 0 then none else badLine (g.tile x.1).bad x.2.1 x.2.2

/-- A gang with `f` applied to tile n. -/
def Gang.modTile (g : Gang) (n : Nat) (f : Tile → Tile) : Gang := { g with tiles := tset g.tiles n (f (g.tile n)) }

/-! ### Busy bits (12 R271) -/

/-- What an operation that reads and writes tiles must wait for first: the handover of a victim's tiles (03 R85), then
busy bits. -/
def Gang.tileWait (g : Gang) (reads writes : List Nat) : Option WaitCond :=
  if g.newTiles && !(reads.isEmpty && writes.isEmpty) then some .newTiles
  else match writes.find? fun n => (g.tile n).wb || (g.tile n).rb != 0 with
    | some n => some (.tileIdle n true)
    | none => (reads.find? fun n => (g.tile n).wb).map fun n => .tileIdle n false

/-- Go on once tiles are idle. -/
def State.tilesIdle (s : State) (reads writes : List Nat) (k : State) : State :=
  match s.myGang.tileWait reads writes with
  | some c => s.wait c
  | none => k

/-- MOVTC (08 R195, 12 R268-R270): once tile D is idle the value is checked; one that differs reallocates the tile and
commits, so that it first raises the failure of an earlier store (18 R374). -/
def execMovtc (o : A3) (s : State) : Res :=
  .next (s.sOp o.g (
    let n := o.d.toNat
    let v := s.sA o
    s.tilesIdle [] [n] (
      let g := s.myGang
      let old := tget 0 g.tc n
      let total := ((List.range g.ntile).map fun k => tcFootprint (if k = n then v else tget 0 g.tc k)).sum
      if !tcOk v then s.faultB .operandInvalid s.topMask
      else if g.tileKb * 65536 < total then s.fault .tileBudget (BitVec.ofNat 64 n) s.topMask
      else if v = old then s.fin
      else s.raised s.topMask (
        let s1 := s.checkpointHere.modMe fun t =>
          { t with flight := t.flight.map fun f => { f with olds := { f.olds with tc := some (n, old) } } }
        (s1.modMyGang fun g => { (g.modTile n fun t => { t with bytes := freshBytes v, bad := [] }) with tc := tset g.tc n v }).finC))))

/-! ### The reservation table (12 R272) -/

/-- The cluster a gang's tiles lie in. -/
def Gang.cluster_ (g : Gang) : Nat := if g.cluster then g.place else g.place / 4

/-- The commands in a cluster's reservation table, with their gangs. -/
def State.table (s : State) (cl : Nat) : List (Nat × TrellisCmd) :=
  (s.gangs.filter fun g => g.2.cluster_ == cl && !g.2.trellis.isEmpty && s.onDie g.2).flatMap fun g => g.2.trellis.map fun c => (g.1, c)

/-- Mark the tiles of an accepted command busy. -/
def Gang.markBusy (g : Gang) (reads writes : List Nat) : Gang :=
  let g1 := writes.foldl (fun x n => x.modTile n fun t => { t with wb := true }) g
  (reads.filter fun n => !writes.contains n).eraseDups.foldl (fun x n => x.modTile n fun t => { t with rb := t.rb + 1 }) g1

/-- The tile control registers, by tile, of the tiles a command names. -/
def State.captureTcs (s : State) (l : List Nat) : Table Word := l.foldl (fun t n => tset t n (s.tcSeen n)) []

/-- The bond registers as a command captures them. -/
def State.captureBds (s : State) : Table Word := (List.range 9).foldl (fun t n => tset t n (s.bdSeen n)) []

/-- The memory pieces of row r of a transfer: gang-store flag, address, tile offset, bytes. -/
def transferRow (w : Word) (r : List Byte) (i : Nat) : List (Nat × Word × Nat × Nat) :=
  let sp := fieldAt r 0x1C 1 % 2
  let n := tcCols w * tcElem w
  let nb := tcBlocks w
  let data := (sp, BitVec.ofNat 64 (fieldAt r 0 8) + strideAt r 0x18 * BitVec.ofNat 64 i, i * n, n)
  let scl := fun (off : Nat) => (0, BitVec.ofNat 64 (fieldAt r 8 8 + i * nb), off, nb)
  match tcScale w with
  | 1 => [data, scl (scaleAt w i)]
  | 2 => [data, (0, BitVec.ofNat 64 (fieldAt r 0x10 8 + 2 * i), scaleAt w i, 2), scl (scaleAt w i + 2)]
  | _ => [data]

/-- Bytes of a core element, and of a chain core's row entries, as the engine reads them: the lengths of CADDR, SCL and
RSCL data of a step (12 R286). -/
def ChainStep.lengths (x : ChainStep) (bds : Table Word) : Nat × Nat × Nat :=
  let rows := (tget 1 bds (x.k - 1)).toNat * x.m * x.n
  let rk := (tget 1 bds x.k).toNat
  (match x.cfmt with
    | 0 => 4 * rows * rk
    | 1 => 2 * rows * rk
    | 4 => rows * (rk / 4)
    | _ => rows * rk, rows * ceilDiv rk 64, 2 * rows)

/-- The ranges of virtual memory a command reaches, for its mapping (10 R238). -/
def TrellisOp.ranges (op : TrellisOp) (tcs cbs bds : Table Word) : List (Word × Nat) :=
  let rows := fun (n : Nat) (r : List Byte) =>
    let w := tget 0 tcs n
    (((List.range (tcRows w)).flatMap (transferRow w r)).filter fun x => x.1 == 0).map fun x => (x.2.1, x.2.2.2)
  match op with
  | .tld n r => rows n r
  | .tst n r => rows n r
  | .tmma 2 _ _ b => [(tget 0 cbs (tcCb (tget 0 tcs b)), 2048)]
  | .tchain _ _ _ _ steps => steps.flatMap fun x =>
      let l := x.lengths bds
      (x.caddr, l.1) :: (if x.cfmt = 3 then [(x.scl, l.2.1), (x.rscl, l.2.2)]
        else if x.cfmt = 4 then [(tget 0 cbs x.cb, 2048)] else [])
  | .cbload _ va => [(va, 2048)]
  | _ => []

/-- A command whose checks have passed waits for its tiles and a place in the table, then enters it (12 R271, R272). -/
def State.trellisIssue (s : State) (op : TrellisOp) (reads writes : List Nat) : State :=
  s.tilesIdle reads writes (
    if 64 ≤ (s.table s.myGang.cluster_).length then s.wait .engineTable
    else
      let g := s.myGang
      let c : TrellisCmd := ⟨g.trellisNum + 1, s.issue.team, op, s.captureTcs (reads ++ writes), g.cbs, s.captureBds, s.rd.fmt,
        s.uids, 0, false, false, none,
        s.mapping (s.teamCtx s.issue.team) (op.ranges (s.captureTcs (reads ++ writes)) g.cbs s.captureBds)⟩
      (({ s with uids := s.uids + 1 }).modMyGang fun g =>
        { g.markBusy reads writes with trellisNum := g.trellisNum + 1, trellis := g.trellis ++ [c] }).finC)

/-- The first tile of a list whose FORMAT is 0 (12 R268). -/
def State.noFormat (s : State) (l : List Nat) : Option Nat := l.find? fun n => tcFormat (s.tcSeen n) == 0

/-- A TILE_SHAPE fault naming a tile. -/
def State.tileShape (s : State) (n : Nat) (m : LaneMask) : State := s.fault .tileShape (BitVec.ofNat 64 n) m

/-- A command that first checks its tiles have a format. -/
def State.tileOps (s : State) (g : BitVec 3) (tiles : List Nat) (k : LaneMask → State) : State :=
  s.uniC g fun m => s.drained m (match s.noFormat tiles with
    | some n => s.tileShape n m
    | none => k m)

/-! ### Transfers and TZERO (12 R277-R279) -/

/-- The transfer record's fields are in range (12 Table 12-3). -/
def transferOk (w : Word) (r : List Byte) : Bool :=
  decide (fieldAt r 0x1C 4 < 2) && (tcScale w != 0 || fieldAt r 8 8 == 0) && (tcScale w == 2 || fieldAt r 0x10 8 == 0)

/-- The transfer record's addresses are aligned: the first that is not. -/
def transferAlign (w : Word) (r : List Byte) : Option Word :=
  let n := tcElem w
  if fieldAt r 0 8 % n ≠ 0 ∨ fieldAt r 0x18 4 % n ≠ 0 then some (BitVec.ofNat 64 (fieldAt r 0 8))
  else if fieldAt r 0x10 8 % 2 ≠ 0 then some (BitVec.ofNat 64 (fieldAt r 0x10 8))
  else none

/-- TLD and TST. -/
def State.transfer (s : State) (o : A3) (store : Bool) : State :=
  let n := o.d.toNat
  s.tileOps o.g [n] fun m => s.uniReadIn o.b.code (s.sA o) 32 32 m fun s r =>
    let w := s.tcSeen n
    if !transferOk w r then s.faultB .operandInvalid m
    else match transferAlign w r with
      | some a => s.fault .alignment a m
      | none => if store then s.trellisIssue (.tst n r) [n] [] else s.trellisIssue (.tld n r) [] [n]

/-- TLD. -/
def execTld (o : A3) (s : State) : Res := .next (s.transfer o false)

/-- TST. -/
def execTst (o : A3) (s : State) : Res := .next (s.transfer o true)

/-- TZERO. -/
def execTzero (o : A3) (s : State) : Res :=
  .next (s.tileOps o.g [o.d.toNat] fun _ => s.trellisIssue (.tzero o.d.toNat) [] [o.d.toNat])

/-! ### Products (12 R281, R282) -/

/-- The kinds of product: TMMA, TMMAQ, TMMAV. -/
def productFormats (kind : Nat) (a b : Word) : Bool :=
  let half := fun (f : Nat) => f == 2 || f == 3
  match kind with
  | 0 => tcScale a == 0 && tcScale b == 0 && ((tcFormat a == 1 && tcFormat b == 1) ||
      (half (tcFormat a) && half (tcFormat b)) || (tcFormat a == 4 && tcFormat b == 4))
  | 1 => tcFormat a == 4 && tcFormat b == 4 && tcScale a != 0 && tcScale b != 0
  | _ => half (tcFormat a) && tcFormat b == 5

/-- The first tile, of A then B, whose shape disagrees. -/
def productShape (kind : Nat) (d a b : Word) : Option Bool :=
  if tcRows a ≠ tcRows d then some false
  else if tcRows b ≠ tcCols d ∨ tcCols b * (if kind = 2 then 4 else 1) ≠ tcCols a then some true
  else none

/-- TMMA, TMMAQ and TMMAV. -/
def State.product (s : State) (o : A3) (kind : Nat) : State :=
  let d := o.d.toNat
  let a := o.a.toNat
  let b := o.b.code
  s.tileOps o.g [d, a, b] fun m =>
    let wd := s.tcSeen d
    let wa := s.tcSeen a
    let wb := s.tcSeen b
    if !productFormats kind wa wb || !(tcFormat wd == 1 || tcFormat wd == 2) then s.faultB .operandInvalid m
    else match productShape kind wd wa wb with
      | some x => s.tileShape (if x then b else a) m
      | none =>
        if kind = 2 ∧ tget 0 s.myGang.cbs (tcCb wb) = 0 then s.fault .codebook (BitVec.ofNat 64 (tcCb wb)) m
        else s.trellisIssue (.tmma kind d a b) [a, b] [d]

/-- TMMA. -/
def execTmma (o : A3) (s : State) : Res := .next (s.product o 0)

/-- TMMAQ. -/
def execTmmaq (o : A3) (s : State) : Res := .next (s.product o 1)

/-- TMMAV. -/
def execTmmav (o : A3) (s : State) : Res := .next (s.product o 2)

/-! ### Conversion and codebooks (12 R283, R284) -/

/-- TCVT's table admits the pair of tiles A and D. -/
def convertOk (a d : Word) : Bool :=
  tcFormat a != 5 && tcFormat d != 5 &&
    (if tcScale a = 0 then tcScale d == 0 || tcFormat a != 4
     else tcScale d == 0 && (tcFormat d == 1 || tcFormat d == 2))

/-- TCVT (12 R283): the pair of formats is tested before the shapes (DESIGN CHOICE, log 90: R282 orders the checks of R281
alone). -/
def execTcvt (o : A3) (s : State) : Res :=
  .next (s.tileOps o.g [o.d.toNat, o.a.toNat] fun m =>
    let wd := s.tcSeen o.d.toNat
    let wa := s.tcSeen o.a.toNat
    if !convertOk wa wd then s.faultB .operandInvalid m
    else if tcRows wa ≠ tcRows wd ∨ tcCols wa ≠ tcCols wd then s.tileShape o.a.toNat m
    else s.trellisIssue (.tcvt o.d.toNat o.a.toNat) [o.a.toNat] [o.d.toNat])

/-- The lookup key of a codebook: partition, physical address and key ID (12 R285). -/
def bookKey (p pa : Nat) (key : BitVec 12) : Nat := (p * 2 ^ 52 + pa) * 4096 + key.toNat

/-- The codebook that a CBLOAD binds leaves the lookup SRAM of the cluster, to be filled anew (12 R285: CBLOAD starts a
fill); one that unbinds starts none. -/
def State.refill (s : State) (va : Word) : State :=
  if va = 0 then s else
  match s.check (s.teamCtx s.issue.team) .load va 2048 2048 with
  | .error _ => s
  | .ok (_, l) =>
    let cl := s.myGang.cluster_
    let k := bookKey s.myGang.part l.pa l.key
    { s with ms := { s.ms with lookup := tset s.ms.lookup cl ((tget [] s.ms.lookup cl).filter fun e => e.1 != k) } }

/-- CBLOAD: bind or unbind a codebook number for the commands accepted after it; a key check that fails is the fill's
(12 R284, R285). -/
def execCbload (o : A3) (s : State) : Res :=
  .next (s.uniC o.g fun m => s.drained m (
    let n := (sB s.rd false o.b).toNat
    let va := s.sA o
    let bind := fun (x : State) =>
      if 64 ≤ (x.table x.myGang.cluster_).length then x.wait .engineTable
      else ((x.refill va).modMyGang fun g => { g with cbs := tset g.cbs n va }).trellisIssue (.cbload n va) [] []
    if 63 < n then s.faultB .operandInvalid m
    else if va = 0 then bind s
    else match s.check (s.teamCtx s.issue.team) .load va 2048 2048 with
      | .error .keyInvalid => bind s
      | .error f => s.fault f (faultAddr f va) m
      | .ok _ => bind s))

/-! ### TTOV and VTOT (12 R280) -/

/-- Element e of a tile as raw bytes. -/
def Tile.raw (t : Tile) (w : Word) (e : Nat) : Nat := bytesNat (Memory.readBytes t.bytes (e * tcElem w) (tcElem w))

/-- The row operand of TTOV and VTOT, and the checks both make. -/
def State.rowOp (s : State) (o : A3) (n : Nat) (m : LaneMask) (k : Word → Nat → State) : State :=
  let w := s.tcSeen n
  let r := sB s.rd false o.b
  if tcFormat w = 0 then s.tileShape n m
  else if tcRows w ≤ r.toNat then s.faultB .operandInvalid m
  else k w r.toNat

/-- TTOV: elements of a row, on past it into the rows that follow, into the lanes. -/
def execTtov (o : A3) (s : State) : Res :=
  .next (s.uni o.g fun m => s.rowOp o o.a.toNat m fun w r => s.tilesIdle [o.a.toNat] [] (
    let t := s.myGang.tile o.a.toNat
    let poisoned := fun (l : Nat) =>
      let e := r * tcCols w + l
      if e < tcRows w * tcCols w then badLine t.bad (e * tcElem w) (tcElem w) else none
    match (s.active m).findSome? poisoned with
    | some a => s.fault .poison (BitVec.ofNat 64 a) (maskOf ((s.active m).filter fun l => (poisoned l).isSome))
    | none =>
      (s.putV o.d m fun l =>
        let e := r * tcCols w + l
        if e < tcRows w * tcCols w then BitVec.ofNat 32 (t.raw w e) else 0).fin))

/-- VTOT: the lanes' elements into a tile. -/
def execVtot (o : A3) (s : State) : Res :=
  .next (s.uniC o.g fun m => s.rowOp o o.d.toNat m fun w r => s.tilesIdle [] [o.d.toNat] (
    let put := fun (b : Memory) (l : Nat) =>
      let e := r * tcCols w + l
      if e < tcRows w * tcCols w then
        Memory.writeBytes b (e * tcElem w) (natBytes (s.vsrc o.a l).toNat (tcElem w))
      else b
    let cells := tcRows w * tcCols w
    (s.modMyGang fun g => g.modTile o.d.toNat fun t => { t with
      bytes := (s.active m).foldl put t.bytes
      bad := mendedBy t.bad fun b =>
        let e := b / tcElem w
        decide (e < cells ∧ r * tcCols w ≤ e) && decide (e - r * tcCols w < 1024) && m.getLsbD (e - r * tcCols w) }).finC))

/-! ### TCHAIN (12 R286-R290) -/

/-- A step record. -/
def parseStep (r : List Byte) : ChainStep :=
  let w := fieldAt r 0 4
  ⟨bitsOf w 2 0 + 1, bitsOf w 3 3 == 1, bitsOf w 6 4, bitsOf w 7 7 == 1, bitsOf w 13 8 + 1, bitsOf w 19 14 + 1,
    bitsOf w 22 20 + 1, bitsOf w 23 23 == 1, bitsOf w 24 24 == 1, bitsOf w 30 25, BitVec.ofNat 64 (fieldAt r 8 8),
    BitVec.ofNat 64 (fieldAt r 0x10 8), BitVec.ofNat 64 (fieldAt r 0x18 8)⟩

/-- A header's reserved fields are 0, its steps make whole sweeps, and the outer bonds are 1 (12 R290). -/
def chainHeaderOk (h : List Byte) (bds : Table Word) : Bool :=
  let w := fieldAt h 0 4
  let d := bitsOf w 6 4 + 1
  bitsOf w 15 7 == 0 && allZero (h.drop 4) && (bitsOf w 3 0 + 1) % d == 0 && tget 1 bds 0 == 1 && tget 1 bds d == 1

/-- Bytes of a core element by CFMT. -/
def coreElem (cfmt : Nat) : Nat := if cfmt = 0 then 4 else if cfmt = 1 then 2 else 1

/-- Step i of a program breaks no condition of check 4 (12 R290). -/
def chainStepOk (d : Nat) (bds : Table Word) (recs : List (List Byte)) (i : Nat) : Bool :=
  let r := recs.getD i []
  let w := fieldAt r 0 4
  let x := parseStep r
  let b8 := x.cfmt == 2 || x.cfmt == 3
  let first := parseStep (recs.getD (i / d * d) [])
  let prev := ((recs.drop ((i / d - 1) * d)).take d).map parseStep
  bitsOf w 31 31 == 0 && fieldAt r 4 4 == 0 && decide (x.cfmt ≤ 4) && (b8 || (x.p == 1 && !x.u && !x.x)) &&
    decide (x.p ≤ 7) && (x.cfmt == 4 || x.cb == 0) && (x.cfmt == 3 || (x.scl == 0 && x.rscl == 0)) &&
    decide (x.rscl.toNat % 2 = 0) && decide (x.caddr.toNat % coreElem x.cfmt = 0) && decide (x.k ≤ d) &&
    (x.cfmt != 4 || decide ((tget 1 bds x.k).toNat % 4 = 0)) && x.right == first.right &&
    x.k == (if first.right then d - i % d else i % d + 1) &&
    (decide (i < d) || prev.all fun y => y.k != x.k || y.m == x.n)

/-- The product of a list of numbers chosen by core. -/
def prodOf (l : List ChainStep) (f : ChainStep → Nat) : Nat := (l.map f).prod

/-- The steps of the sweep that holds step i, in core order. -/
def sweepOf (d : Nat) (steps : List ChainStep) (i : Nat) : List ChainStep :=
  let l := (steps.drop (i / d * d)).take d
  if (l.headD default).right then l.reverse else l

/-- The result size of step i (12 R291). -/
def stepSize (d batch : Nat) (bds : Table Word) (steps : List ChainStep) (i : Nat) : Nat :=
  let x := steps.getD i default
  let sw := sweepOf d steps i
  let bd := fun (k : Nat) => (tget 1 bds k).toNat
  if x.right then
    batch * prodOf (sw.take (x.k - 1)) (·.n) * bd (x.k - 1) * prodOf (sw.drop (x.k - 1)) (·.m)
  else batch * prodOf (sw.take x.k) (·.m) * bd x.k * prodOf (sw.drop x.k) (·.n)

/-- TCHAIN: the order program is read and checked, then the command enters the table with every tile of its range
written. The sizes are those of check 6 of 12 R290, which with bd1 = 4 and halves of 32 words fault CHAIN_OVERFLOW, against
the last sentence of 14 R315 (DEDUCED, log 92). -/
def execTchain (o : A3) (s : State) : Res :=
  .next (s.uniC o.g fun m => s.drained m (
    let d0 := o.d.toNat
    let h := o.b.code
    let range := (List.range (2 * h)).map (· + d0)
    if s.myGang.ntile < d0 + 2 * h then s.faultB .operandInvalid m
    else s.uniReadIn 0 (s.sA o) 32 32 m fun s hd =>
      let nst := bitsOf (fieldAt hd 0 4) 3 0 + 1
      let d := bitsOf (fieldAt hd 0 4) 6 4 + 1
      let batch := fieldAt hd 2 2 + 1
      s.uniRead (s.sA o + 32) (32 * nst) m fun s body =>
        let recs := pieces 32 nst body
        let steps := recs.map parseStep
        let bds := s.captureBds
        let cap := fun (half : Nat) => (((range.drop (half * h)).take h).map fun n => tcRows (s.tcSeen n) * tcCols (s.tcSeen n)).sum
        match range.find? fun n => tcFormat (s.tcSeen n) != 1 || tcScale (s.tcSeen n) != 0 with
        | some n => s.tileShape n m
        | none =>
          if !chainHeaderOk hd bds then s.fault .chainProgram 16 m
          else match (List.range nst).find? fun i => !chainStepOk d bds recs i with
            | some i => s.fault .chainProgram (BitVec.ofNat 64 i) m
            | none =>
              match steps.find? fun x => x.cfmt == 4 && tget 0 s.myGang.cbs x.cb == 0 with
              | some x => s.fault .codebook (BitVec.ofNat 64 x.cb) m
              | none =>
                if cap 0 < batch * prodOf (steps.take d) (·.n) then s.fault .chainOverflow 0 m
                else match (List.range nst).find? fun i => decide (cap ((i + 1) % 2) < stepSize d batch bds steps i) with
                  | some i => s.fault .chainOverflow (BitVec.ofNat 64 i) m
                  | none => s.trellisIssue (.tchain d0 h batch d steps) [] range))

end Sys2Proof.Machine
end

