-- ==== Sys2Proof/Machine/Engine.lean ====
section
/-!
DEFINITION. The Trellis engine at work: grants of the array and of the load-store port, codebook fills and the
completion of commands (12 R271-R292).
-/

namespace Sys2Proof.Machine

/-! ### Tiles in the engine -/

/-- The tile control register a command captured. -/
def TrellisCmd.tc (c : TrellisCmd) (n : Nat) : Word := tget 0 c.tcs n

/-- The state with the bytes of tile n of gang g replaced, of which len from `off` on were written (10 R228). -/
def State.putTile (s : State) (g n off len : Nat) (b : Memory) : State :=
  s.modGang g fun x => x.modTile n fun t => { t with bytes := b, bad := mended t.bad off len }

/-- More bytes than any tile has. -/
def wholeTile : Nat := 2 ^ 20

/-- The value of raw element bits of a tile that holds numbers. -/
def tcDecode (w : Word) (x : Nat) : FVal :=
  match tcFormat w with
  | 1 => f32.decode x
  | 2 => bf16.decode x
  | 3 => f16.decode x
  | _ => (tcFmt8 w).decode x

/-- The block scale of element j of row r. -/
def Tile.scale (t : Tile) (w : Word) (r j : Nat) : Nat :=
  if tcScale w = 1 then (Memory.read t.bytes (scaleAt w r + j / 32)).toNat
  else (Memory.read t.bytes (scaleAt w r + 2 + j / 64)).toNat

/-- The QB row scale of row r. -/
def Tile.rowScale (t : Tile) (w : Word) (r : Nat) : FVal := bf16.decode (bytesNat (Memory.readBytes t.bytes (scaleAt w r) 2))

/-- Element (r, j) as an operand, its scales joined exactly (12 R281, 07 R164). -/
def Tile.value (t : Tile) (w : Word) (r j : Nat) : FVal :=
  let q := t.raw w (r * tcCols w + j)
  match tcScale w with
  | 1 => scaledQA (tcFmt8 w) (t.scale w r j) q
  | 2 => scaledQB (tcFmt8 w) (t.rowScale w r) (t.scale w r j) q
  | _ => tcDecode w q

/-! ### The load-store port (12 R277-R279, R283) -/

/-- Move pieces from memory to a tile. -/
def State.loadPieces (s : State) (g u n : Nat) : List (Nat × Word × Nat × Nat) → EngWrite
  | [] => .done s
  | (sp, va, off, len) :: r =>
    (s.copyGet u sp va len).andPut fun b =>
      ((s.noteCopied u sp va len).putTile g n off len (Memory.writeBytes ((s.gang g).tile n).bytes off b)).loadPieces g u n r

/-- Move pieces from a tile to memory. -/
def State.storePieces (s : State) (g u n : Nat) : List (Nat × Word × Nat × Nat) → EngWrite
  | [] => .done s
  | (sp, va, off, len) :: r =>
    (s.copyPut u sp va (Memory.readBytes ((s.gang g).tile n).bytes off len)).andPut fun s1 => s1.storePieces g u n r

/-- A row converted by TCVT: its data bytes and its scale bytes, which stand after a QB row scale (12 R283). -/
def convertRow (fmt : BitVec 32) (wa wd : Word) (t : Tile) (S : FVal) (r : Nat) : List Byte × List Byte :=
  let vals := (List.range (tcCols wd)).map fun j => t.value wa r j
  match tcScale wd with
  | 0 =>
    (vals.flatMap fun v => match tcFormat wd with
      | 1 => natBytes (v.round f32 (fmtRm fmt) (fmtSat fmt)) 4
      | 2 => natBytes (v.round bf16 (fmtRm fmt) (fmtSat fmt)) 2
      | 3 => natBytes (v.round f16 (fmtRm fmt) (fmtSat fmt)) 2
      | _ => natBytes ((tcFmt8 wd).encode (fmtRm fmt) v) 1, [])
  | 1 =>
    let bl := (runs 32 vals).map fun b => quantQA (tcFmt8 wd) (fmtRm fmt) b
    (bl.flatMap fun b => b.2.map (BitVec.ofNat 8), bl.map fun b => BitVec.ofNat 8 b.1)
  | _ =>
    let bl := (runs 64 vals).map fun b => quantQB (tcFmt8 wd) (fmtRm fmt) S b
    (bl.flatMap fun b => b.2.map (BitVec.ofNat 8), bl.map fun b => BitVec.ofNat 8 b.1)

/-- TCVT's result. -/
def convertTile (fmt : BitVec 32) (wa wd : Word) (a d : Tile) : Memory :=
  (List.range (tcRows wd)).foldl (fun m r =>
    let x := convertRow fmt wa wd a (d.rowScale wd r) r
    let m1 := Memory.writeBytes m (r * tcCols wd * tcElem wd) x.1
    Memory.writeBytes m1 (scaleAt wd r + (if tcScale wd = 2 then 2 else 0)) x.2) d.bytes

/-! ### Codebooks (12 R284, R285) -/

/-- What looking a codebook up gives. -/
inductive Book where
  | here (b : List Byte)
  | missing (key : Nat)
  | fail (f : Failure)
deriving DecidableEq, Repr, Inhabited

/-- Look up the codebook at an address for team u in a cluster's SRAM. -/
def State.book (s : State) (cl u : Nat) (va : Word) : Book :=
  match s.check (s.teamCtx u) .load va 2048 2048 with
  | .error f => .fail ⟨f, faultAddr f va⟩
  | .ok (_, l) =>
    let k := bookKey (s.teamCtx u).part l.pa l.key
    match (tget [] s.ms.lookup cl).find? fun e => e.1 == k with
    | some e => .here e.2
    | none => .missing k

/-- A codebook used by a granted pass is the most recently used. -/
def State.touchBook (s : State) (cl u : Nat) (va : Word) : State :=
  match s.check (s.teamCtx u) .load va 2048 2048 with
  | .error _ => s
  | .ok (_, l) =>
    let k := bookKey (s.teamCtx u).part l.pa l.key
    let e := tget [] s.ms.lookup cl
    let first := e.filter (fun x => x.1 == k) ++ e.filter (fun x => x.1 != k)
    { s with ms := { s.ms with lookup := tset s.ms.lookup cl first } }

/-- Element j of entry i of a codebook (07 R165). -/
def bookValue (b : List Byte) (i j : Nat) : FVal := bf16.decode (fieldAt b (8 * i + 2 * j) 2)

/-- The addresses of the codebooks a command waits for: of a chain, the one of its next step. -/
def TrellisCmd.books (c : TrellisCmd) : List Word :=
  match c.op with
  | .tmma 2 _ _ b => [tget 0 c.cbs (tcCb (c.tc b))]
  | .tchain _ _ _ _ steps => ((steps[c.step]?.toList.filter fun x => x.cfmt == 4).map fun x => tget 0 c.cbs x.cb)
  | .cbload _ va => if va = 0 then [] else [va]
  | _ => []

/-! ### The array (12 R281, R286, R291) -/

/-- TMMA, TMMAQ and TMMAV on a gang's tiles; `bk` is TMMAV's codebook. -/
def productTile (kind : Nat) (wd wa wb : Word) (td ta tb : Tile) (bk : List Byte) : Memory :=
  let acc := if tcFormat wd = 1 then f32 else bf16
  let n := tcElem wd
  let bval := fun (j k : Nat) =>
    if kind = 2 then bookValue bk (tb.raw wb (j * tcCols wb + k / 4)) (k % 4) else tb.value wb j k
  (List.range (tcRows wd)).foldl (fun m i => (List.range (tcCols wd)).foldl (fun m j =>
    let e := i * tcCols wd + j
    let terms := (List.range (tcCols wa)).map fun k => (ta.value wa i k).mul (bval j k)
    Memory.writeBytes m (e * n) (natBytes (dot acc (td.raw wd e) terms) n)) m) td.bytes

/-- What a chain step reads: its core's bytes, block scales, row scales and codebook. -/
structure StepData where
  core : List Byte
  scl : List Byte
  rscl : List Byte
  book : List Byte
deriving DecidableEq, Repr, Inhabited

/-- A core's value at (row, β) (12 R286); `rk` is r(k). -/
def coreValue (x : ChainStep) (d : StepData) (rk row b : Nat) : FVal :=
  let f8 : Fmt8 := ⟨x.p, x.u, x.x⟩
  let e := row * rk + b
  match x.cfmt with
  | 0 => f32.decode (fieldAt d.core (4 * e) 4)
  | 1 => bf16.decode (fieldAt d.core (2 * e) 2)
  | 2 => f8.decode (fieldAt d.core e 1)
  | 3 => scaledQB f8 (bf16.decode (fieldAt d.rscl (2 * row) 2)) (fieldAt d.scl (row * ceilDiv rk 64 + b / 64) 1) (fieldAt d.core e 1)
  | _ => bookValue d.book (fieldAt d.core (row * (rk / 4) + b / 4) 1) (b % 4)

/-- All index tuples of a shape in row-major order. -/
def tuples : List Nat → List (List Nat)
  | [] => [[]]
  | n :: r => (List.range n).flatMap fun i => (tuples r).map fun t => i :: t

/-- How many words of its operand step i of a chain reads (12 R291). -/
def stepReads (d batch : Nat) (bds : Table Word) (steps : List ChainStep) (i : Nat) : Nat :=
  let st := steps.getD i default
  let sw := sweepOf d steps i
  let ra := (tget 1 bds (st.k - 1)).toNat
  let sb := (tget 1 bds st.k).toNat
  if st.right then batch * prodOf (sw.take (st.k - 1)) (·.n) * st.n * sb * prodOf (sw.drop st.k) (·.m)
  else batch * prodOf (sw.take (st.k - 1)) (·.m) * ra * st.n * prodOf (sw.drop st.k) (·.n)

/-- One step of a chain (12 R291): the words of its result in row-major order. -/
def chainStep (d batch : Nat) (bds : Table Word) (steps : List ChainStep) (i : Nat) (x : StepData) (tin : List Nat) : List Nat :=
  let st := steps.getD i default
  let sw := sweepOf d steps i
  let ra := (tget 1 bds (st.k - 1)).toNat
  let sb := (tget 1 bds st.k).toNat
  let acc := if st.bf16 then bf16 else f32
  let fin := fun (c : Nat) => if st.bf16 then c * 65536 else c
  let val := fun (e : Nat) => f32.decode (tin.getD e 0)
  let core := fun (a f b : Nat) => coreValue st x sb (a * (st.m * st.n) + f) b
  if st.right then
    let p := prodOf (sw.take (st.k - 1)) (·.n)
    let q := prodOf (sw.drop st.k) (·.m)
    (tuples [batch, p, ra, st.m, q]).map fun t =>
      let bp := t.getD 0 0 * p + t.getD 1 0
      let a := t.getD 2 0
      let mi := t.getD 3 0
      let qi := t.getD 4 0
      fin (dot acc 0 ((tuples [sb, st.n]).map fun k =>
        (val (((bp * st.n + k.getD 1 0) * sb + k.getD 0 0) * q + qi)).mul (core a (mi * st.n + k.getD 1 0) (k.getD 0 0))))
  else
    let p := prodOf (sw.take (st.k - 1)) (·.m)
    let q := prodOf (sw.drop st.k) (·.n)
    (tuples [batch, p, st.m, sb, q]).map fun t =>
      let bp := t.getD 0 0 * p + t.getD 1 0
      let mi := t.getD 2 0
      let b := t.getD 3 0
      let qi := t.getD 4 0
      fin (dot acc 0 ((tuples [ra, st.n]).map fun k =>
        (val (((bp * ra + k.getD 0 0) * st.n + k.getD 1 0) * q + qi)).mul (core (k.getD 0 0) (mi * st.n + k.getD 1 0) b)))

/-- The words of some tiles, in tile order. -/
def State.halfWords (s : State) (g : Nat) (c : TrellisCmd) (l : List Nat) : List Nat :=
  l.flatMap fun n => (List.range (tcRows (c.tc n) * tcCols (c.tc n))).map fun e => ((s.gang g).tile n).raw (c.tc n) e

/-- Write words to the front of some tiles, in tile order; no word past them is written (12 R289). -/
def State.putHalf (s : State) (g : Nat) (c : TrellisCmd) : List Nat → List Nat → State
  | [], _ => s
  | n :: r, ws =>
    let mine := ws.take (tcRows (c.tc n) * tcCols (c.tc n))
    (s.putTile g n 0 (4 * mine.length) (Memory.writeBytes ((s.gang g).tile n).bytes 0
      (mine.flatMap fun w => natBytes w 4))).putHalf g c r (ws.drop mine.length)

/-- Read what one step needs. -/
def State.stepData (s : State) (cl u : Nat) (c : TrellisCmd) (x : ChainStep) : Except EngWrite StepData :=
  let len := x.lengths c.bds
  let get := fun (va : Word) (n : Nat) => s.engResolve u (s.engGet (s.teamCtx u) .load va n)
  match get x.caddr len.1 with
  | .fail f s1 => .error (.fail f s1)
  | .wait s1 => .error (.wait s1)
  | .ok core =>
    if x.cfmt = 3 then
      match get x.rscl len.2.2, get x.scl len.2.1 with
      | .ok r, .ok k => .ok ⟨core, k, r, []⟩
      | .fail f s1, _ => .error (.fail f s1)
      | .wait s1, _ => .error (.wait s1)
      | _, .fail f s1 => .error (.fail f s1)
      | _, .wait s1 => .error (.wait s1)
    else if x.cfmt = 4 then
      match s.book cl u (tget 0 c.cbs x.cb) with
      | .here b => .ok ⟨core, [], [], b⟩
      | .missing _ => .error (.wait s)
      | .fail f => .error (.fail f s)
    else .ok ⟨core, [], [], []⟩

/-- Run step i of a chain with what was read for it (12 R288-R291). -/
def State.runStep (s : State) (g : Nat) (c : TrellisCmd) (d0 h batch d : Nat) (steps : List ChainStep) (i : Nat)
    (x : StepData) : State :=
  let half := fun (k : Nat) => (List.range h).map fun j => d0 + k * h + j
  let out := chainStep d batch c.bds steps i x (s.halfWords g c (half (i % 2)))
  s.putHalf g c (half ((i + 1) % 2)) out

/-- Gang g with a command of its table changed. -/
def State.modCmd (s : State) (g : Nat) (num : Word) (f : TrellisCmd → TrellisCmd) : State :=
  s.modGang g fun x => { x with trellis := x.trellis.map fun c => if c.num = num then f c else c }

/-- The steps of a chain. -/
def TrellisOp.steps : TrellisOp → List ChainStep
  | .tchain _ _ _ _ l => l
  | _ => []

/-- A granted command's pass is over but its work is not: a step of a chain is still to come. -/
def TrellisCmd.more (c : TrellisCmd) : Bool := c.fail.isNone && decide (c.step < c.op.steps.length)

/-- The bytes of the first words of some tiles, in tile order, as ranges of the tiles. -/
def TrellisCmd.wordRanges (c : TrellisCmd) : List Nat → Nat → List (Nat × Nat × Nat)
  | [], _ => []
  | n :: r, k =>
    let mine := min k (tcRows (c.tc n) * tcCols (c.tc n))
    (n, 0, 4 * mine) :: c.wordRanges r (k - mine)

/-- The ranges of its tiles that the next step of a command reads: of TCVT's result tile the QB row scales alone
(12 R283), of a chain's source half the words of the step's operand (12 R289). -/
def TrellisCmd.readsNow (c : TrellisCmd) : List (Nat × Nat × Nat) :=
  let all := fun (n : Nat) => (n, 0, tcData (c.tc n) + tcRows (c.tc n) * tcScaleRow (c.tc n))
  match c.op with
  | .tst n _ => [all n]
  | .tmma _ d a b => [all d, all a, all b]
  | .tcvt d a => all a :: (if tcScale (c.tc d) = 2 then (List.range (tcRows (c.tc d))).map fun r => (d, scaleAt (c.tc d) r, 2) else [])
  | .tchain d0 h batch d steps =>
    c.wordRanges ((List.range h).map fun j => d0 + c.step % 2 * h + j) (stepReads d batch c.bds steps c.step)
  | .tld _ _ | .tzero _ | .cbload _ _ => []

/-- The work of a granted command of gang g on cluster cl, its tiles readable (12 R278-R291). -/
def State.trellisRun (s : State) (cl g : Nat) (c : TrellisCmd) : EngWrite :=
  let u := c.team
  let tile := fun (n : Nat) => (s.gang g).tile n
  match c.op with
  | .tld n r => s.loadPieces g u n ((List.range (tcRows (c.tc n))).flatMap (transferRow (c.tc n) r))
  | .tst n r => s.storePieces g u n ((List.range (tcRows (c.tc n))).flatMap (transferRow (c.tc n) r))
  | .tzero n => .done (s.putTile g n 0 wholeTile (freshBytes (c.tc n)))
  | .tcvt d a => .done (s.putTile g d 0 wholeTile (convertTile c.fmt (c.tc a) (c.tc d) (tile a) (tile d)))
  | .cbload _ va =>
    if va = 0 then .done s
    else (match s.book cl u va with
      | .here _ => .done (s.touchBook cl u va)
      | .missing _ => .wait s
      | .fail f => .fail f s)
  | .tmma kind d a b =>
    let put := fun (x : State) (bk : List Byte) =>
      EngWrite.done (x.putTile g d 0 wholeTile (productTile kind (c.tc d) (c.tc a) (c.tc b) (tile d) (tile a) (tile b) bk))
    if kind = 2 then
      let va := tget 0 c.cbs (tcCb (c.tc b))
      (match s.book cl u va with
      | .here bk => put (s.touchBook cl u va) bk
      | .missing _ => .wait s
      | .fail f => .fail f s)
    else put s []
  | .tchain d0 h batch d steps =>
    match steps[c.step]? with
    | none => .done s
    | some x =>
      match s.stepData cl u c x with
      | .error e => e
      | .ok y =>
        let len := x.lengths c.bds
        let s0 := s.noteRange (s.teamCtx u) x.caddr len.1
        let s1 := if x.cfmt = 3 then (s0.noteRange (s.teamCtx u) x.rscl len.2.2).noteRange (s.teamCtx u) x.scl len.2.1 else s0
        let s2 := if x.cfmt = 4 then s1.touchBook cl u (tget 0 c.cbs x.cb) else s1
        .done ((s2.runStep g c d0 h batch d steps c.step y).modCmd g c.num fun c => { c with step := c.step + 1 })

/-- The work of a granted command of gang g on cluster cl: a poisoned line of a tile it reads fails it, with the line's
place in its tile for its address (10 R228; DESIGN CHOICE, log 57). -/
def State.trellisWork (s : State) (cl g : Nat) (c : TrellisCmd) : EngWrite :=
  match (s.gang g).badTile c.readsNow with
  | some a => .fail ⟨.poison, BitVec.ofNat 64 a⟩ s
  | none => s.trellisRun cl g c

/-- The array runs the command; the port runs the others. -/
def TrellisOp.onArray : TrellisOp → Bool
  | .tmma _ _ _ _ => true
  | .tchain _ _ _ _ _ => true
  | _ => false

/-! ### What passes charge (06 R144, R145) -/

/-- The weight per cycle of a command's pass in progress (06 Table 6-2); of a chain, that of the step that runs
(12 R273). -/
def TrellisCmd.weight (c : TrellisCmd) : Nat :=
  match c.op with
  | .tmma 0 _ a _ => if tcFormat (c.tc a) = 1 then 64 else if tcFormat (c.tc a) = 4 then 96 else 80
  | .tmma 1 _ _ _ => 96
  | .tmma _ _ _ _ => 88
  | .tchain _ _ _ _ steps =>
    match steps[c.step - 1]? with
    | some x => (if x.bf16 then 80 else 64) + (if x.cfmt = 4 then 8 else 0)
    | none => 0
  | _ => 0

/-- The passes in progress on the arrays: the core that issued each, and its weight per cycle (06 R144, 12 R273). -/
def State.passes (s : State) : List (Nat × Nat) :=
  s.gangs.flatMap fun g => (g.2.trellis.filter fun c => c.running && c.filled && c.op.onArray && c.fail.isNone).map fun c =>
    ((s.team c.team).core, c.weight)

/-- What the passes in progress on the arrays charge a core in each cycle. -/
def State.arrayCharge (s : State) (core : Nat) : Nat := ((s.passes.filter fun p => p.1 == core).map (·.2)).sum

/-- What the work in progress charges a core in this cycle: passes on the arrays, and the passes and request groups of
slot operations that started before. -/
def State.passCharge (s : State) (core : Nat) : Nat :=
  s.arrayCharge core + (((s.core core).due.filter fun x => x.1 == s.cycle).map (·.2)).sum

/-- The charges of a core's window at cycle t: those of cycles t-63 to t-1. -/
def Core.window (c : Core) (t : Nat) : List (Nat × Nat) := c.charges.filter fun x => decide (t < x.1 + 64 ∧ x.1 < t)

/-- What the operations that started in cycle t charge it. -/
def Core.ownCharge (c : Core) (t : Nat) : Nat := ((c.charges.filter fun x => x.1 == t).map (·.2)).sum

/-- The charge of cycle t from work in progress would pass the limit: it is a freeze cycle (06 R145). A cycle in which an
operation started has been weighed then; one of a gated core counts with charge 0. -/
def Core.mustFreeze (c : Core) (limit pass t : Nat) : Bool :=
  !c.gated && (c.frozenAt == some t ||
    (pass != 0 && !(c.charges.any fun x => x.1 == t) && decide (limit < ((c.window t).map (·.2)).sum + pass)))

/-- Core n stands still in this cycle (06 R145). -/
def State.frozen (s : State) (n : Nat) : Bool := (s.core n).mustFreeze s.dev.ilim.toNat (s.passCharge n) s.cycle

/-- A pass of a command stalls: the core that issued it is frozen, or the pass is to start in a cycle whose charge it
would carry past the limit (06 R145, 12 R273). -/
def State.stalls (s : State) (c : TrellisCmd) : Bool :=
  let n := (s.team c.team).core
  let x := s.core n
  c.op.onArray && (s.frozen n || (!c.filled && !x.gated &&
    decide (s.dev.ilim.toNat < ((x.window s.cycle).map (·.2)).sum + x.ownCharge s.cycle + s.passCharge n +
      ({ c with step := c.step + 1 } : TrellisCmd).weight)))

/-! ### Grants and completion (12 R273-R275) -/

/-- The command of a side that runs and has work left. -/
def State.inHand (s : State) (cl : Nat) (array : Bool) : Option (Nat × TrellisCmd) :=
  (s.table cl).find? fun c => c.2.op.onArray == array && c.2.running

/-- The command a side grants next: highest gang priority, then oldest. -/
def State.nextGrant (s : State) (cl : Nat) (array : Bool) : Option (Nat × TrellisCmd) :=
  ((s.table cl).filter fun c => c.2.op.onArray == array && !c.2.running && s.runs (s.gang c.1)).foldl (fun b c => match b with
    | none => some c
    | some x =>
      let px := (s.gang x.1).prio
      let pc := (s.gang c.1).prio
      if px < pc ∨ (px = pc ∧ c.2.order < x.2.order) then some c else some x) none

/-- Carry a granted command on: its work, or of a chain its next step, is done, or stopped by a failure, or waits. While
the core that issued it is frozen its pass stalls (06 R145, 12 R273). -/
def State.carryOn (s : State) (cl g : Nat) (c : TrellisCmd) : State :=
  if (c.filled && !c.more) || s.stalls c then s
  else s.under (.trellis c.num) c.old fun s => match s.trellisWork cl g c with
    | .done s1 => s1.modCmd g c.num fun c => { c with filled := true }
    | .fail f s1 => s1.modCmd g c.num fun c => { c with filled := true, fail := some f }
    | .wait s1 => s1.modCmd g c.num fun c => { c with filled := false }

/-- A side of a cluster's engine goes on with the command in hand or grants the next. -/
def State.grant (s : State) (cl : Nat) (array : Bool) : State :=
  match s.inHand cl array with
  | some (g, c) => s.carryOn cl g c
  | none =>
    match s.nextGrant cl array with
    | none => s
    | some (g, c) => (s.modCmd g c.num fun c => { c with running := true }).carryOn cl g { c with running := true }

/-- TRELLIS_ARRAY_GRANT. -/
def execTrellisArrayGrant (cluster : Nat) (s : State) : Res := .next (s.grant cluster true)

/-- TRELLIS_PORT_GRANT. -/
def execTrellisPortGrant (cluster : Nat) (s : State) : Res := .next (s.grant cluster false)

/-- The key under which the SRAM of a cluster would hold a codebook of a command, where it does not. -/
def State.wants (s : State) (cl : Nat) (c : TrellisCmd) (va : Word) : Option Nat :=
  match ({ s with issue := { s.issue with pages := c.old.pages } } : State).book cl c.team va with
  | .missing k => some k
  | _ => none

/-- The keys of the codebooks that the granted commands of a cluster use. -/
def State.booksInUse (s : State) (cl : Nat) : List Nat :=
  (s.table cl).flatMap fun c => if c.2.running then
    c.2.books.filterMap fun va =>
      (match ({ s with issue := { s.issue with pages := c.2.old.pages } } : State).check (s.teamCtx c.2.team) .load va 2048 2048 with
      | .ok (_, l) => some (bookKey (s.teamCtx c.2.team).part l.pa l.key)
      | .error _ => none)
  else []

/-- The SRAM of 64 codebooks, most recently used first, with one more: the least recently used that no granted command
uses leaves (12 R285). -/
def addBook (used : List Nat) (k : Nat) (b : List Byte) (l : List (Nat × List Byte)) : List (Nat × List Byte) :=
  let l1 := if l.length < 64 then l else
    match l.reverse.find? fun e => !used.contains e.1 with
    | some e => l.filter fun x => x.1 != e.1
    | none => l.take 63
  (k, b) :: l1

/-- CODEBOOK_FILL: the first codebook a granted command of the cluster waits for is read into the SRAM; a fill that fails
stops every granted command that waits for it, each under its own number (12 R285). -/
def execCodebookFill (cluster : Nat) (s : State) : Res :=
  .next (
    let want := (s.table cluster).findSome? fun c =>
      if c.2.running && (!c.2.filled || c.2.more) then
        (c.2.books.findSome? fun va => (s.wants cluster c.2 va).map fun k => (va, k)).map fun x => (c.2, x)
      else none
    match want with
    | none => s
    | some (c, va, k) =>
      let used := s.booksInUse cluster
      s.under (.book cluster) c.old fun s =>
        let gone := fun (s : State) => s.modTeam c.team fun t => t.engDone (.book cluster)
        match s.engResolve c.team (s.engGet (s.teamCtx c.team) .load va 2048) with
        | .ok b => gone { (s.noteRange (s.teamCtx c.team) va 2048) with ms := { (s.noteRange (s.teamCtx c.team) va 2048).ms with
            lookup := tset s.ms.lookup cluster (addBook used k b (tget [] s.ms.lookup cluster)) } }
        | .wait s1 => s1
        | .fail f s1 =>
          ((s.table cluster).filter fun x => x.2.running && (!x.2.filled || x.2.more) &&
              x.2.books.any fun a => s.wants cluster x.2 a == some k).foldl
            (fun y x => y.modCmd x.1 x.2.num fun c => { c with filled := true, fail := some f }) (gone s1))

/-- The tiles a command reads and those it writes. -/
def TrellisOp.tiles : TrellisOp → List Nat × List Nat
  | .tld n _ => ([], [n])
  | .tst n _ => ([n], [])
  | .tzero n => ([], [n])
  | .tmma _ d a b => ([a, b], [d])
  | .tchain d0 h _ _ _ => ([], (List.range (2 * h)).map (· + d0))
  | .tcvt d a => ([a], [d])
  | .cbload _ _ => ([], [])

/-- Clear the busy bits of a command. -/
def Gang.clearBusy (g : Gang) (reads writes : List Nat) : Gang :=
  let g1 := writes.foldl (fun x n => x.modTile n fun t => { t with wb := false }) g
  (reads.filter fun n => !writes.contains n).eraseDups.foldl (fun x n => x.modTile n fun t => { t with rb := t.rb - 1 }) g1

/-- The timeline of a gang's Trellis context: every command up to it has completed (12 R274). -/
def Gang.trellisReached (g : Gang) : Word :=
  match g.trellis.map (·.num.toNat) with
  | [] => g.trellisNum
  | n :: r => BitVec.ofNat 64 (r.foldl min n - 1)

/-- TRELLIS_COMMAND_COMPLETE: a command whose work is over leaves the table: its busy bits clear, its failure waits for
its team, the timeline advances (12 R271, R274, R275); in a freeze cycle no pass ends (06 R145). -/
def execTrellisCommandComplete (gang num : Nat) (s : State) : Res :=
  .next (match (s.gang gang).trellis.find? fun c => c.num.toNat == num && c.filled && !c.more && !s.stalls c with
    | none => s
    | some c =>
      let t := c.op.tiles
      let s1 := (s.modGang gang fun g =>
        let g1 := { g.clearBusy t.1 t.2 with trellis := g.trellis.filter fun x => x.num != c.num }
        { g1 with trellisTl := g1.trellisReached }).modTeam c.team fun t => t.engDone (.trellis c.num)
      match c.fail with
      | none => s1
      | some f =>
        if (s1.team c.team).ended then s1.lateFault c.team f
        else s1.modGang gang fun g => { g with trellisFails := g.trellisFails ++ [⟨c.num, c.team, f⟩] })

end Sys2Proof.Machine
end

