-- ==== Sys2Proof/Machine/Issue.lean ====
section
/-!
DEFINITION. Issue: time passing with its account (21 R414-R416), the current governor (06 R144, R145), fetching and
dispatching a bundle (06 R125-R141, 19 R388, R389), running its slots, and leaving it (08 R176-R181, R187, R191).
The meaning of a slot operation comes in as an argument, so that Dispatch.lean stands after this file.
-/

namespace Sys2Proof.Machine

/-! ### Time -/

/-- The next position of team u lies in an overlay resident in its core (06 R141). -/
def State.nextResident (s : State) (u : Nat) : Bool :=
  let t := s.team u
  let g := s.gang t.gang
  decide (t.pc < g.image.codeLen) && match g.image.ovlOf t.pc with
    | none => false
    | some (k, _) => ((s.core t.core).resident g.part g.image k).isSome

/-- The counter register of the category a resident cycle of a team falls into when its core neither froze nor fetched
for it (21 R414); `other` says that it fetched for another team. A cycle in which a team could have been chosen and none
was counts as HOLD (DESIGN CHOICE, log 9). -/
def State.category (s : State) (u : Nat) (t : Team) (other : Bool) : Nat :=
  match t.st with
  | .parked => 0x04E
  | .draining => 0x04E
  | .blocked => 0x04C
  | _ =>
    let g := s.gang t.gang
    let here := fun (f : Fill) => t.flight.isNone && f.part == g.part && f.image.handle == g.image.handle &&
      f.image.gen == g.image.gen && f.first ≤ t.pc && t.pc < f.first + f.count
    if (s.core t.core).fills.any fun f => here f || f.waiting.any fun w => w.1 == u then 0x04D
    else if other && t.flight.isNone && t.waits.isEmpty && !t.stopped && s.nextResident u then 0x04A
    else 0x04B

/-- Count n resident cycles of a category, in the totals and at every active loop level (21 R415-R417). -/
def Team.countCycles (t : Team) (reg n : Nat) : Team :=
  let t1 := t.count reg n
  if t.handler.isSome || n == 0 then t1
  else (List.range t.regs.loops.length).foldl
    (fun x k => x.count (0x050 + 12 * k + (if reg = 0x04F then 11 else 10)) n) t1

/-- The devices of a collective's group: its captured member list, which follows its descriptor and group record. -/
def collDevices (b : List Byte) : List Nat :=
  (List.range (bitsOf (fieldAt b 0x40 4) 11 0 + 1)).map fun k => fieldAt b (0x50 + 2 * k) 2

/-- A member of a group is held (18 R384): it has sent a hold notice, or this device's partition is halted (02 R61). -/
def State.groupHeld (s : State) (p : Nat) (b : List Byte) : Bool :=
  (s.part p).st != .running || s.dev.hold || (collDevices b).any fun d => s.dev.notices.contains d

/-- `n` unheld ticks pass for a collective, up to tick `now`: when its count reaches TIMEOUT it is due to expire. -/
def CollCmd.count (c : CollCmd) (n now : Nat) : CollCmd :=
  let limit := fieldAt c.desc 0x1C 4
  let held := c.held + n
  { c with
    held := held
    due := if c.due.isNone && limit != 0 && decide (limit ≤ held) then some (now - (held - max limit c.held)) else c.due }

/-- The collectives of a gang count unheld ticks. -/
def State.countColls (s : State) (g : Gang) (n now : Nat) : Gang :=
  { g with colls := g.colls.map fun c =>
      if c.done || s.groupHeld g.part c.desc then c else c.count n now }

/-- Cycle t of a core with `array` charged by passes on the arrays: a freeze cycle carries charge 0 and moves the work in
progress on by one, a cycle of a gated core carries charge 0 (06 R145). -/
def Core.runCycle (c : Core) (limit array t : Nat) : Core :=
  let pass := if c.gated then 0 else array + ((c.due.filter fun x => x.1 == t).map (·.2)).sum
  if c.mustFreeze limit pass t then
    { c with
      charges := c.window t
      due := (c.due.filter fun x => decide (t ≤ x.1)).map fun x => (x.1 + 1, x.2)
      units := c.units.map fun x => (x.1, { x.2 with free := if t < x.2.free then x.2.free + 1 else x.2.free })
      frz := if c.frozenAt == some t then c.frz else c.frz + 1
      frozenAt := some t }
  else
    { c with
      charges := (c.charges.filter fun x => decide (t < x.1 + 64)) ++ (if pass = 0 then [] else [(t, pass)])
      due := c.due.filter fun x => decide (t < x.1) }

/-- `dt` cycles of a core from cycle t; the count is of those that froze. A core with no work in progress has nothing to
run. -/
def Core.runCycles (limit array : Nat) : Nat → Nat → Core × Nat → Core × Nat
  | 0, _, x => x
  | dt + 1, t, x =>
    if array = 0 ∧ x.1.due.isEmpty ∧ x.1.frozenAt ≠ some t then x
    else
      let c := x.1.runCycle limit array t
      Core.runCycles limit array dt (t + 1) (c, if c.frozenAt = some t then x.2 + 1 else x.2)

/-- `dt` arithmetic cycles pass: the timer advances and every resident team's account with it. A cycle counts FRZ on a
core that froze and nothing for the team its core fetched for, which was counted then; a core fetches in the first of
them at most. -/
def State.elapse (s : State) (dt : Nat) : State :=
  if dt = 0 then s
  else
    let run := fun (n : Nat) (c : Core) => Core.runCycles s.dev.ilim.toNat (s.arrayCharge n) dt s.cycle (c, 0)
    let step := fun (u : Nat) (t : Team) =>
      if t.st == .out || !s.onDie (s.gang t.gang) || decide (Config.coreSlots ≤ t.slot) then t
      else
        let c := s.core t.core
        let frz := (run t.core c).2
        let took := if c.fetched == some (s.cycle, u) then 1 else 0
        let other := match c.fetched with
          | some (k, v) => k == s.cycle && v != u
          | none => false
        let n := dt - frz - took
        ((t.countCycles 0x04F frz).countCycles (s.category u t other) (min 1 n)).countCycles (s.category u t false) (n - 1)
    let now := (s.cycle + dt) / 3
    { s with
      cycle := s.cycle + dt
      cores := s.cores.map fun x => (x.1, (run x.1 x.2).1)
      teams := s.teams.map fun x => (x.1, step x.1 x.2)
      gangs := s.gangs.map fun x => (x.1, s.countColls x.2 (now - s.tick) now) }

/-! ### The current governor (06 Table 6-2, R144, R145) -/

/-- Current weight per cycle of a V operation. -/
def vWeight (op : Nat) : Nat :=
  if op < 0x140 then 4
  else if op < 0x158 then (if op % 4 = 0 then 6 else if op % 4 = 1 then 8 else 7)
  else if op < 0x164 then (if op % 2 = 0 then 6 else 8)
  else if op = 0x164 then 8
  else if op < 0x170 then 7
  else if op < 0x180 then 10
  else if op < 0x1A0 then 5
  else if op < 0x1B0 then 4
  else 6

/-- A field of an operation names 64-bit values. -/
def wideClass (c : OpClass) : Bool :=
  match c with
  | .vec n _ => n == 2
  | _ => false

/-- Cycles per pass of a V operation (06 Table 6-2). -/
def vCycles (i : Instr) : Nat :=
  match i.enc with
  | .a3 op o =>
    let wide := wideClass (sigOf op).d || wideClass (aClass op o)
    if op < 0x140 then (if wide then 2 else 1)
    else if op < 0x158 then (if op % 4 = 1 then 2 else 1)
    else if op < 0x164 then (if op % 2 = 1 then 2 else 1)
    else if op < 0x170 then 1
    else if op < 0x180 then (if wide then 16 else 4)
    else if op < 0x18B then (if wide then 2 else 1)
    else if op < 0x1A0 then 1
    else if op < 0x1B0 then (if wide then 2 else 1)
    else if op < 0x1C0 then 2
    else if op = 0x1C0 then 4
    else 2
  | _ => 1

/-- The M operation is per lane (06 R139, 12 R276, 17 R354). -/
def mPerLane (op : Nat) : Bool :=
  decide (0x280 ≤ op ∧ op ≤ 0x295) || decide (0x29E ≤ op ∧ op ≤ 0x2A1) || op == 0x2C8 || op == 0x2C9 ||
    decide (0x2E0 ≤ op ∧ op ≤ 0x2ED) || decide (0x300 ≤ op ∧ op ≤ 0x304) || decide (0x307 ≤ op ∧ op ≤ 0x309)

/-- The S operation runs whatever c[G] holds: BRNOT tests it, SSEL selects by it, and the forms LP and C16 have no guard
(04 R97, 08 R173, R176). -/
def sUnguarded (i : Instr) : Bool :=
  match i.enc with
  | .a3 op _ => op == 0x01B
  | .j19 op _ => op == 0x041
  | _ => true

/-- The charges of a slot from the cycle it starts in on, `n` mask words being non-empty: one for an S operation, one per
cycle of each pass, one per request group, one for a uniform M operation (06 R144). -/
def slotCharges (k : Nat) (i : Instr) (runs : Bool) (n : Nat) : List Nat :=
  let op := i.opNum
  if op = 0 then []
  else if k = 0 then (if runs then [2] else [])
  else if k < 3 then List.replicate (n * vCycles i) (vWeight op)
  else if mPerLane op then List.replicate n 5
  else [3]

/-- The mask words a slot operation works on: VSEL sweeps the top mask, its G field being the selector; TREORD every
word of the team (06 R139, 09 R203, 17 R368). Lanes of `off` have been performed before. -/
def Team.sweep (t : Team) (r : Regs) (i : Instr) (off : LaneMask) : List Nat :=
  let m :=
    if i.opNum = 0x1C0 then lanesMask t.lanes
    else if i.opNum = 0x132 ∨ i.opNum = 0x133 then r.top.mask
    else r.top.mask &&& r.pget i.guard.toNat
  (List.range 32).filter fun k => maskWord (m &&& ~~~off) k != 0

/-- The charges that slot k of the bundle in flight of team u has still to book: none once its unit has started it. An M
operation resumed with MLANES works on its other lanes (19 R391). -/
def State.slotLoad (s : State) (u k : Nat) : List Nat :=
  let t := s.team u
  match t.flight with
  | none => []
  | some f =>
    let i := f.bundle.slot k
    if f.done.getLsbD k || f.started.getLsbD k then []
    else slotCharges k i (sUnguarded i || f.before.cget i.guard.toNat)
      (t.sweep f.before i (if k = 3 then f.mlanes else 0)).length

/-- The operation of slot k of team u, standing in `old`, has started: it has completed, failed, performed a lane or sent
its requests; one that waits for its operands, its queue or its unit has not (06 R142). -/
def State.hasStarted (old s : State) (u k : Nat) : Bool :=
  match (old.team u).flight, (s.team u).flight with
  | some a, some b =>
    b.done.getLsbD k || b.performed != a.performed ||
      ((s.team u).waits.drop (old.team u).waits.length).any fun w => match w with
        | .remote => true
        | .recompute _ _ _ => true
        | _ => false
  | _, _ => true

/-- Book the operation of slot k, which started in this cycle: its first charge now, one more in each cycle of its further
passes or request groups, over which its unit starts nothing else (06 R139, R142, R144). -/
def State.bookSlot (old s : State) (u k : Nat) : State :=
  match old.slotLoad u k with
  | [] => s
  | c :: r =>
    if !old.hasStarted s u k then s
    else
      (s.modCore (old.team u).core fun x =>
        { x with
          charges := x.charges ++ [(s.cycle, c)]
          due := x.due ++ r.zipIdx.map fun y => (s.cycle + 1 + y.2, y.1)
          units := tset x.units k ⟨s.cycle + 1 + r.length, u :: (tget default x.units k).rota.filter (· != u)⟩ }).modTeam u
        fun t => { t with flight := t.flight.map fun f => { f with started := f.started ||| (1#4 <<< k) } }

/-- The charge of the cycle of core n, with what started in it, would pass the limit (06 R145). -/
def State.exceeds (s : State) (n : Nat) : Bool :=
  let c := s.core n
  c.ownCharge s.cycle != 0 &&
    decide (s.dev.ilim.toNat < ((c.window s.cycle).map (·.2)).sum + c.ownCharge s.cycle + s.passCharge n)

/-- What becomes of a cycle of core n in which its teams acted, from `old` to s: where its charge would pass the limit it
is a freeze cycle, in which nothing is fetched and nothing starts (06 R145). -/
def State.governed (old s : State) (n : Nat) : State :=
  if s.exceeds n then
    old.modCore n fun c => { c with frz := c.frz + 1, frozenAt := some old.cycle, charges := c.window old.cycle }
  else s

/-! ### Residency -/

/-- The tag of a fill. -/
def Fill.tagged (f : Fill) (p : Nat) (i : Image) (k : Nat) : Bool :=
  f.part == p && f.image.handle == i.handle && f.image.gen == i.gen && f.num == k

/-- The mapping of the fill of an overlay asked for now (04 R90, 10 R238). -/
def State.fillMapping (s : State) (p core : Nat) (i : Image) (first count : Nat) : Mapping :=
  s.mapping ⟨p, core, none, none⟩ [(i.bundleVa first, 16 * count)]

/-- Team u waits on the fill of the overlay it missed; misses on one tagged overlay share a fill (04 R90). -/
def State.requestFill (s : State) (u k : Nat) (e : OvlEntry) : State :=
  let t := s.team u
  let g := s.gang t.gang
  let w := (u, g.image.bundleVa t.pc)
  s.modCore t.core fun c =>
    if c.fills.any fun f => f.tagged g.part g.image k then
      { c with fills := c.fills.map fun f =>
          if f.tagged g.part g.image k && !f.waiting.any (fun x => x.1 == u) then { f with waiting := f.waiting ++ [w] } else f }
    else
      { c with fills := c.fills ++ [⟨g.part, g.image, k, e.first, e.count, [w], u,
          s.fillMapping g.part t.core g.image e.first e.count⟩] }

/-- Team u is chosen and fetches from a resident overlay: it is now the most recently fetched and guards it no longer
(04 R91); the team's place in the rotation is taken anew (06 R141). -/
def State.touchOverlay (s : State) (u k : Nat) : State :=
  let t := s.team u
  let g := s.gang t.gang
  s.modCore t.core fun c =>
    { c with
      rota := c.rota.filter (· != u)
      store := c.store.filter (fun o => !o.tagged g.part g.image k) ++
        (c.store.filter fun o => o.tagged g.part g.image k).map fun o => { o with guards := o.guards.filter fun x => x != u } }

/-! ### Dispatch -/

/-- The lines of the places of stores, each once for every region that wrote it: the entries they fill in the release
buffer, in which stores of one region merge (19 R387). -/
def heldLines (l : List HeldStore) : Nat :=
  (l.flatMap fun h =>
    let a := match h.loc with
      | .gang a => a
      | .phys a _ => a + 2 ^ 60
      | .recipe t o => t * 65536 + o + 2 ^ 61
    (linesOf a h.data.length).map fun x => (h.region, x)).eraseDups.length

/-- The entries the stores of a team fill: those its region withholds, and those of earlier regions that are still to be
performed. -/
def Team.bufUsed (t : Team) : Nat := heldLines t.held + heldLines t.storeQ

/-- The buffer entries the slots of a bundle outside `done` may need (19 R388). -/
def Team.bufNeed (t : Team) (b : Bundle) (done : BitVec 4) : Nat :=
  ((List.range 4).map fun k => if done.getLsbD k then 0 else (b.slot k).bufNeed (t.lanes / 32)).sum

/-- Whether a bundle is oversize on its own, and whether it needs more than its region has left (19 R388, R389). -/
def Team.capacity (t : Team) (b : Bundle) : Bool × Bool :=
  let buf := t.bufNeed b 0
  let lines := (List.range 4).flatMap fun k => if k = 0 then [] else (b.slot k).lines (t.lanes / 32)
  let fresh := (lines.filter fun l => !t.shadow.contains l).length
  (decide (64 < buf ∨ 64 < lines.length), decide (64 < buf + t.bufUsed ∨ 64 < fresh + t.shadow.length))

/-- The release buffer has no room for the slots of a bundle outside `done` while stores released before are still to be
performed (19 R387, R388). -/
def Team.noRoom (t : Team) (b : Bundle) (done : BitVec 4) : Bool := decide (64 < t.bufNeed b done + t.bufUsed)

/-- Count a dispatched bundle (21 R414-R417). -/
def Team.countBundle (t : Team) (b : Bundle) : Team :=
  let reg := fun (k : Nat) => if (b.slot k).opNum = 0 then 4 + k else k
  let t1 := (List.range 4).foldl (fun x k => x.count (0x040 + reg k) 1) (t.count 0x049 1)
  if t.handler.isSome then t1
  else (List.range t.regs.loops.length).foldl (fun x j =>
    (List.range 4).foldl (fun y k => y.count (0x050 + 12 * j + reg k) 1) (x.count (0x050 + 12 * j + 8) 1)) t1

/-- A dispatch fault of team u (04 R106). -/
def State.dispatchFault (s : State) (u : Nat) (c : FaultCode) (slot : Nat) : State :=
  let t := s.team u
  s.takeFault u ⟨c, (s.gang t.gang).image.bundleVa t.pc, slot, t.regs.top.mask⟩

/-- The state in which a team waits for its conditions (03 Table 3-5). -/
def WaitCond.state : WaitCond → TeamState
  | .recompute _ _ _ => .parked
  | .copyNumber _ _ => .parked
  | .service => .parked
  | .copyQueue => .runnable
  | .room _ => .runnable
  | .frames => .runnable
  | .slotUnit _ => .runnable
  | .engineTable => .runnable
  | .engineIdle => .runnable
  | .remote => .runnable
  | .raySlots => .runnable
  | .lanes => .runnable
  | _ => .blocked

/-- The team state its waits give: PARKED for a wait that parks, BLOCKED where every wait is one of those that block, and
while an operation waits on the store queue (06 R142, 03 Table 3-5, 13 R478). -/
def waitState (l : List WaitCond) : TeamState :=
  if l.any fun w => w.state == .parked then .parked
  else if l.contains .storeQueue || (!l.isEmpty && l.all fun w => w.state == .blocked) then .blocked
  else .runnable

/-- A bundle that decoded is dispatched: landings, checkpoints, counters; its NOPs complete. Resuming inside the bundle of
the current checkpoint takes its slots, masks and flow from it (19 R391); a bundle that runs again from its checkpoint
with DONE and MLANES empty takes a checkpoint as any other does (20 R407; DESIGN CHOICE, log 10). A bundle that finds no
room in the release buffer takes its capacity checkpoint and is not dispatched while released stores fill the buffer; then
it starts in the fresh region (19 R387, R388). -/
def State.start (s : State) (u : Nat) (b : Bundle) (lit : Bool) : State :=
  let t := s.team u
  let e := t.entity
  let s0 := if !(s.ent e).fresh then s
    else
      let x := s.modEnt e fun y => { y with fresh := false }
      if s.traced t then x.paySyncs u ((s.gang t.gang).image.bundleVa t.pc) else x
  let c := t.ckpt
  let inside := t.skipLand && (c.done != 0 || c.mlanes != 0)
  let s1 := s0.modTeam u fun t => { (t.countBundle b) with
    dispatched := t.dispatched + 1, waits := [], old := ⟨[], false⟩, remote := t.remote.filter (·.isAtomic)
    birth := none, opened := false }
  let full := fun (x : State) => (x.modCore t.core fun y => { y with fetched := none }).modTeam u fun y =>
    { y with waits := [.room (t.bufNeed b (if inside then c.done else 0))], st := .runnable, since := s.tick }
  let cap := t.capacity b
  if inside then
    if t.noRoom b c.done && !cap.1 then full s0
    else
      s1.modTeam u fun t =>
        { t with
          kept := (c.done ||| b.nops) == 0xF
          ckpt := { t.ckpt with next := nextIndex t.pc lit }
          flight := some ⟨b, lit, b.nops ||| c.done, c.mlanes, c.mlanes,
            if c.done.getLsbD 0 then c.flow else match c.flow with | .cont n k => .cont n k | _ => .seq, 0, c.before, cap.1,
            true, c.olds, 0⟩ }
  else
    let r := if t.skipLand then t.regs else t.regs.land
    let com := b.commitSlot r
    let hdrC := match b.header with | some h => h.c | none => false
    let need := hdrC || b.s.checkpoints || com.isSome || cap.1 || cap.2
    if need && (s.stopDue u).isSome then
      s1.debugStop u ((s.stopDue u).getD default)
    else
      let s2 := if need && !t.opened then
          (s1.checkpoint u t.pc t.held.length lit r true).modTeam u fun t => { t with dispatched := 1 } else s1
      if (s2.team u).noRoom b 0 && !cap.1 then
        full (if t.opened then s0
          else (s0.checkpoint u t.pc t.held.length lit r true).modTeam u fun t =>
            { t with regs := r, skipLand := true, opened := true })
      else s2.modTeam u fun t =>
        { t with
          regs := r
          flight := some ⟨b, lit, b.nops, 0, 0, .seq, t.held.length, r, cap.1,
            hdrC || b.s.checkpoints || com.isSome || cap.1, ⟨none, none, none⟩, 0⟩ }

/-- What the fetch of the next bundle of team u from a resident overlay finds: the bundle, or the fault of its dispatch
(04 R96, R106). -/
noncomputable def State.fetched (s : State) (u : Nat) (e : OvlEntry) (ov : Overlay) : Except (FaultCode × Nat) Bundle :=
  let t := s.team u
  let g := s.gang t.gang
  let w := tget 0 ov.words t.pc
  let fits := fun (i : Instr) => decide (i.vTop ≤ t.vregs) && decide (i.tTop ≤ g.ntile)
  if bundleHasLiteral w && (t.pc + 1 == e.first + e.count || t.regs.loops.any fun l => l.last.toNat == t.pc) then
    .error (.operandInvalid, 0)
  else match decodeBundle g.image.decMap fits w (tget 0 ov.words (t.pc + 1)) with
    | .error (.opcodeInvalid, k) => .error (.opcodeInvalid, k)
    | .error (.slotClass, k) => .error (.slotClass, k)
    | .error (.operandInvalid, k) => .error (.operandInvalid, k)
    | .ok b => .ok b

/-- The failure of the CPYY at whose continuation a team stands, which its first bundle raises (11 R263). -/
def Team.contFail (t : Team) : Option EngineFail := t.contNum.bind fun n => t.contFails.find? fun f => f.num == n

/-- A team that stands at the continuation of a CPYY goes on from it: it has acquired its copies (11 R264). -/
def State.passCont (s : State) (u : Nat) : State :=
  match (s.team u).contNum with
  | none => s
  | some n => (s.acquireCopies u n.toNat).modTeam u fun t => { t with contNum := none }

/-- Raise the failure a team's continuation meets: the team goes on from it, and so has acquired its copies. -/
def State.raiseCont (s : State) (u : Nat) (f : EngineFail) : State :=
  ((s.passCont u).modTeam u fun t => { t with contFails := t.contFails.filter fun x => x != f }).takeFault u
    ⟨f.fail.code, f.fail.addr, 3, (s.team u).regs.top.mask⟩

/-- Fetch and dispatch the next bundle of team u (01 R22, R23, R28, 04 R90, R106, 06 R141, 08 R180). -/
noncomputable def State.dispatch (s : State) (u : Nat) : State :=
  let t := s.team u
  let g := s.gang t.gang
  let img := g.image
  match t.contFail with
  | some f => s.raiseCont u f
  | none =>
    if img.codeLen ≤ t.pc then s.dispatchFault u .permission 0
    else match img.ovlOf t.pc with
      | none => s.dispatchFault u .permission 0
      | some (k, e) =>
        match (s.core t.core).resident g.part img k with
        | none => s.requestFill u k e
        | some ov =>
          let s1 := ((s.passCont u).touchOverlay u k).modCore t.core fun c =>
            { c with fetched := some (s.cycle, u), rota := u :: c.rota, acted := some s.cycle }
          match s.fetched u e ov with
          | .error (x, k') => s1.dispatchFault u x k'
          | .ok b => s1.start u b (bundleHasLiteral (tget 0 ov.words t.pc))

/-! ### Leaving a bundle -/

/-- The end-of-dimension flag d of the last entry popped from a walker's ring since its WSTART (11 R257). -/
def Walker.flag (w : Walker) (d : Nat) : Bool :=
  match w.lastE with
  | none => false
  | some e =>
    let n := fieldAt w.desc 0x38 1 % 4
    let p := ((List.range (min d n + 1)).map fun k => fieldAt w.desc (0x08 + 4 * k) 4).prod
    (e + 1) % p == 0

/-- Sequential flow leaves position `at_`: the loops that end there take their back edges, innermost first (08 R180).
The result is the next position; LPASS counts repeats and trace names the exits of LOOPW (21 R416, R423). -/
def State.leavePos (s : State) (u at_ : Nat) : Nat → State × Nat
  | 0 => (s, at_ + 1)
  | fuel + 1 =>
    let t := s.team u
    match t.regs.loops with
    | [] => (s, at_ + 1)
    | l :: rest =>
      if l.last.toNat ≠ at_ then (s, at_ + 1)
      else
        let again := if l.loopw then
            !(tget default (s.gang t.gang).walkers l.walker.toNat).flag l.dim.toNat
          else l.remain != 1
        let depth := rest.length
        if again then
          (s.modTeam u fun t =>
            let t1 := { t with regs := { t.regs with loops :=
              { l with remain := if l.loopw then 0 else l.remain - 1 } :: rest } }
            if t.handler.isSome then t1 else t1.count (0x050 + 12 * depth + 9) 1, l.first.toNat)
        else
          let va := (s.gang t.gang).image.bundleVa l.home
          let s1 := (if l.loopw then s.syncDue u va else s).modTeam u fun t => { t with regs := { t.regs with loops := rest } }
          let s2 := if l.loopw then s1.emit u 1 0 false va [] else s1
          s2.leavePos u at_ fuel

/-- A running team of a fenced gang takes a checkpoint at its next bundle boundary and ends (19 R400). -/
def State.fenceStop (s : State) (u : Nat) : State := (s.checkpointAt u (s.team u).pc).endTeam u

/-- The team ends at its END: what it still withholds is released; in a handler the fault that entered it is
contained (08 R187, 19 R400); a recompute not done fails with RECIPE_ILLEGAL (13 R304). -/
def State.endHere (s : State) (u : Nat) : State :=
  let t := s.team u
  let s1 := s.release u t.held.length
  match t.handler with
  | none =>
    match (s.gang t.gang).recompute.filter (·.live) with
    | some r => s1.takeFault u ⟨.recipeIllegal, (s.part (s.gang t.gang).part).tileVa r.tile, 0, t.regs.top.mask⟩
    | none => s1.endTeam u
  | some h =>
    let i : FaultInfo := ⟨h.frame.code, h.frame.faddr, h.frame.slot, h.frame.lanes⟩
    let base := (s1.gang t.gang).image.codeBase
    s1.contain u ((h.frame.bundle - base).toNat / 16) i 0 0

/-- TRET resumes the interrupted team (08 R191): the handler's region commits, the saved stacks, counts and s60 to s63
return, and the checkpoint of the frame stands again with the register values the handler left. A pending value of the
handler keeps the bundles it had still to run (DESIGN CHOICE, log 10). -/
def State.tretHere (s : State) (u mode : Nat) : State :=
  match (s.team u).handler with
  | none => s
  | some h =>
    let s1 := s.release u (s.team u).held.length
    let s2 := s1.modTeam u fun t =>
      let back := fun (r old : Regs) =>
        let r1 := { r with
          masks := old.masks, loops := old.loops
          fmtPend := old.fmtPend ++ r.fmtPend, wnextPend := old.wnextPend ++ r.wnextPend }
        (List.range 4).foldl (fun q k => q.sset (60 + k) (h.ckpt.regs.sget (60 + k))) r1
      let r := { back t.regs h.ckpt.regs with masks := h.masks, loops := h.loops }
      let before := if h.ckpt.done = 0 ∧ h.ckpt.mlanes = 0 then r
        else r.merge h.ckpt.regs h.ckpt.before
      { t with
        regs := r
        ckpt := { h.ckpt with
          done := if mode = 1 then h.ckpt.done ||| 1 else h.ckpt.done
          flow := if mode = 1 then .seq else h.ckpt.flow
          regs := r, before := before }
        ckptCnt := t.ckptCnt + 1
        shadow := []
        handler := none
        flight := none
        pc := h.ckpt.n
        skipLand := h.ckpt.landed
        dispatched := 0
        kept := false }
    s2.emitSync u ((s2.gang (s2.team u).gang).image.bundleVa (s2.team u).pc) 4

/-- Every slot of the bundle has completed: flow leaves it. -/
def State.endBundle (s : State) (u : Nat) : State :=
  let t := s.team u
  match t.flight with
  | none => s
  | some f =>
    let s0 := s.modTeam u fun t => { t with
      flight := none, skipLand := false, st := .runnable, waits := []
      given := t.given.filter fun x => x.eng != .none || x.pc != t.pc }
    match f.flow with
    | .ended => s0.endHere u
    | .tret m => s0.tretHere u m
    | .cont n target =>
      let s1 := s0.modTeam u fun t => { t with pc := target, contNum := some n }
      let s2 := s1.checkpointAt u target
      let s3 := if t.fenced then s2.endTeam u else s2
      s3.modTeam u fun t => if t.ended then t else { t with st := .parked, since := s.tick, waits := [.copyNumber n target] }
    | flow =>
      let (s1, next) := match flow with
        | .jump k => (s0, k)
        | .leave l => s0.leavePos u l (t.regs.loops.length + 1)
        | _ => s0.leavePos u (nextIndex t.pc f.lit - 1) (t.regs.loops.length + 1)
      let s2 := s1.modTeam u fun t => { t with pc := next }
      let s3 := if f.oversize then s2.checkpointAt u next else s2
      if t.fenced then s3.fenceStop u else s3

/-! ### Running the slots of a bundle -/

/-- A breakpoint register matches slot k of the bundle team u is executing (19 R397). -/
def State.breakAt (s : State) (u k : Nat) : Bool :=
  let t := s.team u
  let g := s.gang t.gang
  let p := s.part g.part
  p.dbgEn && t.handler.isNone && g.recompute.isNone && (List.range 4).any fun i =>
    let a := tget 0 p.dbgBpa i
    a.getLsbD 63 && tget 0 p.dbgBph i == g.image.handle && (a.extractLsb' 0 32).toNat == t.pc && a.getLsbD (32 + k)

/-- M operations that release, or move a ring, and so follow every earlier slot of their bundle (15 R317, R321). -/
def releases (op : Nat) : Bool :=
  op == 0x29C || op == 0x29D || decide (0x2B0 ≤ op ∧ op ≤ 0x2B2) || op == 0x2D0 || op == 0x2D5 ||
    decide (0x2E0 ≤ op ∧ op ≤ 0x2F0) || op == 0x2F3 || decide (0x2F6 ≤ op ∧ op ≤ 0x2F8)

/-- The operation works on a tile. -/
def onTiles (op : Nat) : Bool := decide (0x2C0 ≤ op ∧ op ≤ 0x2CA)

/-- The M operation may run before S operation s of its bundle: TJOIN acquires; the reads of a dispatch table come before a
release; MOVTC comes before an operation on tiles (08 R186, 15 R317, R321). -/
def mPassesS (m s : Instr) : Bool :=
  s.opNum != 0x050 && !(s.opNum == 0x05B && onTiles m.opNum) &&
    !((s.opNum == 0x044 || s.opNum == 0x045 || s.opNum == 0x046) && releases m.opNum)

/-- A later slot may run while an earlier one of its bundle waits (06 R126, R142): what each reads stands as the bundle
found it, and of two that write a register the higher slot's value stays (06 R129). A TRAP or BKPT comes before every other
slot (08 R190). Memory and the tiles keep program order (`mPassesS`, `mPasses`), and V2 passes V1 where the two write apart
(DEDUCED, log 11). -/
def mayRun (b : Bundle) (done : BitVec 4) (k : Nat) : Bool :=
  k = 0 || ((done.getLsbD 0 || !(b.s.opNum == 0x054 || b.s.opNum == 0x056)) && match k with
    | 1 => true
    | 2 => done.getLsbD 1 || vApart b.v1 b.v2
    | _ => (done.getLsbD 0 || mPassesS b.m b.s) && (done.getLsbD 1 || mPasses b.m b.v1) && (done.getLsbD 2 || mPasses b.m b.v2))

/-- Team u's operations may run: it is RUNNABLE on a running partition, and its core's clock runs and is not frozen
(06 R143, R145). -/
def State.canRun (s : State) (u : Nat) : Bool :=
  match tfind s.teams u with
  | none => false
  | some t =>
    let c := s.core t.core
    t.st == .runnable && !t.stopped && (s.part (s.gang t.gang).part).st == .running && !c.gated && decide (c.wakeAt ≤ s.tick) &&
      !s.frozen t.core

/-- Slot k of the bundle in flight of team u has not completed and may run beside the slots before it. -/
def State.slotDue (s : State) (u k : Nat) : Bool :=
  let t := s.team u
  match t.flight with
  | none => false
  | some f => !f.done.getLsbD k && mayRun f.bundle f.done k &&
      !((t.stepOne || f.oversize) && (List.range k).any fun j => !f.done.getLsbD j)

/-- The head of slot queue k of team v can start: it waits for nothing but its unit (06 R142). -/
def State.headReady (s : State) (v k : Nat) : Bool :=
  let w := (s.team v).waits
  s.canRun v && s.slotDue v k && !(s.slotLoad v k).isEmpty && (w.isEmpty || w.contains (.slotUnit k))

/-- The unit of slot k does not start the head of team u in this cycle (06 R142): it is occupied or has started one, or
the head of a team of higher priority, or of equal priority and served longer ago, can start. -/
def State.unitTaken (s : State) (u k : Nat) : Bool :=
  let n := (s.team u).core
  let x := tget default (s.core n).units k
  let prio := fun (v : Nat) => (s.gang (s.team v).gang).prio
  !(s.slotLoad u k).isEmpty && (decide (s.cycle < x.free) ||
    s.teams.any fun t => t.1 != u && t.2.core == n && s.headReady t.1 k &&
      (decide (prio u < prio t.1) || (prio u == prio t.1 && decide (x.rota.idxOf u < x.rota.idxOf t.1))))

/-- A slot of an oversize bundle has completed: it joins DONE, and its stores go to the store queue (19 R389). -/
def State.commitSlot (s : State) (u : Nat) : State :=
  let s1 := s.release u (s.team u).held.length
  s1.modTeam u fun t => match t.flight with
    | none => t
    | some f => { t with
        ckpt := { t.ckpt with done := f.done, mlanes := f.performed, flow := f.flow, olds := f.olds, regs := t.regs }
        shadow := [] }

/-- Go on with an outcome. -/
def andThen (o : Host.Outcome State Fault Refusal) (k : State → Host.Outcome State Fault Refusal) :
    Host.Outcome State Fault Refusal :=
  match o with
  | .next s => k s
  | x => x

/-- The s register or control predicate that a completed M operation has written keeps its value when a lower slot runs
after it (06 R129, 19 R391). -/
def State.keepHigher (old s : State) (u k : Nat) : State :=
  match (old.team u).flight with
  | none => s
  | some f =>
    let v := (old.team u).regs
    let keep := fun (r : Regs) =>
      let r1 := match f.bundle.m.mScalar with
        | some d => r.sset d (v.sget d)
        | none => r
      match f.bundle.m.mControl with
        | some d => r1.cset d (v.cget d)
        | none => r1
    if 3 ≤ k ∨ f.done.getLsbD k ∨ !f.done.getLsbD 3 ∨ f.before.top.mask &&& f.before.pget f.bundle.m.guard.toNat = 0 then s
    else s.modTeam u fun t =>
      if t.flight.isNone then t
      else { t with
        regs := keep t.regs
        ckpt := { t.ckpt with regs := if t.ckpt.done.getLsbD 3 then keep t.ckpt.regs else t.ckpt.regs } }

/-- Try slot k of the bundle in flight, under the translations it keeps (10 R238). -/
def State.runSlot (ex : Instr → State → Host.Outcome State Fault Refusal) (s : State) (u k : Nat) :
    Host.Outcome State Fault Refusal :=
  let t := s.team u
  match t.flight with
  | none => .next s
  | some f =>
    if f.done.getLsbD k || !mayRun f.bundle f.done k ||
        ((t.stepOne || f.oversize) && (List.range k).any fun j => !f.done.getLsbD j) then
      .next s
    else if s.breakAt u k && !t.stepOne then
      .next (s.debugStop u ⟨.breakpoint, 0, k, t.before.top.mask⟩)
    else
      match ex (f.bundle.slot k) { s with issue := ⟨u, k, t.core, t.old.pages, .none, s.issue.quota⟩ } with
      | .next s0 =>
        let s1 : State := { s0 with issue := { s0.issue with pages := [] } }
        let done := match (s1.team u).flight with
          | some g => g.done.getLsbD k
          | none => true
        let s2 := if done && f.oversize && (s1.team u).flight.isSome then s1.commitSlot u else s1
        if t.stepOne && done && !(s2.team u).ended && !(s2.team u).stopped then
          .next ((s.keepHigher s2 u k).debugStop u ⟨.breakpoint, 0, k, t.before.top.mask⟩)
        else .next s2
      | o => o

/-- Run slot k; the effect of a committing M operation follows the stores of the earlier slots of its bundle, which leave
the release buffer before it (15 R317, R321, 19 R393). One that waits or fails leaves them withheld. -/
def State.runReleased (ex : Instr → State → Host.Outcome State Fault Refusal) (s : State) (u k : Nat) :
    Host.Outcome State Fault Refusal :=
  let t := s.team u
  match t.flight with
  | none => .next s
  | some f =>
    if k ≠ 3 ∨ t.held.isEmpty ∨ f.oversize ∨ !f.bundle.m.commits f.before then s.runSlot ex u k
    else match (s.release u t.held.length).runSlot ex u k with
      | .next s1 =>
        if if (s1.team u).flight.isSome then s.hasStarted s1 u k else (s1.team u).stopped then .next s1 else s.runSlot ex u k
      | o => o

/-- A failure of an earlier store falls due at slot k: its operation commits and is about to run (13 R478, 18 R374,
19 R393). -/
def State.storeFailAt (s : State) (u k : Nat) : Option (Failure × Team) :=
  let t := s.team u
  match t.flight with
  | none => none
  | some f =>
    if !f.done.getLsbD k && mayRun f.bundle f.done k && (f.bundle.slot k).commits f.before then t.nextStoreFail else none

/-- A breakpoint matches a NOP in slot k that has not been passed yet (19 R397): the first dispatch of its bundle, or one
at a checkpoint that does not hold the slot in DONE. A header bundle has no operation in slot 0 (04 R94, 06 R125). -/
def State.nopBreak (s : State) (u k : Nat) : Bool :=
  let t := s.team u
  match t.flight with
  | none => false
  | some f =>
    (f.bundle.slot k).opNum == 0 && !(k == 0 && f.bundle.header.isSome) && s.breakAt u k && !t.stepOne &&
      !(t.ckpt.n == t.pc && decide (t.dispatched ≤ 1) && t.ckpt.done.getLsbD k)

/-- Slot k of the bundle in flight in its turn: a breakpoint at a NOP, the choice of its unit, the failure of an earlier
store that its operation must raise, and a stop asked for when the operation turns out to commit come in (06 R142,
19 R393, R397, R399); a value that a higher slot in DONE has written stays. -/
def State.trySlot (ex : Instr → State → Host.Outcome State Fault Refusal) (s : State) (u k : Nat) :
    Host.Outcome State Fault Refusal :=
  let t := s.team u
  if s.nopBreak u k then
    .next ((s.modTeam u fun t => { t with flight := t.flight.map fun f => { f with done := f.done &&& ~~~(1#4 <<< k) } }).debugStop
      u ⟨.breakpoint, 0, k, t.before.top.mask⟩)
  else if s.slotDue u k && s.unitTaken u k then .next (s.modTeam u fun t => { t with waits := t.waits ++ [.slotUnit k] })
  else match s.storeFailAt u k with
    | some (f, t1) => .next ((s.setTeam u t1).takeFault u ⟨f.code, f.addr, k, t.before.top.mask⟩)
    | none => andThen (s.runReleased ex u k) fun s1 =>
        let s0 := s.keepHigher s1 u k
        let s2 := if s.breakAt u k && !t.stepOne then s0 else s.bookSlot s0 u k
        let t2 := s2.team u
        if (s2.stopDue u).isSome && t2.flight.isSome && t2.ckptCnt != t.ckptCnt then
          .next (s2.debugStop u ((s2.stopDue u).getD default))
        else .next s2

/-- The vector registers an operation has written: VSTIX's is the one its operands name. -/
def wroteRegs (i : Instr) (r : Regs) : List Nat :=
  if i.toPort then []
  else match i.enc with
    | .a3 0x1A6 o => [(r.sget o.a.toNat + sB r false o.b).toNat]
    | _ => i.vDests

/-- The register lines the bundle in flight has written are shadowed in its region: the words that its operations swept, those
in DONE before its region began aside (19 R387); what else was reserved is returned (19 R388). -/
def Team.noteShadow (t : Team) (f : Flight) : Team :=
  let new := (List.range 4).flatMap fun k =>
    if k = 0 ∨ !f.started.getLsbD k then []
    else (wroteRegs (f.bundle.slot k) f.before).flatMap fun x =>
      (t.sweep f.before (f.bundle.slot k) (if k = 3 then f.mlanes else 0)).map fun w => x * 32 + w
  { t with shadow := new.foldl (fun l x => if l.contains x then l else x :: l) t.shadow }

/-- After the slots were tried: the team leaves the bundle, or waits. -/
def State.settle (s : State) (u : Nat) : State :=
  let t := s.team u
  match t.flight with
  | none => s
  | some f =>
    if f.done = 0xF then
      (if f.oversize then s else s.modTeam u fun t => t.noteShadow f).endBundle u
    else
      s.modTeam u fun t =>
        { t with st := waitState t.waits, since := if t.st == waitState t.waits then t.since else s.tick }

/-- Run the slots of the bundle in flight that have not completed, in slot order (06 R126, R129). -/
def State.runSlots (ex : Instr → State → Host.Outcome State Fault Refusal) (s : State) (u : Nat) :
    Host.Outcome State Fault Refusal :=
  let s0 := s.modTeam u fun t => { t with waits := [] }
  andThen (s0.trySlot ex u 0) fun s1 =>
    andThen (s1.trySlot ex u 1) fun s2 =>
      andThen (s2.trySlot ex u 2) fun s3 =>
        andThen (s3.trySlot ex u 3) fun s4 => .next (s4.settle u)

/-- Team u waits on a fill (04 R90). -/
def State.fillWaits (s : State) (u : Nat) : Bool :=
  (s.core (s.team u).core).fills.any fun f => f.waiting.any fun w => w.1 == u

/-- The first bundle of a child waits until the stores its creator made before the TFORK have been performed (08 R185). -/
def State.unborn (s : State) (u : Nat) : Bool :=
  match (s.team u).birth, (s.team u).parent with
  | some (n, k), some p =>
    let t := s.team p
    t.storeQ.any (fun h =>
        let back := (BitVec.ofNat 32 n - BitVec.ofNat 32 h.region).toNat
        decide (0 < back ∧ back < 2 ^ 31)) ||
      t.unacked.any fun x => decide (x.sentAt ≤ k)
  | _, _ => false

/-- Team u may act: it can run, waits on no fill and for no creator, and its last bundle is done or to be tried again
(06 R128, R141, 04 R90). -/
def State.ready_ (s : State) (u : Nat) : Bool :=
  s.canRun u && !s.fillWaits u && (s.team u).waits.isEmpty && !s.unborn u

/-- Team u acts without being chosen to fetch: its next position is in no resident overlay, whose fill it asks for, or it
raises the failure of the CPYY at whose continuation it stands (04 R90, 06 R141, 11 R263). -/
def State.strays (s : State) (u : Nat) : Bool :=
  s.ready_ u && (s.team u).flight.isNone && (!s.nextResident u || (s.team u).contFail.isSome)

/-- How long ago a core has chosen a team, as its place in the list of choices, the latest first. -/
def Core.age (c : Core) (u : Nat) : Nat := c.rota.idxOf u

/-- Team v of a core comes before team u: higher priority, or equal priority and chosen longer ago (06 R141). -/
def State.comesBefore (s : State) (v u : Nat) : Bool :=
  let p := fun (x : Nat) => (s.gang (s.team x).gang).prio
  let c := s.core (s.team u).core
  decide (p u < p v) || (p u == p v && decide (c.age u < c.age v))

/-- Team u may fetch its next bundle now: it is ready, its position resident, and no other such team of its core comes
before it (02 R58, 06 R141). -/
def State.mayFetch (s : State) (u : Nat) : Bool :=
  s.ready_ u && s.nextResident u && !s.teams.any fun t =>
    t.2.core == (s.team u).core && t.1 != u && t.2.flight.isNone && s.ready_ t.1 && s.nextResident t.1 && s.comesBefore t.1 u

/-- Core n has fetched in this cycle: it chooses one team in each (06 R141). -/
def State.fetchedNow (s : State) (n : Nat) : Bool :=
  match (s.core n).fetched with
  | some (c, _) => c == s.cycle
  | none => false

/-- The teams of core n that may act and need no choice of the front end, or else those it may choose. -/
def State.readyTeams (s : State) (n : Nat) : List Nat :=
  let l := (s.teams.filter fun t => t.2.core == n && s.ready_ t.1).map (·.1)
  match l.filter s.strays with
  | [] => l
  | r => r

/-- The team of core n that acts: one whose fill is to be asked for, else the first of its ready teams that none comes
before (06 R141). -/
def State.chooseTeam (s : State) (n : Nat) : Option Nat :=
  match s.readyTeams n with
  | [] => none
  | x :: r => some (r.foldl (fun b u => if s.comesBefore u b then u else b) x)

/-- The list of choices of core n without the teams that are no more. -/
def State.renewRota (s : State) (n : Nat) : State :=
  s.modCore n fun c => { c with rota := (c.rota.filter fun v => (tfind s.teams v).isSome).eraseDups }

/-- What team u does in this cycle: it goes on with the bundle in flight, or fetches and dispatches its next one, and runs
its slots. -/
noncomputable def State.takeTurn (ex : Instr → State → Host.Outcome State Fault Refusal) (s : State) (u : Nat) :
    Host.Outcome State Fault Refusal :=
  let t := s.team u
  match t.flight with
  | some _ => if s.canRun u then (s.modCore t.core fun c => { c with acted := some s.cycle }).runSlots ex u else .next s
  | none =>
    if t.fenced && s.canRun u then .next (s.fenceStop u)
    else if !s.strays u && (!s.mayFetch u || s.fetchedNow t.core) then .next s
    else
      let s1 := s.dispatch u
      match (s1.team u).flight with
      | some _ => s1.runSlots ex u
      | none => .next s1

/-- What team u would do has to wait for the next cycle: its core has acted in this one, or a unit it waits for is taken
(06 R128, R141, R142, R145). -/
def State.nextCycle (s : State) (u : Nat) : Bool :=
  let t := s.team u
  let acted := (s.core t.core).acted == some s.cycle
  match t.flight with
  | some _ => s.canRun u && (acted || (List.range 4).any fun k => s.slotDue u k && s.unitTaken u k)
  | none => !t.fenced && s.mayFetch u && !s.strays u && (acted || s.fetchedNow t.core)

/-- What the given teams of core n do in this cycle, one after another. -/
noncomputable def State.takeTurns (ex : Instr → State → Host.Outcome State Fault Refusal) (n : Nat) :
    List Nat → State → Host.Outcome State Fault Refusal
  | [], s => .next s
  | u :: r, s => andThen (if (s.team u).core = n then s.takeTurn ex u else .next s) (State.takeTurns ex n r)

/-- A cycle of a core in which the given teams of it act, under its governor, which weighs what all of them start
(06 R142, R145): the core is the first team's. -/
noncomputable def State.coreTurn (ex : Instr → State → Host.Outcome State Fault Refusal) (s : State) (l : List Nat) :
    Host.Outcome State Fault Refusal :=
  match l.eraseDups with
  | [] => .next s
  | u :: r =>
    let n := (s.team u).core
    let s0 := if s.nextCycle u then s.elapse 1 else s
    andThen (State.takeTurns ex n (u :: r) s0) fun s1 => .next (s0.governed s1 n)

/-- The turn of a team. -/
noncomputable def State.teamTurn (ex : Instr → State → Host.Outcome State Fault Refusal) (s : State) (u : Nat) :
    Host.Outcome State Fault Refusal :=
  s.coreTurn ex [u]

/-- A team's turn in which an atomic performs at most n lanes (15 R326). -/
noncomputable def State.partTurn (ex : Instr → State → Host.Outcome State Fault Refusal) (s : State) (u n : Nat) :
    Host.Outcome State Fault Refusal :=
  andThen (State.teamTurn ex { s with issue := { s.issue with quota := some n } } u) fun s1 =>
    .next { s1 with issue := { s1.issue with quota := none } }

end Sys2Proof.Machine
end

