-- ==== Sys2Proof/Machine/Sync.lean ====
section
/-!
DEFINITION. Synchronisation (15): atomics, fences, timelines, phase-bit barriers, the tile-buffer table, WQPUSH and
LAUNCH.
-/

namespace Sys2Proof.Machine

/-! ### Atomics (15 R324-R326) -/

/-- The new value an atomic leaves (15 Table 15-5): `x` is v[D], or v[D]'s successor for ATOMCAS, whose expected value
is `e`. -/
def atomNew (op : Nat) (old x e : Word) : Word :=
  let a := old.extractLsb' 0 32
  let b := x.extractLsb' 0 32
  let w := fun (v : BitVec 32) => v.zeroExtend 64
  match op with
  | 0x2E0 => w (a + b)
  | 0x2E1 => old + x
  | 0x2E2 => BitVec.ofNat 64 ((FVal.add false (f32.decode a.toNat) (f32.decode b.toNat)).round f32 .rne false)
  | 0x2E3 => w (if a.slt b then a else b)
  | 0x2E4 => w (if a.ult b then a else b)
  | 0x2E5 => w (if a.slt b then b else a)
  | 0x2E6 => w (if a.ult b then b else a)
  | 0x2E7 => w (a &&& b)
  | 0x2E8 => w (a ||| b)
  | 0x2E9 => w (a ^^^ b)
  | 0x2EA => w b
  | 0x2EB => x
  | 0x2EC => if a == e.extractLsb' 0 32 then w b else w a
  | _ => if old == e then x else old

/-- An atomic of this scope executes at the place (15 Table 15-3). -/
def State.atomReaches (s : State) (scope : Nat) (l : Loc) : Bool :=
  match l with
  | .gang _ => decide (scope ≤ 1)
  | .recipe _ _ => false
  | .phys pa _ =>
    match s.target pa with
    | .hbm => decide (2 ≤ scope ∧ scope ≤ 5)
    | .fx => scope == 2 || scope == 3
    | .host => scope == 5
    | .remote => scope == 4 || scope == 5
    | .reserved => false

/-- Check one lane's atomic. -/
def State.atomAt (s : State) (o : AtomOp) (size l : Nat) : Except Failure LaneAt :=
  if o.scope.toNat ≤ 1 then s.laneRead false (s.laneGang ((s.rd.vget o.a.toNat l).zeroExtend 64) size) size
  else match s.laneVirtual .atomic (s.vsrc64 o.a l) size with
    | .error f => .error f
    | .ok a =>
      match a.loc with
      | .recipe _ _ => .error ⟨.permission, a.va⟩
      | loc => if s.atomReaches o.scope.toNat loc then s.laneRead false (.ok a) size else .error ⟨.operandInvalid, s.bundleVa⟩

/-- The operand words of one lane: the new value's operand and the expected value. -/
def State.atomArgs (s : State) (o : AtomOp) (op size l : Nat) : Word × Word :=
  let at_ := fun (k : Nat) => if size = 4 then (s.rd.vget (o.d.toNat + k) l).zeroExtend 64
    else s.rd.vget (o.d.toNat + 2 * k + 1) l ++ s.rd.vget (o.d.toNat + 2 * k) l
  if op = 0x2EC ∨ op = 0x2ED then (at_ 1, at_ 0) else (at_ 0, 0)

/-- One lane's step has been performed: it joins MLANES, and with NR = 0 its old value is in D (15 R326, 19 R391). -/
def State.atomDone (s : State) (o : AtomOp) (size l : Nat) (old : Word) : State :=
  let bit : LaneMask := 1#1024 <<< l
  let s1 := s.modMe fun t => { t with
    flight := t.flight.map fun f => { f with performed := f.performed ||| bit }
    ckpt := { t.ckpt with mlanes := t.ckpt.mlanes ||| bit } }
  if o.nr then s1
  else
    let w := s1.me.lanes
    let s2 := s1.modRegsC fun r => r.vput w o.d.toNat bit fun _ => old.extractLsb' 0 32
    if size = 4 then s2 else s2.modRegsC fun r => r.vput w (o.d.toNat + 1) bit fun _ => old.extractLsb' 32 32

/-- One lane's step at a place of this device. -/
def State.atomHere (s : State) (o : AtomOp) (op size l : Nat) (a : LaneAt) : State :=
  let loc := s.homeLoc a.loc
  let old := BitVec.ofNat 64 (bytesNat (s.readLoc s.myGang.part s.me.gang loc size))
  let x := s.atomArgs o op size l
  (s.writeLoc s.myGang.part s.me.gang loc (natBytes (atomNew op old x.1 x.2).toNat size)).atomDone o size l old

/-- One of the lanes that this turn may perform is used. -/
def State.useLane (s : State) : State := { s with issue := { s.issue with quota := s.issue.quota.map (· - 1) } }

/-- Perform the lanes of a list in order, until one must wait for its owner's answer or fails, or this turn's lanes are
done (15 R326, 18 R373). -/
def State.atomLanes (s : State) (o : AtomOp) (op size : Nat) : List (Nat × LaneAt) → State
  | [] => s.finC
  | (l, a) :: r =>
    if !s.isRemote a.loc then
      if s.issue.quota = some 0 then (s.holdWalk (walked ((l, a) :: r) size)).wait .lanes
      else (s.useLane.atomHere o op size l a).atomLanes o op size r
    else
      let x := s.atomArgs o op size l
      let q := s.remoteReq a (.atomic op x.1 x.2) size
      if o.nr then
        ((s.modMe fun t => { t with unacked := t.unacked ++ [⟨q.1, q.2, a.va, s.tick, none, false, .none⟩] }).atomDone o size l 0).atomLanes
          o op size r
      else match (s.me.asked q.1 q.2 a.va).bind (·.answer) with
        | none => ((s.ask q.1 q.2 a.va).holdWalk (walked ((l, a) :: r) size)).wait .remote
        | some resp =>
          let s1 := s.modMe fun t => { t with remote := t.remote.filter fun y => y.va != a.va || y.req != q.2 }
          match respFail resp with
          | some c => s1.fault c a.va (1#1024 <<< l)
          | none => (s1.atomDone o size l (BitVec.ofNat 64 (bytesNat (respBytes resp)))).atomLanes o op size r

/-- An atomic: the lanes not yet performed are checked, then perform their steps in ascending order (15 R326). -/
def State.atomic (s : State) (o : AtomOp) (op size : Nat) : State :=
  let m0 := s.effMask o.g
  if m0 = 0 then s.finC
  else s.notInRecipe m0 (s.released o.scope.toNat m0 (
    let m := m0 &&& ~~~((s.me.flight.map (·.performed)).getD 0)
    match checkLanes (s.active m) (s.atomAt o size) with
    | .error f => s.fault f.fail.code f.fail.addr f.lanes
    | .ok l => ((if o.scope.toNat ≤ 1 then s else s.noteLanes l)).atomLanes o op size l))

/-- ATOMADD.i32. -/
def execAtomaddI32 (o : AtomOp) (s : State) : Res := .next (s.atomic o 0x2E0 4)

/-- ATOMADD.i64. -/
def execAtomaddI64 (o : AtomOp) (s : State) : Res := .next (s.atomic o 0x2E1 8)

/-- ATOMADD.f32. -/
def execAtomaddF32 (o : AtomOp) (s : State) : Res := .next (s.atomic o 0x2E2 4)

/-- ATOMMIN.s32. -/
def execAtomminS32 (o : AtomOp) (s : State) : Res := .next (s.atomic o 0x2E3 4)

/-- ATOMMIN.n32. -/
def execAtomminN32 (o : AtomOp) (s : State) : Res := .next (s.atomic o 0x2E4 4)

/-- ATOMMAX.s32. -/
def execAtommaxS32 (o : AtomOp) (s : State) : Res := .next (s.atomic o 0x2E5 4)

/-- ATOMMAX.n32. -/
def execAtommaxN32 (o : AtomOp) (s : State) : Res := .next (s.atomic o 0x2E6 4)

/-- ATOMAND. -/
def execAtomandB32 (o : AtomOp) (s : State) : Res := .next (s.atomic o 0x2E7 4)

/-- ATOMOR. -/
def execAtomorB32 (o : AtomOp) (s : State) : Res := .next (s.atomic o 0x2E8 4)

/-- ATOMXOR. -/
def execAtomxorB32 (o : AtomOp) (s : State) : Res := .next (s.atomic o 0x2E9 4)

/-- ATOMXCHG.b32. -/
def execAtomxchgB32 (o : AtomOp) (s : State) : Res := .next (s.atomic o 0x2EA 4)

/-- ATOMXCHG.b64. -/
def execAtomxchgB64 (o : AtomOp) (s : State) : Res := .next (s.atomic o 0x2EB 8)

/-- ATOMCAS.b32. -/
def execAtomcasB32 (o : AtomOp) (s : State) : Res := .next (s.atomic o 0x2EC 4)

/-- ATOMCAS.b64. -/
def execAtomcasB64 (o : AtomOp) (s : State) : Res := .next (s.atomic o 0x2ED 8)

/-! ### Fences (15 R327, R328) -/

/-- FENCE: it completes once every earlier store has been performed, and acknowledged where its scope reaches other
devices. -/
def execFence (o : AtomOp) (s : State) : Res :=
  .next (s.uniC o.g fun m => s.released o.scope.toNat m s.finC)

/-- FENCERO: a fence that also empties the cluster's sampler cache. -/
def execFencero (o : AtomOp) (s : State) : Res :=
  .next (s.uniC o.g fun m =>
    if 3 < o.scope.toNat then s.faultB .operandInvalid m
    else s.released o.scope.toNat m
      ({ s with ms := { s.ms with sampler := tset s.ms.sampler s.cluster [] } }).finC)

/-! ### Timelines (15 R329-R332) -/

/-- A timeline a designator names. -/
inductive Timeline where
  | slot (n : Nat)
  | mem (pa : Nat) (key : BitVec 12)
  | engine (n : Nat)
deriving DecidableEq, Repr, Inhabited

/-- KIND of a designator. -/
def desKind (d : Word) : Nat := bitsOf d.toNat 63 62

/-- The address a memory designator names. -/
def desVa (d : Word) : Word := (d.extractLsb' 0 57).signExtend 64

/-- A designator is laid out as Table 15-6 gives. -/
def desOk (d : Word) : Bool :=
  match desKind d with
  | 0 => bitsOf d.toNat 61 16 == 0
  | 1 => bitsOf d.toNat 61 57 == 0
  | 2 => bitsOf d.toNat 61 4 == 0 && decide (bitsOf d.toNat 3 0 ≤ 4)
  | _ => false

/-- The scopes a kind admits for a signal (15 R330). -/
def scopeFits (kind scope : Nat) : Bool :=
  match kind with
  | 0 => scope == 3 || scope == 5
  | 1 => scope == 1 || scope == 2 || scope == 3 || scope == 5
  | _ => false

/-- The timeline a well-formed designator names, or the failure of its address (15 R329). -/
def State.timelineOf (s : State) (d : Word) : Except Failure Timeline :=
  match desKind d with
  | 0 => .ok (.slot (bitsOf d.toNat 15 0))
  | 2 => .ok (.engine (bitsOf d.toNat 3 0))
  | _ =>
    match s.check (s.teamCtx s.issue.team) .timeline (desVa d) 8 8 with
    | .error f => .error ⟨f, faultAddr f (desVa d)⟩
    | .ok (.phys pa key, _) =>
      if (s.poisonIn pa 8).isSome then .error ⟨.poison, faultAddr .poison (desVa d)⟩
      else .ok (.mem pa key)
    | .ok _ => .error ⟨.permission, desVa d⟩

/-- The value of a timeline, as the team sees it: its own store to a memory timeline comes before its later read (15 R317 a). -/
def State.timelineVal (s : State) (t : Timeline) : Word :=
  match t with
  | .slot n => s.slotVal s.myGang.part n
  | .mem pa key => BitVec.ofNat 64 (bytesNat (s.seeLoc (.phys pa key) 8))
  | .engine 0 => s.me.copyTl
  | .engine 1 => s.myGang.trellisTl
  | .engine 2 => s.myGang.rayTl
  | .engine 3 => s.myGang.splatTl
  | .engine _ => s.myGang.collTl

/-- Signal a timeline (02 R54, 15 R330). -/
def State.signalTimeline (s : State) (t : Timeline) (v : Word) : State :=
  match t with
  | .slot n => s.signal s.myGang.part n v
  | .mem pa key => if bytesNat (s.physRead key pa 8) < v.toNat then s.physWrite key pa (natBytes v.toNat 8) else s
  | .engine _ => s

/-- TLSIG. -/
def execTlsig (o : AtomOp) (s : State) : Res :=
  .next (s.uniC o.g fun m => s.notInRecipe m (
    let des := s.rd.sget o.a.toNat
    if !desOk des || !scopeFits (desKind des) o.scope.toNat then s.faultB .operandInvalid m
    else s.released o.scope.toNat m (match s.timelineOf des with
      | .error f => s.fault f.code f.addr m
      | .ok t => (s.signalTimeline t (s.rd.sget o.d.toNat)).finC)))

/-- The first failure of a team's commands up to number v of an engine's timeline (11 R263, 12 R275). -/
def dueFail (l : List EngineFail) (u : Nat) (v : Word) : Option EngineFail :=
  (l.filter fun f => f.team == u && decide (f.num.toNat ≤ v.toNat)).foldl (fun b f => match b with
    | none => some f
    | some x => if f.num.toNat < x.num.toNat then some f else some x) none

/-- The failures a wait on engine timeline n would raise. -/
def State.failsOf (s : State) (n : Nat) : List EngineFail :=
  match n with
  | 0 => s.me.copyFails
  | 1 => s.myGang.trellisFails
  | _ => []

/-- A failure has been raised, once and for all (15 R331). -/
def State.forgetFail (s : State) (n : Nat) (f : EngineFail) : State :=
  match n with
  | 0 => s.modMe fun t => { t with copyFails := t.copyFails.filter fun x => x != f }
  | 1 => s.modMyGang fun g => { g with trellisFails := g.trellisFails.filter fun x => x != f }
  | _ => s

/-- The wait of TLWAIT holds at value v: a deferred failure is raised, or v is written; at device scope and wider the
team's copies up to v are acquired (15 R322, R331). -/
def State.waitMet (s : State) (d : BitVec 8) (scope : Nat) (t : Timeline) (v : Word) (m : LaneMask) : State :=
  match t with
  | .engine n =>
    (match dueFail (s.failsOf n) s.issue.team v with
    | some f => (s.forgetFail n f).fault f.fail.code f.fail.addr m
    | none => ((if n = 0 ∧ 3 ≤ scope then s.acquireCopies s.issue.team v.toNat else s).putS d v).fin)
  | _ => (s.putS d v).fin

/-- TLWAIT. -/
def execTlwait (o : AtomOp) (s : State) : Res :=
  .next (s.uni o.g fun m =>
    let des := s.rd.sget o.a.toNat
    let want := s.rd.sget o.d.toNat
    if desKind des = 3 then s.faultB .operandInvalid m
    else if s.inRecipe && desKind des != 2 then s.faultB .recipeIllegal m
    else if !desOk des || !(desKind des == 2 || scopeFits (desKind des) o.scope.toNat) then s.faultB .operandInvalid m
    else match s.timelineOf des with
      | .error f => s.fault f.code f.addr m
      | .ok t =>
        if t = .engine 0 ∧ s.me.copyNum.toNat < want.toNat then s.faultB .operandInvalid m
        else
          let v := s.timelineVal t
          if want.toNat ≤ v.toNat then s.waitMet o.d o.scope.toNat t v m else s.wait (.timeline des want))

/-- TLREAD. -/
def execTlread (o : A3) (s : State) : Res :=
  .next (s.uni o.g fun m =>
    let des := s.sA o
    if !desOk des then s.faultB .operandInvalid m
    else match s.timelineOf des with
      | .error f => s.fault f.code f.addr m
      | .ok t => (s.putS o.d (s.timelineVal t)).fin)

/-! ### Phase-bit barriers (15 R333-R335) -/

/-- A word of n bytes of the gang store as the team sees it, its own withheld stores included (15 R317 a). -/
def State.bankWord (s : State) (l : Loc) (n : Nat) : Nat := bytesNat (s.seeLoc l n)

/-- What BARARV leaves of a barrier word, with s[D]; none where its checks fail (15 R334). -/
def barArrive (w n : Nat) : Option (Nat × Nat) :=
  let phase := bitsOf w 31 31
  let expect := bitsOf w 19 10
  let arrived := bitsOf w 9 0
  if n = 0 ∨ expect = 0 ∨ bitsOf w 30 20 ≠ 0 ∨ expect < arrived + n then none
  else if arrived + n = expect then some ((1 - phase) * 2 ^ 31 + expect * 2 ^ 10, 2 + phase)
  else some (phase * 2 ^ 31 + expect * 2 ^ 10 + arrived + n, phase)

/-- BARARV. -/
def execBararv (o : A3) (s : State) : Res :=
  .next (s.uniC o.g fun m => s.notInRecipe m (s.drained m (
    match s.bankAt (s.sA o) 4 4 with
    | .error f => s.fault f (faultAddr f (s.sA o)) m
    | .ok l =>
      match barArrive (s.bankWord l 4) (sB s.rd false o.b).toNat with
      | none => s.faultB .operandInvalid m
      | some (w, r) =>
        ((s.writeLoc s.myGang.part s.me.gang l (natBytes w 4)).putSC o.d (BitVec.ofNat 64 r)).finC)))

/-- BARWT. -/
def execBarwt (o : A3) (s : State) : Res :=
  .next (s.uni o.g fun m => s.notInRecipe m (
    let phase := (sB s.rd false o.b).toNat % 2
    match s.bankAt (s.sA o) 4 4 with
    | .error f => s.fault f (faultAddr f (s.sA o)) m
    | .ok l =>
      if bitsOf (s.bankWord l 4) 31 31 ≠ phase then s.fin
      else s.wait (.barrier (s.sA o).toNat (phase == 1))))

/-! ### The tile-buffer table (15 R336-R338) -/

/-- A tile-buffer record: where it lies, BASE, buffers, buffer bytes, ACQ and REL. -/
structure BufTab where
  loc : Loc
  base : Nat
  nbuf : Nat
  bsize : Nat
  acq : BitVec 32
  rel : BitVec 32
deriving DecidableEq, Repr, Inhabited

/-- Read and check the record an operation names; the failure's code and address. -/
def State.bufTab (s : State) (a : Word) : Except Failure BufTab :=
  match s.bankAt a 16 16 with
  | .error f => .error ⟨f, faultAddr f a⟩
  | .ok l =>
    let w := fun (k : Nat) => s.bankWord (l.plus (4 * k)) 4
    let base := bitsOf (w 0) 21 0
    let nbuf := bitsOf (w 1) 7 0 + 1
    let bsize := (bitsOf (w 1) 19 8 + 1) * 128
    if bitsOf (w 0) 31 22 ≠ 0 ∨ bitsOf (w 1) 31 20 ≠ 0 then .error ⟨.operandInvalid, s.bundleVa⟩
    else match s.myGang.checkStore (BitVec.ofNat 64 base) (nbuf * bsize) 128 with
      | .error f => .error ⟨f, BitVec.ofNat 64 base⟩
      | .ok _ => .ok ⟨l, base, nbuf, bsize, BitVec.ofNat 32 (w 2), BitVec.ofNat 32 (w 3)⟩

/-- BUFACQ. -/
def execBufacq (o : A3) (s : State) : Res :=
  .next (s.uniC o.g fun m => s.notInRecipe m (s.drained m (
    match s.bufTab (s.sA o) with
    | .error f => s.fault f.code f.addr m
    | .ok b =>
      if b.nbuf ≤ (b.acq - b.rel).toNat then s.wait (.buffer (s.sA o).toNat)
      else
        let at_ := b.base + b.acq.toNat % b.nbuf * b.bsize
        ((s.writeLoc s.myGang.part s.me.gang (b.loc.plus 8) (natBytes (b.acq + 1).toNat 4)).putSC o.d
          (BitVec.ofNat 64 at_)).finC)))

/-- BUFREL. -/
def execBufrel (o : A3) (s : State) : Res :=
  .next (s.uniC o.g fun m => s.notInRecipe m (s.drained m (
    match s.bufTab (s.sA o) with
    | .error f => s.fault f.code f.addr m
    | .ok b =>
      let n := (sB s.rd false o.b).toNat
      if n = 0 ∨ (b.acq - b.rel).toNat < n then s.faultB .operandInvalid m
      else (s.writeLoc s.myGang.part s.me.gang (b.loc.plus 12)
        (natBytes (b.rel + BitVec.ofNat 32 n).toNat 4)).finC)))

/-! ### WQPUSH and LAUNCH (15 R339, R340) -/

/-- Slot and record count of a WQPUSH, with whether its B is laid out as R339 gives. -/
def pushArgs (r : Regs) (b : SrcB) : Nat × Nat × Bool :=
  match b with
  | .imm i => (i.toNat, 1, true)
  | x => let v := (sB r false x).toNat; (bitsOf v 7 0, bitsOf v 18 8, decide (v < 2 ^ 19))

/-- The result of a push or launch that appends nothing. -/
def State.turnedAway (s : State) (d : BitVec 8) : State := (s.putSC d (BitVec.allOnes 64)).finC

/-- Append c records to work-queue slot n, consecutively; a record that cannot be written appends none. -/
def State.appendRecords (s : State) (o : A3) (m : LaneMask) (p n c : Nat) (data : List Byte) : State :=
  let w := s.wq p n
  let size := (w.rsize + 1) * 16
  let put := (List.range c).foldl (fun (x : State × Option Failure) i => match x with
    | (y, none) => y.writeMem (sysCtx p)
        (w.store + BitVec.ofNat 64 ((w.tail.toNat + i) % 2 ^ w.capLog * size)) ((data.drop (i * size)).take size)
    | y => y) (s, none)
  match put with
  | (_, some f) => s.fault f.code f.addr m
  | (s1, none) =>
    let s2 := s1.modWq p n fun w => { w with
      tail := w.tail + BitVec.ofNat 64 c
      ticks := w.ticks ++ List.replicate c s1.tick }
    (s2.buildTakes p n (c + 1)).putSC o.d w.tail |>.finC

/-- WQPUSH. -/
def execWqpush (o : A3) (s : State) : Res :=
  .next (s.uniC o.g fun m => s.notInRecipe m (s.released 5 m (
    let p := s.myGang.part
    let x := pushArgs s.rd o.b
    let w := s.wq p x.1
    let c := x.2.1
    if !x.2.2 || c == 0 || (w.rpg != 0 && decide (2 ^ w.capLog < c)) then s.faultB .operandInvalid m
    else if w.rpg = 0 then s.turnedAway o.d
    else s.uniReadIn 0 (s.sA o) (c * ((w.rsize + 1) * 16)) 16 m fun s data =>
      if !w.enable then s.turnedAway o.d
      else if 2 ^ w.capLog < w.used + c then s.wait (.workQueue x.1 c)
      else s.appendRecords o m p x.1 c data)))

/-- LAUNCH. -/
def execLaunch (o : A3) (s : State) : Res :=
  .next (s.uniC o.g fun m => s.notInRecipe m (s.released 5 m (
    let q := (sB s.rd false o.b).toNat
    if 1024 ≤ q then s.faultB .operandInvalid m
    else s.uniReadIn 0 (s.sA o) 32 32 m fun s e =>
      let x := s.queue q
      if x.part ≠ s.myGang.part ∨ !x.device then s.fault .permission (s.sA o) m
      else if !x.hasRoom then s.turnedAway o.d
      else
        match s.writeAll (sysCtx x.part) (x.base + BitVec.ofNat 64 (x.tail.toNat % 2 ^ x.sizeLog * 32)) e with
        | (_, some f) => s.fault f.code f.addr m
        | (s1, none) =>
          ((s1.modQueue q fun y => { y with tail := y.tail + 1, built := tdel y.built y.tail.toNat }).putSC o.d
            (x.tail.zeroExtend 64)).finC)))

end Sys2Proof.Machine
end

