-- ==== Sys2Proof/Machine/Fabric.lean ====
section
/-!
DEFINITION. The Ulkai domain (18): membership, remote requests and their answers, COLL and collectives, and debugger
holds.
-/

namespace Sys2Proof.Machine

/-! ### COLL (18 R375-R378) -/

/-- A field of a collective's captured descriptor, group record and member list. -/
def collOp (b : List Byte) : Nat := bitsOf (fieldAt b 0x14 4) 1 0

/-- RED of a collective. -/
def collRed (b : List Byte) : Nat := bitsOf (fieldAt b 0x14 4) 3 2

/-- ETYPE of a collective. -/
def collEtype (b : List Byte) : Nat := bitsOf (fieldAt b 0x14 4) 6 4

/-- Bytes of an element. -/
def collSize (b : List Byte) : Nat := if collEtype b < 2 then 4 else 2

/-- COUNT of a collective. -/
def collCount (b : List Byte) : Nat := fieldAt b 0x10 4

/-- GROUP of a collective. -/
def collGroup (b : List Byte) : Nat := fieldAt b 0x18 2

/-- Members of the captured group. -/
def collMembers (b : List Byte) : Nat := bitsOf (fieldAt b 0x40 4) 11 0 + 1

/-- This device's rank. -/
def collRank (b : List Byte) : Nat := bitsOf (fieldAt b 0x40 4) 27 16

/-- Bytes a member contributes. -/
def collSrcLen (b : List Byte) : Nat := collCount b * collSize b * (if collOp b = 2 then collMembers b else 1)

/-- Bytes a member receives. -/
def collDstLen (b : List Byte) : Nat := collCount b * collSize b * (if collOp b = 1 then collMembers b else 1)

/-- A descriptor's own fields are in range (18 Table 18-4). -/
def collFields (b : List Byte) : Bool :=
  decide (fieldAt b 0x14 4 < 128) && decide (collOp b < 3) && decide (collRed b < 3) && decide (collEtype b < 4) &&
    decide (1 ≤ collCount b ∧ collCount b ≤ 268435456) && fieldAt b 0x1A 2 == 0 && (b.drop 0x28).all (· == 0)

/-- A group record names a list that this device may use: it is valid, its fields are in range and the domain is enabled
(18 Table 18-3, R378). -/
def State.recordUsable (s : State) (b : List Byte) : Bool :=
  let w := fieldAt b 0x40 4
  bitsOf w 15 12 == 0 && bitsOf w 30 28 == 0 && bitsOf w 31 31 == 1 && fieldAt b 0x44 4 == 0 &&
    decide (collMembers b ≤ 2304) && decide (collRank b < collMembers b) && s.dev.domEn

/-- A group record and its member list are usable by this device (18 Table 18-3, R378). -/
def State.groupOk (s : State) (b : List Byte) : Bool :=
  let member := fun (k : Nat) => fieldAt b (0x50 + 2 * k) 2
  s.recordUsable b && member (collRank b) == s.dev.self.toNat &&
    (List.range (collMembers b)).all fun k => decide (member k < s.dev.ndev.toNat)

/-- The first 64 KiB piece of a range of the team's memory that lies outside local HBM and the frame exchange range, or
fails its checks. -/
def State.badRange (s : State) (k : Access) (va : Word) : Nat → Nat → Option Failure
  | 0, _ => none
  | fuel + 1, n =>
    if n = 0 then none
    else
      let m := min n (65536 - va.toNat % 65536)
      match s.check (s.teamCtx s.issue.team) k va m 1 with
      | .error f => some ⟨f, faultAddr f va⟩
      | .ok (.phys pa _, _) =>
        if s.target pa == .hbm || s.target pa == .fx then s.badRange k (va + BitVec.ofNat 64 m) fuel (n - m)
        else some ⟨.permission, va⟩
      | .ok _ => s.badRange k (va + BitVec.ofNat 64 m) fuel (n - m)

/-- The checks of a COLL after its reads (18 R378). -/
def State.collCheck (s : State) (b : List Byte) : Option (FaultCode × Option Word) :=
  let src := BitVec.ofNat 64 (fieldAt b 0 8)
  let dst := BitVec.ofNat 64 (fieldAt b 8 8)
  if !s.groupOk b then some (.operandInvalid, none)
  else if src.toNat % collSize b ≠ 0 then some (.alignment, some src)
  else if dst.toNat % collSize b ≠ 0 then some (.alignment, some dst)
  else match (s.badRange .load src (collSrcLen b / 65536 + 2) (collSrcLen b)).or
      (s.badRange .store dst (collDstLen b / 65536 + 2) (collDstLen b)) with
    | some f => some (f.code, some f.addr)
    | none =>
      if overlaps src.toNat (collSrcLen b) dst.toNat (collDstLen b) && !(collOp b == 0 && src == dst) then
        some (.operandInvalid, none)
      else none

/-- The gang's collective timeline reaches n when collectives 1 to n have ended; while its partition does not run it
keeps its value (18 R380, 02 R61). -/
def State.collAdvance (s : State) (g : Nat) : State :=
  if (s.part (s.gang g).part).st != .running then s
  else s.modGang g fun x =>
    { x with
      colls := x.colls.dropWhile (·.done)
      collTl := (x.colls.takeWhile (·.done)).foldl (fun _ c => c.num) x.collTl }

/-- The key of a partition's group. -/
def groupKey (p g : Nat) : Nat := p * 65536 + g

/-- Write bytes line by line for an engine of team u, passing over lines that cannot be written now. -/
def State.linesWrite (u : Nat) (va : Word) : Nat → List Byte → State → State
  | 0, _, s => s
  | fuel + 1, data, s =>
    if data.isEmpty then s
    else
      let m := 128 - va.toNat % 128
      State.linesWrite u (va + BitVec.ofNat 64 m) fuel (data.drop m)
        (match s.engWrite u va (data.take m) with
        | .done s1 => s1
        | _ => s)

/-- The DST bytes of a collective that fails are unpredictable: each takes a free byte (18 R380; DESIGN CHOICE, log 2). -/
def State.spoilDst (s : State) (c : CollCmd) : State :=
  let n := collDstLen c.desc
  State.linesWrite c.team (BitVec.ofNat 64 (fieldAt c.desc 8 8)) (n / 128 + 2)
    ((List.range n).map fun i => Config.freeByte (s.free + i)) { s with free := s.free + n }

/-- Gang g with a collective of its queue changed. -/
def State.modColl (s : State) (g : Nat) (num : Word) (f : CollCmd → CollCmd) : State :=
  s.modGang g fun x => { x with colls := x.colls.map fun c => if c.num = num then f c else c }

/-- A collective's RESULT is written: a failure leaves a record and may mark the group, and the timeline advances
(18 R380, R381). -/
def State.collClose (s : State) (g : Nat) (c : CollCmd) (f : Option FaultCode) : State :=
  let k := groupKey (s.gang g).part (collGroup c.desc)
  let s2 := match f with
    | none => s
    | some x => s.engineRecord g c.team false x.num c.addr c.addr
  let s3 := if f = some .collectiveTimeout ∨ f = some .fabricError then
      { s2 with dev := { s2.dev with groups := tset s2.dev.groups k ((tget (0, none) s2.dev.groups k).1, f) } } else s2
  ((s3.modTeam c.team fun t => t.engDone (.coll c.num)).modColl g c.num fun y => { y with done := true }).collAdvance g

/-- A collective has come to its end with a code: RESULT is written, once it can be; one that cannot be written at all is
not (18 R380 names no failure of that write; DESIGN CHOICE, log 70). -/
def State.collDone (s : State) (g : Nat) (c : CollCmd) (f : Option FaultCode) : State :=
  let code := match f with | some x => x.num | none => 0
  match s.engWrite c.team (c.addr + 0x20) (natBytes code 8) with
  | .done s1 => s1.collClose g c f
  | .fail _ s1 => s1.collClose g c f
  | .wait s1 => s1.modColl g c.num fun y => { y with outcome := some f }

/-- A collective fails. -/
def State.collFail (s : State) (g : Nat) (c : CollCmd) (f : FaultCode) : State := (s.spoilDst c).collDone g c (some f)

/-- COLL enters the gang's queue; on a FAILED group it ends at once (18 R376, R378, R381). -/
def State.collAccept (s : State) (d : BitVec 8) (b : List Byte) (addr : Word) : State :=
  let k := groupKey s.myGang.part (collGroup b)
  let grp := tget (0, none) s.dev.groups k
  let num := s.myGang.collNum + 1
  let c : CollCmd := ⟨num, s.issue.team, b, addr, grp.1 + 1, 0, none, false,
    s.mapping (s.teamCtx s.issue.team) [(BitVec.ofNat 64 (fieldAt b 0 8), collSrcLen b), (BitVec.ofNat 64 (fieldAt b 8 8), collDstLen b),
      (addr, 64)], none⟩
  let s1 := { s with dev := { s.dev with groups := tset s.dev.groups k (grp.1 + 1, grp.2) } }
  let s2 := ((s1.modMyGang fun g => { g with collNum := num, colls := g.colls ++ [c] }).putSC d num).finC
  match grp.2 with
  | some f => s2.asEngine (.coll num) fun s => s.collFail s.me.gang c f
  | none => s2

/-- COLL: the member list is read once its record has passed its checks (18 R378). -/
def execColl (o : A3) (s : State) : Res :=
  .next (s.uniC o.g fun m => s.notInRecipe m (s.drained m (s.uniReadIn 0 (s.sA o) 64 64 m fun s b =>
    let tab := (s.part s.myGang.part).collGrp
    if !collFields b || decide (bitsOf tab.toNat 15 0 ≤ collGroup b) then s.faultB .operandInvalid m
    else
      let at_ := BitVec.ofNat 64 (bitsOf tab.toNat 63 16 * 65536 + 16 * collGroup b)
      s.uniReadIn 0 at_ 16 16 m fun s r =>
        if !s.recordUsable (b ++ r) then s.faultB .operandInvalid m
        else s.uniReadIn 0 (BitVec.ofNat 64 (fieldAt r 8 8)) (2 * (bitsOf (fieldAt r 0 4) 11 0 + 1)) 2 m fun s l =>
          let all := b ++ r ++ l
          match s.collCheck all with
          | some (c, none) => s.faultB c m
          | some (c, some a) => s.fault c a m
          | none => s.collAccept o.d all (s.sA o))))

/-! ### The end of a collective (18 R379-R384) -/

/-- The leaves of a tree. -/
def treeRanks : RedTree → List Nat
  | .leaf r => [r]
  | .node a b => treeRanks a ++ treeRanks b

/-- The tree combines each rank once. -/
def treeOk (t : RedTree) (n : Nat) : Bool :=
  (treeRanks t).length == n && (List.range n).all fun k => (treeRanks t).contains k

/-- The wide value of an element: i32 as it is, the floats in binary32. -/
def collWiden (ety x : Nat) : Nat :=
  match ety with
  | 2 => (bf16.decode x).round f32 .rne false
  | 3 => (f16.decode x).round f32 .rne false
  | _ => x

/-- One combining step (18 R379). -/
def collStep (ety red a b : Nat) : Nat :=
  if ety = 0 then
    let x := BitVec.ofNat 32 a
    let y := BitVec.ofNat 32 b
    (match red with
      | 0 => x + y
      | 1 => if y.slt x then y else x
      | _ => if x.slt y then y else x).toNat
  else
    let x := f32.decode a
    let y := f32.decode b
    (match red with
      | 0 => FVal.add false x y
      | 1 => FVal.min x y
      | _ => FVal.max x y).round f32 .rne false

/-- Reduce the values of the ranks along a tree. -/
def treeReduce (ety red : Nat) (v : Nat → Nat) : RedTree → Nat
  | .leaf r => v r
  | .node a b => collStep ety red (treeReduce ety red v a) (treeReduce ety red v b)

/-- The final value of an element: one rounding to ETYPE. -/
def collNarrow (ety x : Nat) : Nat :=
  match ety with
  | 0 => x
  | 1 => (f32.decode x).round f32 .rne false
  | 2 => (f32.decode x).round bf16 .rne false
  | _ => (f32.decode x).round f16 .rne false

/-- The DST bytes of a collective from every rank's SRC bytes (18 R379). -/
def collResult (b : List Byte) (src : List (List Byte)) (t : RedTree) : List Byte :=
  let e := collSize b
  let n := collCount b
  let ety := collEtype b
  if collOp b = 1 then src.flatten
  else
    let off := if collOp b = 2 then collRank b * n else 0
    (List.range n).flatMap fun i =>
      natBytes (collNarrow ety (treeReduce ety (collRed b)
        (fun r => collWiden ety (fieldAt (src.getD r []) ((off + i) * e) e)) t)) e

/-- COLLECTIVE_END: with every member's data, the collective ends and DST and RESULT are written; members that do not
agree end with FABRIC_ERROR. Data that does not fit the collective ends nothing. -/
def execCollectiveEnd (gang num : Nat) (peers : List (List Byte)) (tree : RedTree) (agree : Bool) (s : State) : Res :=
  .next (match (s.gang gang).colls.find? fun c => c.num.toNat == num && !c.done && c.outcome.isNone with
    | none => s
    | some c => s.under (.coll c.num) c.old fun s =>
      let b := c.desc
      if !agree then s.collFail gang c .fabricError
      else if peers.length ≠ collMembers b ∨ !treeOk tree (collMembers b) ∨ (peers.any fun p => p.length != collSrcLen b) then s
      else
        let ctx := s.teamCtx c.team
        let src := BitVec.ofNat 64 (fieldAt b 0 8)
        match (s.engResolve c.team (s.engGet ctx .load src (collSrcLen b))).andPut fun own =>
          (s.noteRange ctx src (collSrcLen b)).engWrite c.team (BitVec.ofNat 64 (fieldAt b 8 8)) (collResult b (peers.set (collRank b) own) tree) with
        | .done s1 => s1.collDone gang c none
        | .fail f s1 => s1.collFail gang c f.code
        | .wait s1 => s1)

/-- COLLECTIVE_EXPIRY: a collective due to expire for 2,000 ticks ends with COLLECTIVE_TIMEOUT (18 R384); one whose RESULT
is still to be written goes on with it. -/
def execCollectiveExpiry (gang num : Nat) (s : State) : Res :=
  .next (match (s.gang gang).colls.find? fun c => c.num.toNat == num && !c.done with
    | none => s
    | some c => match c.outcome, c.due with
      | some f, _ => s.under (.coll c.num) c.old fun s => s.collDone gang c f
      | none, some t =>
        if t + 2000 ≤ s.tick then s.under (.coll c.num) c.old fun s => s.collFail gang c .collectiveTimeout else s
      | none, none => s)

/-- COLLRST (18 R375). -/
def execCollrstWrite (p : Nat) (v : BitVec 64) (s : State) : Res :=
  .next (s.ready (
    let g := bitsOf v.toNat 15 0
    let k := groupKey p g
    let busy := s.gangs.any fun x => x.2.part == p && x.2.colls.any fun c => !c.done && collGroup c.desc == g
    if !v.getLsbD 16 then s
    else if (tget (0, none) s.dev.groups k).2.isSome || !busy then
      { s with dev := { s.dev with groups := tset s.dev.groups k (0, none) } }
    else s))

/-- A hold notice from a device of its group cancels a collective's expiry while that is due for at most 2,000 ticks. -/
def CollCmd.noticed (c : CollCmd) (device now : Nat) : CollCmd :=
  let inTime := match c.due with | some t => decide (now ≤ t + 2000) | none => false
  if (collDevices c.desc).contains device && inTime then { c with due := none } else c

/-- HOLD_NOTICE_RECEIVED: a member's notice stops counting and cancels an expiry that is due (18 R384). -/
def execHoldNoticeReceived (device : Nat) (s : State) : Res :=
  .next (
    let l := if s.dev.notices.contains device then s.dev.notices else s.dev.notices ++ [device]
    let hear := fun (g : Gang) => { g with colls := g.colls.map fun c => c.noticed device s.tick }
    { s with dev := { s.dev with notices := l }, gangs := s.gangs.map fun g => (g.1, hear g.2) })

/-- RELEASE_NOTICE_RECEIVED (18 R384). -/
def execReleaseNoticeReceived (device : Nat) (s : State) : Res :=
  .next { s with dev := { s.dev with notices := s.dev.notices.filter fun d => d != device } }

/-! ### Membership and remote requests (18 R370-R374) -/

/-- DOMCFG (18 R370): refused, with ERR, unless every partition is OFF and its indices fit. -/
def execDomcfgWrite (v : BitVec 64) (s : State) : Res :=
  .next (s.ready (
    let ndev := bitsOf v.toNat 44 32
    let self := bitsOf v.toNat 27 16
    if (s.parts.any fun p => p.2.st != .off) || decide (ndev = 0 ∨ 2304 < ndev ∨ ndev ≤ self) then
      { s with dev := { s.dev with domErr := true } }
    else { s with dev := { s.dev with
      ndev := BitVec.ofNat 13 ndev, self := BitVec.ofNat 12 self, domPart := v.extractLsb' 9 3
      domErr := s.dev.domErr && !v.getLsbD 1, domEn := v.getLsbD 0 } }))

/-- Answer a peer. -/
def State.answerPeer (s : State) (r : RemoteResp) : State := { s with dev := { s.dev with peerAnswer := some r } }

/-- A peer's request refused: the answer says why and the device error log keeps its address (19 R401). -/
def State.refusePeer (s : State) (device : Nat) (q : RemoteReq) (c : FaultCode) (r : RemoteResp) : State :=
  (s.logDevice c.num 1 1 (device % 4096) (BitVec.ofNat 64 q.offset)).answerPeer r

/-- REMOTE_ACCESS_INCOMING: a peer's request is performed at this device's home slice, or answered with its failure
(18 R372). -/
def execRemoteAccessIncoming (device : Nat) (req : RemoteReq) (s : State) : Res :=
  .next (
    let a := req.offset % 2 ^ 39
    if !s.dev.domEn || decide (s.dev.ndev.toNat < req.ndev) then s.refusePeer device req .fabricError .error
    else if !s.keyOk s.dev.domPart.toNat req.keyId then s.refusePeer device req .keyInvalid .keyFailed
    else match req.kind with
      | .load =>
        if (s.poisonIn a req.len).isSome then s.refusePeer device req .poison .poison
        else s.answerPeer (.ok (s.physRead req.keyId a req.len))
      | .store d => (s.physWrite req.keyId a d).answerPeer (.ok [])
      | .atomic op x e =>
        if (s.poisonIn a req.len).isSome then s.refusePeer device req .poison .poison
        else
          let old := s.physRead req.keyId a req.len
          (s.physWrite req.keyId a (natBytes (atomNew op (BitVec.ofNat 64 (bytesNat old)) x e).toNat req.len)).answerPeer (.ok old))

/-- A request is a store, which its owner acknowledges. -/
def RemoteOut.isStore (r : RemoteOut) : Bool :=
  match r.req.kind with
  | .store _ => true
  | _ => false

/-- Answer the oldest unanswered request of a list that a predicate picks. -/
def answerFirst (p : RemoteOut → Bool) (l : List RemoteOut) (r : RemoteResp) : List RemoteOut :=
  match l with
  | [] => []
  | x :: q => if x.answer.isNone && p x then { x with answer := some r } :: q else x :: answerFirst p q r

/-- Answer the oldest unanswered request of a team, its operation's before its engines'. -/
def Team.answer (t : Team) (r : RemoteResp) : Team :=
  if t.remote.any fun x => x.answer.isNone then { t with remote := answerFirst (fun _ => true) t.remote r }
  else { t with engRemote := answerFirst (fun x => !x.isStore) t.engRemote r }

/-- REMOTE_RESPONSE. -/
def execRemoteResponse (team : Nat) (resp : RemoteResp) (s : State) : Res := .next (s.modTeam team fun t => t.answer resp)

/-- The oldest remote store of a team is acknowledged, its own before its engines': a failure waits for the team
(18 R374), or stops the engine's command (11 R263, 12 R275). -/
def Team.ackStore (t : Team) (r : RemoteResp) : Team :=
  match t.unacked with
  | [] => { t with engRemote := answerFirst RemoteOut.isStore t.engRemote r }
  | x :: q => { t with
      unacked := q
      storeFails := match respFail r with
        | some c => t.storeFails ++ [⟨c, x.va⟩]
        | none => t.storeFails }

/-- REMOTE_STORE_ACK. -/
def execRemoteStoreAck (team : Nat) (resp : RemoteResp) (s : State) : Res := .next (s.modTeam team fun t => t.ackStore resp)

/-- REMOTE_TIMEOUT: a request of a team unanswered for 200,000 ticks is answered with an error (18 R373). -/
def execRemoteTimeout (team : Nat) (s : State) : Res :=
  .next (s.modTeam team fun t =>
    let late := fun (x : RemoteOut) => x.answer.isNone && decide (x.sentAt + 200000 ≤ s.tick)
    let fix := fun (l : List RemoteOut) => l.map fun x => if late x then { x with answer := some .error } else x
    let t1 := { t with remote := fix t.remote, engRemote := fix t.engRemote }
    match t1.unacked with
    | x :: _ => if late x then t1.ackStore .error else t1
    | [] => t1)

end Sys2Proof.Machine
end

