-- ==== Sys2Proof/Machine/FloatOps.lean ====
section
/-!
DEFINITION. Floating-point operations, special functions and conversions of the V slots (09 R204-R212).
-/

namespace Sys2Proof.Machine

/-- FMT as the operation sees it (06 R135). -/
def State.fmtSeen (s : State) : BitVec 32 := s.rd.fmt

/-- The rounding mode of the operation. -/
def State.rm (s : State) : RMode := fmtRm s.fmtSeen

/-- RDN turns exact zeros negative (07 R152). -/
def State.rdn (s : State) : Bool := s.rm == .rdn

/-- A 32-bit result code. -/
def code32 (n : Nat) : Lane := BitVec.ofNat 32 n

/-- v[D] from binary32 A and B. -/
def State.fp2 (s : State) (o : A3) (f : FVal → FVal → FVal) : State :=
  let m := s.effMask o.g
  s.vOp m (o.a :: bRegs o.b) [o.d]
    (s.putV o.d m fun l => code32 ((f (f32.decode (s.vsrc o.a l).toNat) (f32.decode (s.bF32 o.b l).toNat)).round f32 s.rm false))

/-- v[D:D+1] from binary64 A and B. -/
def State.fw2 (s : State) (o : A3) (f : FVal → FVal → FVal) : State :=
  let m := s.effMask o.g
  s.vOp m [] []
    (s.putV64 o.d m fun l =>
      BitVec.ofNat 64 ((f (f64.decode (s.vsrc64 o.a l).toNat) (f64.decode (s.bF64 o.b l).toNat)).round f64 s.rm false))

/-- Element j of a packed pair. -/
def packElem (f : Fmt) (x : Lane) (j : Nat) : FVal := f.decode (x.extractLsb' (16 * j) 16).toNat

/-- A packed pair from two codes. -/
def packPair (a b : Nat) : Lane := BitVec.ofNat 32 (a % 65536 + b % 65536 * 65536)

/-- v[D] from packed A and B, element by element (07 R149). -/
def State.fh2 (s : State) (o : A3) (t : Fmt) (f : FVal → FVal → FVal) : State :=
  let m := s.effMask o.g
  s.vOp m (o.a :: bRegs o.b) [o.d] (s.putV o.d m fun l =>
    let a := s.vsrc o.a l
    let b := s.bPack t o.b l
    let e := fun j => (f (packElem t a j) (packElem t b j)).round t s.rm false
    packPair (e 0) (e 1))

/-- FADD.f32: A + B (09 R204). -/
def execFaddF32 (o : A3) (s : State) : Res := .next (s.fp2 o (fun a b => FVal.add s.rdn a b))

/-- FADD.f64: A + B (09 R204). -/
def execFaddF64 (o : A3) (s : State) : Res := .next (s.fw2 o (fun a b => FVal.add s.rdn a b))

/-- FADD.h2: A + B (09 R204). -/
def execFaddH2 (o : A3) (s : State) : Res := .next (s.fh2 o f16 (fun a b => FVal.add s.rdn a b))

/-- FADD.bh2: A + B (09 R204). -/
def execFaddBh2 (o : A3) (s : State) : Res := .next (s.fh2 o bf16 (fun a b => FVal.add s.rdn a b))

/-- FSUB.f32: A - B (09 R204). -/
def execFsubF32 (o : A3) (s : State) : Res := .next (s.fp2 o (fun a b => FVal.add s.rdn a b.neg))

/-- FSUB.f64: A - B (09 R204). -/
def execFsubF64 (o : A3) (s : State) : Res := .next (s.fw2 o (fun a b => FVal.add s.rdn a b.neg))

/-- FSUB.h2: A - B (09 R204). -/
def execFsubH2 (o : A3) (s : State) : Res := .next (s.fh2 o f16 (fun a b => FVal.add s.rdn a b.neg))

/-- FSUB.bh2: A - B (09 R204). -/
def execFsubBh2 (o : A3) (s : State) : Res := .next (s.fh2 o bf16 (fun a b => FVal.add s.rdn a b.neg))

/-- FMUL.f32: A × B (09 R204). -/
def execFmulF32 (o : A3) (s : State) : Res := .next (s.fp2 o FVal.mul)

/-- FMUL.f64: A × B (09 R204). -/
def execFmulF64 (o : A3) (s : State) : Res := .next (s.fw2 o FVal.mul)

/-- FMUL.h2: A × B (09 R204). -/
def execFmulH2 (o : A3) (s : State) : Res := .next (s.fh2 o f16 FVal.mul)

/-- FMUL.bh2: A × B (09 R204). -/
def execFmulBh2 (o : A3) (s : State) : Res := .next (s.fh2 o bf16 FVal.mul)

/-- FFMA.f32: A × B + v[D] with one rounding (09 R204). -/
def execFfmaF32 (o : A3) (s : State) : Res :=
  let m := s.effMask o.g
  .next (s.vOp m (o.a :: bRegs o.b) [] (s.putV o.d m fun l =>
    let p := (f32.decode (s.vsrc o.a l).toNat).mul (f32.decode (s.bF32 o.b l).toNat)
    code32 ((FVal.add s.rdn p (f32.decode (s.rd.vget o.d.toNat l).toNat)).round f32 s.rm false)))

/-- FFMA.f64 (09 R204). -/
def execFfmaF64 (o : A3) (s : State) : Res :=
  let m := s.effMask o.g
  .next (s.vOp m [] [] (s.putV64 o.d m fun l =>
    let p := (f64.decode (s.vsrc64 o.a l).toNat).mul (f64.decode (s.bF64 o.b l).toNat)
    BitVec.ofNat 64 ((FVal.add s.rdn p (f64.decode (s.vsrc64 o.d l).toNat)).round f64 s.rm false)))

/-- FFMA of packed pairs (09 R204). -/
def State.fmaPack (s : State) (o : A3) (t : Fmt) : State :=
  let m := s.effMask o.g
  s.vOp m (o.a :: bRegs o.b) [] (s.putV o.d m fun l =>
    let a := s.vsrc o.a l
    let b := s.bPack t o.b l
    let d := s.rd.vget o.d.toNat l
    let e := fun j => (FVal.add s.rdn ((packElem t a j).mul (packElem t b j)) (packElem t d j)).round t s.rm false
    packPair (e 0) (e 1))

/-- FFMA.h2 (09 R204). -/
def execFfmaH2 (o : A3) (s : State) : Res := .next (s.fmaPack o f16)

/-- FFMA.bh2 (09 R204). -/
def execFfmaBh2 (o : A3) (s : State) : Res := .next (s.fmaPack o bf16)

/-- FMIN.f32: minimum (09 R204). -/
def execFminF32 (o : A3) (s : State) : Res := .next (s.fp2 o FVal.min)

/-- FMIN.f64: minimum (09 R204). -/
def execFminF64 (o : A3) (s : State) : Res := .next (s.fw2 o FVal.min)

/-- FMIN.h2: minimum (09 R204). -/
def execFminH2 (o : A3) (s : State) : Res := .next (s.fh2 o f16 FVal.min)

/-- FMIN.bh2: minimum (09 R204). -/
def execFminBh2 (o : A3) (s : State) : Res := .next (s.fh2 o bf16 FVal.min)

/-- FMAX.f32: maximum (09 R204). -/
def execFmaxF32 (o : A3) (s : State) : Res := .next (s.fp2 o FVal.max)

/-- FMAX.f64: maximum (09 R204). -/
def execFmaxF64 (o : A3) (s : State) : Res := .next (s.fw2 o FVal.max)

/-- FMAX.h2: maximum (09 R204). -/
def execFmaxH2 (o : A3) (s : State) : Res := .next (s.fh2 o f16 FVal.max)

/-- FMAX.bh2: maximum (09 R204). -/
def execFmaxBh2 (o : A3) (s : State) : Res := .next (s.fh2 o bf16 FVal.max)

/-- p[D] from binary32 A and B (09 R205). -/
def State.fcmp (s : State) (o : A3) (r : FRel) : State :=
  let m := s.effMask o.g
  s.vOp m (o.a :: bRegs o.b) []
    (s.putP o.d m fun l => r.holds (f32.decode (s.vsrc o.a l).toNat) (f32.decode (s.bF32 o.b l).toNat))

/-- p[D] from binary64 A and B (09 R205). -/
def State.fcmpW (s : State) (o : A3) (r : FRel) : State :=
  let m := s.effMask o.g
  s.vOp m [] [] (s.putP o.d m fun l => r.holds (f64.decode (s.vsrc64 o.a l).toNat) (f64.decode (s.bF64 o.b l).toNat))

/-- FCMPEQ.f32 (09 R205). -/
def execFcmpeqF32 (o : A3) (s : State) : Res := .next (s.fcmp o .eq)

/-- FCMPEQ.f64 (09 R205). -/
def execFcmpeqF64 (o : A3) (s : State) : Res := .next (s.fcmpW o .eq)

/-- FCMPLT.f32 (09 R205). -/
def execFcmpltF32 (o : A3) (s : State) : Res := .next (s.fcmp o .lt)

/-- FCMPLT.f64 (09 R205). -/
def execFcmpltF64 (o : A3) (s : State) : Res := .next (s.fcmpW o .lt)

/-- FCMPLE.f32 (09 R205). -/
def execFcmpleF32 (o : A3) (s : State) : Res := .next (s.fcmp o .le)

/-- FCMPLE.f64 (09 R205). -/
def execFcmpleF64 (o : A3) (s : State) : Res := .next (s.fcmpW o .le)

/-- FCMPUN.f32 (09 R205). -/
def execFcmpunF32 (o : A3) (s : State) : Res := .next (s.fcmp o .un)

/-- FCMPUN.f64 (09 R205). -/
def execFcmpunF64 (o : A3) (s : State) : Res := .next (s.fcmpW o .un)

/-- FRND.f32: to an integral value under FMT.RM (09 R206). -/
def execFrndF32 (o : A3) (s : State) : Res :=
  .next (s.v1 o fun a => code32 (((f32.decode a.toNat).integral s.rm).round f32 s.rm false))

/-- FRND.f64 (09 R206). -/
def execFrndF64 (o : A3) (s : State) : Res :=
  .next (s.w1 o fun a => BitVec.ofNat 64 (((f64.decode a.toNat).integral s.rm).round f64 s.rm false))

/-- FCLASS.f32: one bit for the class (09 R206). -/
def execFclassF32 (o : A3) (s : State) : Res := .next (s.v1 o fun a => code32 (2 ^ classBit f32 a.toNat))

/-- FCLASS.f64: the word goes to one register (09 R206). -/
def execFclassF64 (o : A3) (s : State) : Res :=
  let m := s.effMask o.g
  .next (s.vOp m [] [o.d] (s.putV o.d m fun l => code32 (2 ^ classBit f64 (s.vsrc64 o.a l).toNat)))

/-- Element j of four binary8 codes. -/
def b8Elem (f : Fmt8) (x : Lane) (j : Nat) : FVal := f.decode (x.extractLsb' (8 * j) 8).toNat

/-- The exact sum of an accumulator and products, rounded once to binary32 (09 R207). -/
def State.dotOf (s : State) (acc : Lane) (l : List FVal) : Lane :=
  code32 ((l.foldl (FVal.add s.rdn) (f32.decode acc.toNat)).round f32 s.rm false)

/-- FDOT4.b8x4 (09 R207). -/
def execFdot4B8x4 (o : A3) (s : State) : Res :=
  let m := s.effMask o.g
  let f := fmtSrc s.fmtSeen
  .next (s.vOp m (o.a :: bRegs o.b) [] (s.putV o.d m fun l =>
    s.dotOf (s.rd.vget o.d.toNat l)
      ((List.range 4).map fun j => (b8Elem f (s.vsrc o.a l) j).mul (b8Elem f (s.bLane true o.b l) j))))

/-- FDOT2 of a 16-bit format (09 R207). -/
def State.dot2 (s : State) (o : A3) (t : Fmt) : State :=
  let m := s.effMask o.g
  s.vOp m (o.a :: bRegs o.b) [] (s.putV o.d m fun l =>
    s.dotOf (s.rd.vget o.d.toNat l)
      ((List.range 2).map fun j => (packElem t (s.vsrc o.a l) j).mul (packElem t (s.bPack t o.b l) j)))

/-- FDOT2.h2 (09 R207). -/
def execFdot2H2 (o : A3) (s : State) : Res := .next (s.dot2 o f16)

/-- FDOT2.bh2 (09 R207). -/
def execFdot2Bh2 (o : A3) (s : State) : Res := .next (s.dot2 o bf16)

/-! ### Special functions (09 R208) -/

/-- FRCP.f32 (09 R208). -/
def execFrcpF32 (o : A3) (s : State) : Res :=
  .next (s.v1 o fun a => code32 (FVal.rcpBits f32 s.rm (f32.decode a.toNat)))

/-- FRCP.f64 (09 R208). -/
def execFrcpF64 (o : A3) (s : State) : Res :=
  .next (s.w1 o fun a => BitVec.ofNat 64 (FVal.rcpBits f64 s.rm (f64.decode a.toNat)))

/-- FRSQ.f32 (09 R208). -/
def execFrsqF32 (o : A3) (s : State) : Res :=
  .next (s.v1 o fun a => code32 (FVal.rsqBits f32 s.rm (f32.decode a.toNat)))

/-- FRSQ.f64 (09 R208). -/
def execFrsqF64 (o : A3) (s : State) : Res :=
  .next (s.w1 o fun a => BitVec.ofNat 64 (FVal.rsqBits f64 s.rm (f64.decode a.toNat)))

/-- FSQRT.f32 (09 R208). -/
def execFsqrtF32 (o : A3) (s : State) : Res :=
  .next (s.v1 o fun a => code32 (FVal.sqrtBits f32 s.rm (f32.decode a.toNat)))

/-- FSQRT.f64 (09 R208). -/
def execFsqrtF64 (o : A3) (s : State) : Res :=
  .next (s.w1 o fun a => BitVec.ofNat 64 (FVal.sqrtBits f64 s.rm (f64.decode a.toNat)))

/-- FDIV.f32 (09 R208). -/
def execFdivF32 (o : A3) (s : State) : Res :=
  let m := s.effMask o.g
  .next (s.vOp m (o.a :: bRegs o.b) [o.d] (s.putV o.d m fun l =>
    code32 (FVal.divBits f32 s.rm (f32.decode (s.vsrc o.a l).toNat) (f32.decode (s.bF32 o.b l).toNat))))

/-- FDIV.f64 (09 R208). -/
def execFdivF64 (o : A3) (s : State) : Res :=
  let m := s.effMask o.g
  .next (s.vOp m [] [] (s.putV64 o.d m fun l =>
    BitVec.ofNat 64 (FVal.divBits f64 s.rm (f64.decode (s.vsrc64 o.a l).toNat) (f64.decode (s.bF64 o.b l).toNat))))

/-- FEXP2 (09 R208). -/
def execFexp2F32 (o : A3) (s : State) : Res :=
  .next (s.v1 o fun a => code32 (FVal.exp2Bits s.rm (f32.decode a.toNat)))

/-- FLOG2 (09 R208). -/
def execFlog2F32 (o : A3) (s : State) : Res :=
  .next (s.v1 o fun a => code32 (FVal.log2Bits s.rm (f32.decode a.toNat)))

/-- FSINP (09 R208). -/
def execFsinpF32 (o : A3) (s : State) : Res :=
  .next (s.v1 o fun a => code32 (FVal.sinpBits s.rm (f32.decode a.toNat)))

/-- FCOSP (09 R208). -/
def execFcospF32 (o : A3) (s : State) : Res :=
  .next (s.v1 o fun a => code32 (FVal.cospBits s.rm (f32.decode a.toNat)))

/-! ### Conversions (09 R209-R212) -/

/-- A type of CVT takes 64 bits. -/
def wideType (ty : Nat) : Bool := decide (2 ≤ ty ∧ ty ≤ 4)

/-- CVT to a destination type from the source type B names; an integer type copied to itself, and a NaN becomes
canonical (09 R209). -/
def State.cvt (s : State) (o : A3) (ty : Nat) : State :=
  let m := s.effMask o.g
  let src := o.b.code
  let val := fun (l : Nat) => if wideType src then s.vsrc64 o.a l else (s.vsrc o.a l).zeroExtend 64
  let res := fun (l : Nat) => cvtTo ty s.fmtSeen (cvtSource src s.fmtSeen (val l))
  s.vOp m (if wideType src then [] else [o.a]) (if wideType ty then [] else [o.d])
    (if wideType ty then s.putV64 o.d m res else s.putV o.d m fun l => (res l).extractLsb' 0 32)

/-- CVT.s32 (09 R209). -/
def execCvtS32 (o : A3) (s : State) : Res := .next (s.cvt o 0)

/-- CVT.n32 (09 R209). -/
def execCvtN32 (o : A3) (s : State) : Res := .next (s.cvt o 1)

/-- CVT.s64 (09 R209). -/
def execCvtS64 (o : A3) (s : State) : Res := .next (s.cvt o 2)

/-- CVT.n64 (09 R209). -/
def execCvtN64 (o : A3) (s : State) : Res := .next (s.cvt o 3)

/-- CVT.f64 (09 R209). -/
def execCvtF64 (o : A3) (s : State) : Res := .next (s.cvt o 4)

/-- CVT.f32 (09 R209). -/
def execCvtF32 (o : A3) (s : State) : Res := .next (s.cvt o 5)

/-- CVT.f16 (09 R209). -/
def execCvtF16 (o : A3) (s : State) : Res := .next (s.cvt o 6)

/-- CVT.bf16 (09 R209). -/
def execCvtBf16 (o : A3) (s : State) : Res := .next (s.cvt o 7)

/-- CVT.b8 (09 R209). -/
def execCvtB8 (o : A3) (s : State) : Res := .next (s.cvt o 8)

/-- CVTSR.b8: stochastic rounding of binary32 (09 R210, 07 R159). -/
def execCvtsrB8 (o : A3) (s : State) : Res :=
  .next (s.v2 o false fun a r => code32 ((fmtDst s.fmtSeen).cvtsr r.toNat (f32.decode a.toNat)))

/-- CVTSR.bf16 (09 R210, 07 R159). -/
def execCvtsrBf16 (o : A3) (s : State) : Res :=
  .next (s.v2 o false fun a r => code32 ((f32.decode a.toNat).cvtsr bf16 (fmtSat s.fmtSeen) r.toNat))

/-- CVTSR.f16 (09 R210, 07 R159). -/
def execCvtsrF16 (o : A3) (s : State) : Res :=
  .next (s.v2 o false fun a r => code32 ((f32.decode a.toNat).cvtsr f16 (fmtSat s.fmtSeen) r.toNat))

/-- VPACK.b8x4: four binary32 values from two pairs (09 R211). -/
def execVpackB8x4 (o : A3) (s : State) : Res :=
  let m := s.effMask o.g
  let e := fun (x : Lane) => (fmtDst s.fmtSeen).encode s.rm (f32.decode x.toNat)
  let b := match o.b with
    | .reg x => x
    | _ => 0
  .next (s.vOp m [] [o.d] (s.putV o.d m fun l =>
    code32 (e (s.rd.vget o.a.toNat l) + e (s.rd.vget (o.a.toNat + 1) l) * 2 ^ 8 + e (s.rd.vget b.toNat l) * 2 ^ 16 +
      e (s.rd.vget (b.toNat + 1) l) * 2 ^ 24)))

/-- VPACK of a 16-bit format (09 R211). -/
def State.vpack (s : State) (o : A3) (t : Fmt) : State :=
  let e := fun (x : Lane) => (f32.decode x.toNat).round t s.rm (fmtSat s.fmtSeen)
  s.v2 o true fun a b => packPair (e a) (e b)

/-- VPACK.h2 (09 R211). -/
def execVpackH2 (o : A3) (s : State) : Res := .next (s.vpack o f16)

/-- VPACK.bh2 (09 R211). -/
def execVpackBh2 (o : A3) (s : State) : Res := .next (s.vpack o bf16)

/-- Write n registers from v[D] on, register j from `f j`. -/
def State.putRun (s : State) (d : Nat) (m : LaneMask) (f : Nat → Nat → Lane) : Nat → State
  | 0 => s
  | n + 1 => (s.putRun d m f n).putReg (d + n) m (f n)

/-- VUNPK.b8x4 (09 R212). -/
def execVunpkB8x4 (o : A3) (s : State) : Res :=
  let m := s.effMask o.g
  .next (s.vOp m [o.a] [] (s.putRun o.d.toNat m (fun j l =>
    code32 ((b8Elem (fmtSrc s.fmtSeen) (s.vsrc o.a l) j).round f32 .rne false)) 4))

/-- VUNPK of a 16-bit format (09 R212). -/
def State.vunpk (s : State) (o : A3) (t : Fmt) : State :=
  let m := s.effMask o.g
  s.vOp m [o.a] [] (s.putRun o.d.toNat m (fun j l => code32 ((packElem t (s.vsrc o.a l) j).round f32 .rne false)) 2)

/-- VUNPK.h2 (09 R212). -/
def execVunpkH2 (o : A3) (s : State) : Res := .next (s.vunpk o f16)

/-- VUNPK.bh2 (09 R212). -/
def execVunpkBh2 (o : A3) (s : State) : Res := .next (s.vunpk o bf16)

end Sys2Proof.Machine
end

