-- ==== Sys2Proof/Machine/Rings.lean ====
section
/-!
DEFINITION. Rings and walkers: QINIT, QCOMMIT, QPOP, WBIND, WSTART, WSTOP (11 R250-R258).
-/

namespace Sys2Proof.Machine

/-- A gang with ring q replaced. -/
def Gang.setRing (g : Gang) (q : Nat) (r : Ring) : Gang := { g with rings := tset g.rings q r }

/-- A gang with walker w replaced. -/
def Gang.setWalker (g : Gang) (w : Nat) (x : Walker) : Gang := { g with walkers := tset g.walkers w x }

/-- QINIT (11 R251). -/
def execQinit (o : A3) (s : State) : Res :=
  .next (s.uni o.g fun m =>
    let base := s.sA o
    let cfg := sB s.rd false o.b
    let r : Ring := ⟨base.toNat % 2 ^ 22, bitsOf cfg.toNat 7 0, bitsOf cfg.toNat 12 8, true, false, 0, 0, 0, none⟩
    let old := s.myGang.ring o.d.toNat
    let w := s.myGang.walker old.walker
    if base.toNat % 128 ≠ 0 then s.fault .alignment base m
    else if (s.myGang.checkStore base (r.size * r.entryBytes) 1).toOption.isNone then s.fault .gangSpan base m
    else if cfg.toNat / 2 ^ 13 ≠ 0 then s.faultB .operandInvalid m
    else if old.bound && w.run then s.faultB .ringConfig m
    else
      (s.modMyGang fun g =>
        let g1 := if old.bound then g.setWalker old.walker { w with bound := false } else g
        g1.setRing o.d.toNat r).fin)

/-- The slots of the bundle go on seeing the ring as it stood (06 R129). -/
def State.keepRing (s : State) (q : Nat) : State :=
  let r := s.myGang.ring q
  s.modMe fun t => { t with flight := t.flight.map fun f => { f with olds := { f.olds with ring := some (q, r.head, r.tail) } } }

/-- QCOMMIT: n entries join the ring, the team's stores before them released (11 R252, R253). -/
def execQcommit (o : A3) (s : State) : Res :=
  .next (s.uniC o.g fun m =>
    let q := o.d.toNat
    let n := (sB s.rd false o.b).toNat
    let r := s.myGang.ring q
    if n = 0 then s.faultB .operandInvalid m
    else if !r.init || decide (r.size < n) || r.bound then s.faultB .ringConfig m
    else s.drained m (
      if r.size < r.filled + n then s.wait (.ringFree q n)
      else
        let s1 := (s.keepRing q).release s.issue.team s.me.held.length
        (s1.modMyGang fun g => g.setRing q { g.ring q with tail := (g.ring q).tail + BitVec.ofNat 32 n }).finC))

/-- QPOP: n entries leave the ring; c[D] says whether the last was the final entry of its walker's walk (11 R252,
R257). One that was committed before the walk's WSTART is no entry of it (DESIGN CHOICE, log 89). -/
def execQpop (o : A3) (s : State) : Res :=
  .next (s.uniC o.g fun m =>
    let q := o.a.toNat
    let n := (sB s.rd false o.b).toNat
    let r := s.myGang.ring q
    let w := s.myGang.walker r.walker
    if n = 0 then s.faultB .operandInvalid m
    else if !r.init || decide (r.size < n) then s.faultB .ringConfig m
    else if r.filled < n then
      match r.waitFor (.ringFilled q n) with
      | .stop c a => s.fault c a m
      | .wait c => s.wait c
      | .go => s.wait (.ringFilled q n)
    else
      let e := (r.head + BitVec.ofNat 32 n - 1 - w.start).toNat
      let mine := r.bound && decide (e < w.produced)
      let w1 : Walker := if mine then { w with lastE := some e } else w
      let final := mine && w1.flag 3
      (((s.keepRing q).modMyGang fun g =>
        let g1 := if mine then g.setWalker r.walker w1 else g
        g1.setRing q { r with head := r.head + BitVec.ofNat 32 n }).modRegsC fun x => x.cset o.d.toNat final).finC)

/-- Dimensions in use of a walker descriptor. -/
def walkDims (d : List Byte) : Nat := fieldAt d 0x38 1 % 4 + 1

/-- A walker descriptor's fields are within range (11 R254). -/
def walkOk (d : List Byte) : Bool :=
  let n := walkDims d
  let count := fun (k : Nat) => fieldAt d (0x08 + 4 * k) 4
  let stride := fun (k : Nat) => fieldAt d (0x18 + 8 * k) 8
  decide (fieldAt d 0x38 8 < 4) && ((List.range 4).all fun k => if k < n then count k != 0 else count k == 0 && stride k == 0) &&
    decide (((List.range n).map count).prod < 2 ^ 32)

/-- A walker descriptor's base and strides are multiples of 16. -/
def walkAligned (d : List Byte) : Bool :=
  fieldAt d 0 8 % 16 == 0 && (List.range (walkDims d)).all fun k => fieldAt d (0x18 + 8 * k) 8 % 16 == 0

/-- WBIND (11 R254). -/
def execWbind (o : A3) (s : State) : Res :=
  .next (s.uniC o.g fun m => s.drained m (
    let va := sB s.rd false o.b
    let w := o.d.toNat
    let q := o.a.toNat
    s.uniReadIn 0 va 64 64 m fun s d =>
      let x := s.myGang.walker w
      let r := s.myGang.ring q
      if !walkOk d then s.faultB .operandInvalid m
      else if !walkAligned d then s.fault .alignment (BitVec.ofNat 64 (fieldAt d 0 8)) m
      else if x.run || !r.init || (r.bound && r.walker != w) then s.faultB .ringConfig m
      else
        (s.modMyGang fun g =>
          let g1 := if x.bound then g.setRing x.ring { g.ring x.ring with bound := false } else g
          (g1.setRing q { g1.ring q with bound := true, walker := w }).setWalker w
            ⟨d, q, true, false, false, 0, 0, 0, .xlate, 0, none⟩).finC))

/-- The team on whose behalf a walker of gang g reads: the one whose WSTART set it running, or, once that team's slot is
free, one that is left of the gang (11 R257; all share its partition and its launch). -/
def State.walkerTeam (s : State) (g : Nat) (w : Walker) : Nat :=
  if (tfind s.teams w.team).isSome then w.team
  else ((s.teams.find? fun t => t.2.gang == g).map (·.1)).getD w.team

/-- What the reads of walker w have asked for and not used goes (11 R256). -/
def State.walkerOver (s : State) (g w : Nat) : State :=
  let u := s.walkerTeam g ((s.gang g).walker w)
  if (tfind s.teams u).isSome then s.modTeam u fun t => t.engDone (.walker w) else s

/-- WSTART (11 R256). -/
def execWstart (o : A3) (s : State) : Res :=
  .next (s.uniC o.g fun m =>
    let w := o.d.toNat
    let x := s.myGang.walker w
    if !x.bound || x.run then s.faultB .ringConfig m
    else s.drained m (((s.walkerOver s.me.gang w).modMyGang fun g => g.setWalker w
      { x with start := (g.ring x.ring).tail, produced := 0, fault := false, run := true, team := s.issue.team,
               lastE := none }).finC))

/-- WSTOP: the walker stops and is unbound; entries committed stay (11 R256). -/
def execWstop (o : A3) (s : State) : Res :=
  .next (s.uniC o.g fun _ =>
    let w := o.d.toNat
    let x := s.myGang.walker w
    ((s.walkerOver s.me.gang w).modMyGang fun g =>
      let g1 := if x.bound then g.setRing x.ring { g.ring x.ring with bound := false } else g
      g1.setWalker w { x with run := false, bound := false }).finC)

/-! ### Walker entries (11 R257, R258) -/

/-- The indices of entry e, dimension 0 fastest, and the byte offset they give. -/
def walkOffset (d : List Byte) : Nat → Nat → Nat → Word
  | 0, _, _ => 0
  | n + 1, k, e =>
    let c := fieldAt d (0x08 + 4 * k) 4
    BitVec.ofNat 64 (e % c * fieldAt d (0x18 + 8 * k) 8) + walkOffset d n (k + 1) (e / c)

/-- Entries of a walk. -/
def walkTotal (d : List Byte) : Nat := ((List.range (walkDims d)).map fun k => fieldAt d (0x08 + 4 * k) 4).prod

/-- A ring's state in the gang record (11 Table 11-2). -/
def Ring.bytes (r : Ring) : List Byte :=
  padTo 32 (natBytes (r.base + r.nentM1 * 2 ^ 22 + r.eszM1 * 2 ^ 30 + (if r.init then 2 ^ 35 else 0) +
    (if r.bound then 2 ^ 36 else 0) + r.walker * 2 ^ 37) 8 ++ natBytes r.head.toNat 4 ++ natBytes r.tail.toNat 4)

/-- A walker's state in the gang record (11 R255). -/
def Walker.bytes (w : Walker) : List Byte :=
  padTo 128 (padTo 64 w.desc ++
    natBytes (w.ring + (if w.bound then 2 ^ 8 else 0) + (if w.run then 2 ^ 9 else 0) + (if w.fault then 2 ^ 10 else 0)) 4 ++
    natBytes w.start.toNat 4 ++ natBytes w.produced 8 ++ natBytes w.faultAddr.toNat 8 ++
    natBytes (if w.fault then w.faultCode.num else 0) 8)

/-- The gang record; the binding of a codebook is its address with bit 0 set (12 R284). -/
def Gang.record (g : Gang) : List Byte :=
  padTo 0x1000 (((List.range 32).flatMap fun n => natBytes (tget 0 g.tc n).toNat 8) ++
    padTo 0x100 ((List.range 9).flatMap fun n => natBytes (tget 1 g.bd n).toNat 8) ++
    ((List.range 16).flatMap fun q => (tget default g.rings q).bytes) ++
    ((List.range 8).flatMap fun w => (tget default g.walkers w).bytes) ++ padTo 0x200 (natBytes g.trellisTl.toNat 8) ++
    ((List.range 64).flatMap fun n => let va := (tget 0 g.cbs n).toNat; natBytes (if va = 0 then 0 else va + 1) 8))

/-- Write a gang's record to its image. -/
def State.saveRecord (s : State) (g : Nat) : State := s.gangImageWrite g 0 (s.gang g).record

/-- WALKER_ENTRY: a running walker of a gang whose ring has a free entry reads its next entry and commits it, of a suspended
gang in its image too; a read that fails stops it (11 R257, R258). -/
def execWalkerEntry (gang walker : Nat) (s : State) : Res :=
  .next (
    let g := s.gang gang
    let w := g.walker walker
    let r := g.ring w.ring
    if !w.run || !s.runs g || r.size ≤ r.filled then s
    else
      let u := s.walkerTeam gang w
      let kept := fun (s : State) => if (s.gang gang).suspended && (s.gang gang).imgLen != 0 then s.saveRecord gang else s
      let gone := fun (s : State) => kept ((s.walkerOver gang walker).syncStore gang)
      let va := BitVec.ofNat 64 (fieldAt w.desc 0 8) + walkOffset w.desc (walkDims w.desc) 0 w.produced
      s.asEngine (.walker walker) fun s =>
        match s.engResolve u (s.engGet (s.teamCtx u) .load va r.entryBytes) with
        | .wait s1 => s1
        | .fail f s1 => gone (s1.modGang gang fun g =>
            (g.setRing w.ring { r with broken := some (f.code, f.addr) }).setWalker walker
              { w with run := false, fault := true, faultCode := f.code, faultAddr := f.addr })
        | .ok b =>
          let done := w.produced + 1 == walkTotal w.desc
          gone ((s.noteRange (s.teamCtx u) va r.entryBytes).modGang gang fun g =>
            ((g.write (r.entryAt r.tail) b).setRing w.ring { r with tail := r.tail + 1 }).setWalker walker
              { w with produced := w.produced + 1, run := !done }))

end Sys2Proof.Machine
end

