-- ==== Sys2Proof/Machine/Images.lean ====
section
/-!
DEFINITION. Context images (03 R76-R78): what a gang's and a team's image in memory holds, writing it and reading it
back.
-/

namespace Sys2Proof.Machine

/-! ### Team images (03 Table 3-4) -/

/-- A mask-stack entry read from an image. -/
def parseMaskEntry (b : List Byte) : MaskEntry :=
  let w := fieldAt b 0x84 4
  ⟨BitVec.ofNat 1024 (fieldAt b 0 128), bitsOf w 31 31 == 1, bitsOf w 30 30 == 1, BitVec.ofNat 6 w,
    BitVec.ofNat 32 (fieldAt b 0x88 4)⟩

/-- A loop record read from an image; `old` keeps what is reserved to Fordom. -/
def parseLoop (old : LoopRec) (b : List Byte) : LoopRec :=
  let w := fieldAt b 0x10 4
  { old with
    first := BitVec.ofNat 32 (fieldAt b 0 4), last := BitVec.ofNat 32 (fieldAt b 4 4)
    remain := BitVec.ofNat 64 (fieldAt b 8 8), walker := BitVec.ofNat 3 w, dim := BitVec.ofNat 2 (bitsOf w 4 3)
    loopw := bitsOf w 8 8 == 1 }

/-- A mask stack read from an image, as deep as `n`, entry 0 last. -/
def parseMasks (b : List Byte) (n : Nat) : List MaskEntry :=
  ((List.range n).map fun k => parseMaskEntry (b.drop (256 * k))).reverse

/-- The loop records of an image, over the parts reserved to Fordom of those it had. -/
def parseLoops (old : List LoopRec) (b : List Byte) : List LoopRec :=
  (((List.range (min (bitsOf (fieldAt b 0x204 4) 11 8) 4)).map fun k =>
    parseLoop (old.reverse.getD k default) (b.drop (0x240 + 32 * k)))).reverse

/-- The mask stack of an image in its place for a team outside a handler. -/
def parseStack (b : List Byte) : List MaskEntry := parseMasks (b.drop 0x800) (bitsOf (fieldAt b 0x204 4) 5 0 + 1)

/-- The register state of an image, over the parts an image reserves to Fordom. A reserved code of FMT is taken as it
stands (DESIGN CHOICE, log 15: no write of a program lets one in). -/
def Regs.fromImage (r : Regs) (t : Team) (b v : List Byte) : Regs :=
  let sreg := fun (m : Table Word) (i : Nat) => tset m (i + 1) (BitVec.ofNat 64 (fieldAt b (8 * (i + 1)) 8))
  let line := fun (n : Nat) => (List.range t.lanes).map fun l => BitVec.ofNat 32 (fieldAt v ((n * t.lanes + l) * 4) 4)
  let preg := fun (m : Table LaneMask) (i : Nat) => tset m (i + 1) (BitVec.ofNat 1024 (fieldAt b (0x400 + 128 * (i + 1)) 128))
  { r with
    s := (List.range 63).foldl sreg r.s
    v := (List.range t.vregs).foldl (fun m n => tset m n (line n)) r.v
    c := BitVec.ofNat 8 (fieldAt b 0x20C 1)
    p := (List.range 7).foldl preg r.p
    fmt := BitVec.ofNat 32 (fieldAt b 0x208 4)
    masks := match t.handler with
      | some _ => parseMasks (b.drop 0x2800) r.masks.length
      | none => parseStack b
    loops := if t.handler.isSome then r.loops else parseLoops r.loops b }

/-- The state set aside by a handler, as an image and its frame give it (19 R404): the stacks, and the frame's checkpoint
with DONE, MLANES, NEXT and the saved registers. A frame of another kind, as of a debug stop, changes nothing. -/
def Handler.fromImage (h : Handler) (b f : List Byte) : Handler :=
  let h1 := { h with masks := parseStack b, loops := parseLoops h.loops b }
  let w := fieldAt f 0 8
  if bitsOf w 15 12 ≠ 0 ∨ f = h.frame.bytes then h1
  else
    let word := fun (o : Nat) => BitVec.ofNat 64 (fieldAt f o 8)
    let saved := (List.range 4).map fun k => word (0x28 + 8 * k)
    let n := fieldAt f 0x18 4
    let next := fieldAt f 0x1C 4
    let done := BitVec.ofNat 4 (bitsOf w 19 16)
    let mlanes := BitVec.ofNat 1024 (fieldAt f 0x180 128)
    let regs := (List.range 4).foldl (fun (q : Regs) k => q.sset (60 + k) (saved.getD k 0)) h.ckpt.regs
    let flow := if next = h.frame.next ∧ done = h.ckpt.done then h.ckpt.flow
      else if done.getLsbD 0 then .jump next else .seq
    { h1 with
      frame := { h.frame with
        code := FaultCode.ofNum (bitsOf w 7 0) h.frame.code, slot := bitsOf w 9 8, done := done, bundle := word 8, faddr := word 0x10
        ckpt := n, next := next, tick := word 0x20, saved := saved
        lanes := BitVec.ofNat 1024 (fieldAt f 0x80 128), mlanes := mlanes }
      ckpt := { h.ckpt with
        n := n, done := done, mlanes := mlanes, next := if done.getLsbD 0 then h.ckpt.next else next, flow := flow
        regs := regs, landed := n == h.ckpt.n && h.ckpt.landed } }

/-- The width an image gives its team: LANES where it is a width a team may have, else the one it had (DESIGN CHOICE,
log 15). -/
def imageLanes (t : Team) (b : List Byte) : Nat :=
  let n := fieldAt b 0x214 4
  if n % 32 = 0 ∧ 32 ≤ n ∧ n ≤ t.lanes then n else t.lanes

/-- A team resumes from its image (03 R78, R85): what software changed there counts, from the resume index on. An image
that still holds what was written, or that cannot be read when the team resumes, leaves the team as Fordom's own copy has it
(DESIGN CHOICE, log 15). The slots
outside DONE of its checkpoint read what they read before but for what software changed. -/
def State.loadTeam (s : State) (u : Nat) : State :=
  let t := s.team u
  let c := s.imageCtx t.gang
  let f := s.readMem c .load (t.img + 0x3000) 0x200
  match s.readMem c .load t.img 0x3000, s.readMem c .load (t.img + 0x4000) (t.vregs * t.lanes * 4) with
  | .ok b, .ok v =>
    let hand := t.handler.map fun h => h.fromImage b (f.toOption.getD h.frame.bytes)
    if b = t.controlArea ∧ v = t.lineArea ∧ hand = t.handler then s
    else
      let w := imageLanes t b
      let r := t.regs.fromImage { t with lanes := w } b v
      let n := fieldAt b 0x200 4
      let next := nextIndex n (s.litAt u n)
      s.modTeam u fun t =>
        { t with
          regs := r
          handler := hand
          teamId := fieldAt b 0x210 4
          lanes := w
          migr := BitVec.ofNat 32 (fieldAt b 0x218 4)
          ckptCnt := BitVec.ofNat 32 (fieldAt b 0x21C 4)
          copyTl := BitVec.ofNat 64 (fieldAt b 0x220 8)
          joinCnt := BitVec.ofNat 32 (fieldAt b 0x228 8)
          pc := n
          skipLand := n == t.ckpt.n && t.skipLand
          ckpt := if n = t.ckpt.n then
              { t.ckpt with
                regs := r
                before := if t.ckpt.done = 0 ∧ t.ckpt.mlanes = 0 then r else r.merge t.ckpt.regs t.ckpt.before }
            else ⟨n, 0, 0, next, .seq, r, r, ⟨none, none, none⟩, false⟩ }
  | _, _ => s

/-! ### Gang images (03 Table 3-3) -/

/-- The tile-file save area: the footprints of the tiles in tile order. -/
def Gang.tileArea (g : Gang) : List Byte :=
  (List.range g.ntile).flatMap fun n => Memory.readBytes (g.tile n).bytes 0 (tcFootprint (tget 0 g.tc n))

/-- Offset of the tile-file save area, and of the first team image. -/
def Gang.tileOff (g : Gang) : Nat := 0x1000 + g.gstore * 4096 * g.span

/-- Offset of the team images. -/
def Gang.teamsOff (g : Gang) : Nat := g.tileOff + g.tileKb * 65536

/-- Write a gang's record and store to its image. -/
def State.saveGang (s : State) (g : Nat) : State := (s.saveRecord g).saveStore g

/-- Write a gang's tiles to its image. -/
def State.saveTiles (s : State) (g : Nat) : State := s.gangImageWrite g (s.gang g).tileOff (s.gang g).tileArea

/-- Put tile contents back from the bytes of a save area. -/
def Gang.tilesFrom (g : Gang) : List Nat → List Byte → Gang
  | [], _ => g
  | n :: r, b =>
    let k := tcFootprint (tget 0 g.tc n)
    (g.modTile n fun t => { t with bytes := Memory.writeBytes [] 0 (b.take k) }).tilesFrom r (b.drop k)

/-- Load a gang's store and tiles from its image (03 R86). -/
def State.loadGang (s : State) (g : Nat) : State :=
  let x := s.gang g
  let c := s.imageCtx g
  let n := x.gstore * 4096
  let s1 := match s.readMem c .load (x.img + 0x1000) (n * x.span) with
    | .ok b =>
      if b = x.storeArea then s
      else
        let put := fun (m : Memory) (k : Nat) => Memory.writeBytes m (k * 2 ^ 20) ((b.drop (k * n)).take n)
        s.modGang g fun y => { y with store := (List.range y.span).foldl put [], bad := [], unseen := [] }
    | .error _ => s
  match s1.readMem c .load (x.img + BitVec.ofNat 64 x.tileOff) x.tileArea.length with
  | .ok b => if b = x.tileArea then s1 else s1.modGang g fun y => y.tilesFrom (List.range y.ntile) b
  | .error _ => s1

end Sys2Proof.Machine
end

