-- ==== Sys2Proof/Machine/Place.lean ====
section
/-!
DEFINITION. Placing gangs on cores (03 R69-R89): waits that end, leaving a slot, parking and switching, pre-emption,
placement and migration.
-/

namespace Sys2Proof.Machine

/-! ### Waits that end (03 R79, R81) -/

/-- The condition a team waits for holds. -/
def State.waitHolds (s : State) (u : Nat) (c : WaitCond) : Bool :=
  let t := s.team u
  let g := s.gang t.gang
  let ring := fun (q : Nat) => tget default g.rings q
  let me : State := { s with issue := ⟨u, 3, t.core, [], .none, none⟩ }
  match c with
  | .ringFilled q n =>
    let r := ring q
    decide (n ≤ (r.tail - r.head).toNat) || r.broken.isSome
  | .ringFree q n => decide ((ring q).nentM1 + 1 ≥ ((ring q).tail - (ring q).head).toNat + n)
  | .tileIdle n write => !g.newTiles && !(g.tile n).wb && (!write || (g.tile n).rb == 0)
  | .newTiles => !g.newTiles
  | .barrier a phase => (bitsOf (me.bankWord (.gang a) 4) 31 31 == 1) != phase
  | .buffer a => match me.bufTab (BitVec.ofNat 64 a) with
    | .ok b => decide ((b.acq - b.rel).toNat < b.nbuf)
    | .error _ => true
  | .join => t.joinCnt == 0
  | .timeline des v => match me.timelineOf des with
    | .ok x => decide (v.toNat ≤ (me.timelineVal x).toNat)
    | .error _ => true
  | .workQueue k n =>
    let w := s.wq g.part k
    !w.enable || decide (w.used + n ≤ 2 ^ w.capLog)
  | .copyQueue => decide (t.copyQ.length < 32)
  | .copyNumber n _ => decide (n.toNat ≤ t.copyTl.toNat)
  | .engineTable => decide ((s.table g.cluster_).length < 64)
  | .engineIdle => true
  | .recompute n _ _ => (s.recomputeGang g.part n).isNone
  | .candidate => !t.cands.isEmpty || (s.raysOf u).isEmpty
  | .raySlots => true
  | .remote => t.remote.all (fun x => x.answer.isSome) && t.unacked.isEmpty
  | .storeQueue => t.storeQ.isEmpty
  | .frames => true
  | .room n => decide (n + t.bufUsed ≤ 64)
  | .lanes => true
  | .service => false
  | .slotUnit k => !s.unitTaken u k

/-- BLOCK_PARK_TIMEOUT: a team BLOCKED for 4,096 ticks parks (03 Table 3-5). -/
def execBlockParkTimeout (team : Nat) (s : State) : Answer :=
  .next (
    let t := s.team team
    if t.st == .blocked && decide (t.since + Config.parkTicks ≤ s.tick) then
      s.modTeam team fun t => { t with st := .parked, since := s.tick }
    else s)

/-! ### Leaving a slot (03 R80) -/

/-- A team leaves its slot: it is rolled back to its last checkpoint, which is taken anew (19 R385), its image written, and
it keeps the condition it waited for. -/
def State.goOut (s : State) (u : Nat) : State :=
  let t := s.team u
  let waits := if waitState t.waits == .runnable then [] else t.waits
  let s1 := (s.rollback u).modTeam u fun x =>
    { x with ckptCnt := x.ckptCnt + 1, waits := waits, st := .out, since := s.tick, readySince := s.tick }
  (s1.modCore t.core (·.forget u)).saveTeam u

/-- The teams PARKED in slots of a core. -/
def State.parkedOnCore (s : State) (core : Nat) : List (Nat × Team) :=
  s.teams.filter fun t => t.2.core == core && t.2.st == .parked && !(s.gang t.2.gang).suspended &&
    s.onDie (s.gang t.2.gang)

/-- The team parked longest, the lowest slot first among equals. -/
def longestParked : List (Nat × Team) → Option (Nat × Team)
  | [] => none
  | x :: r => match longestParked r with
    | none => some x
    | some y => if y.2.since < x.2.since ∨ (y.2.since = x.2.since ∧ y.2.slot < x.2.slot) then some y else some x

/-- Switch out one parked team of a core, where condition (a) of 03 R82 allows it. -/
def State.parkOut (s : State) (core : Nat) : Option State :=
  let l := s.parkedOnCore core
  match longestParked l with
  | none => none
  | some (u, t) =>
    let thr := (s.part (s.gang t.gang).part).parkThr.toNat
    if thr * (s.slotsUsed core).length < 64 * l.length then some (s.goOut u) else none

/-- Slots of a core free for a placement, after the ready OUT teams' claims (03 R83). -/
def State.openSlots (s : State) (core : Nat) : Nat := (s.freeSlots core).length - s.claims core

/-- Switch parked teams out of a core until `n` slots are open for a placement. -/
def State.openBy (s : State) (core n : Nat) : Nat → Option State
  | 0 => none
  | fuel + 1 =>
    if n ≤ s.openSlots core then some s
    else match s.parkOut core with
      | some s1 => s1.openBy core n fuel
      | none => none

/-! ### Returning to a slot (03 R83) -/

/-- The stores a team has committed are performed (15 R323): it may resume on another core. -/
def Team.settled (t : Team) : Bool := t.storeQ.isEmpty && t.unacked.isEmpty

/-- A ready OUT team of a gang that holds its core. -/
def State.readyOut (s : State) (t : Team) : Bool :=
  t.st == .out && t.waits.isEmpty && t.settled && !t.stopped && !t.ended && !(s.gang t.gang).suspended &&
    (s.part (s.gang t.gang).part).st == .running

/-- The ready OUT team a freed slot of a core goes to first; among equals of one priority that became ready in one tick,
the one first in the table of teams (DESIGN CHOICE, log 50: 03 R83 ends at the longest ready). -/
def State.nextReturn (s : State) (core : Nat) : Option Nat :=
  ((s.teams.filter fun t => t.2.core == core && s.readyOut t.2).foldl (fun b x => match b with
    | none => some x
    | some y =>
      let px := (s.gang x.2.gang).prio
      let py := (s.gang y.2.gang).prio
      if py < px ∨ (py = px ∧ x.2.readySince < y.2.readySince) then some x else some y) none).map (·.1)

/-- A team takes a slot and resumes from its image: RUNNABLE, or waiting as before (03 R81, R85); what its copies did
before is ordered before its resumption (15 R323). -/
def State.takeSlot (s : State) (u core slot reason : Nat) : State :=
  let s1 := (s.modTeam u fun t =>
    { t with core := core, slot := slot, st := waitState t.waits, since := s.tick }).loadTeam u
  (s1.acquireCopies u (2 ^ 64)).rebind u reason

/-- TEAM_SWITCH_IN: a ready OUT team takes a free slot of its core; without one a parked team may be switched out for it
(03 R82, R83). -/
def execTeamSwitchIn (core : Nat) (s : State) : Answer :=
  .next (match s.nextReturn core with
    | none => s
    | some u =>
      match s.freeSlots core with
      | k :: _ => s.takeSlot u core k 2
      | [] => match s.parkOut core with
        | none => s
        | some s1 => match s1.freeSlots core with
          | k :: _ => s1.takeSlot u core k 2
          | [] => s1)

/-- TEAM_WAKE: a condition a team waits for holds; the team is RUNNABLE, or ready for a slot where it is OUT, for which a
parked team may be switched out (03 R79, R81, R82). -/
def execTeamWake (team : Nat) (s : State) : Answer :=
  .next (
    let t := s.team team
    if t.ended || t.stopped || t.waits.isEmpty || !s.runs (s.gang t.gang) || !(t.waits.any fun w => s.waitHolds team w) then s
    else
      let s1 := s.makeReady team
      if t.st == .out && !(s.gang t.gang).suspended && (s1.freeSlots t.core).isEmpty then (s1.parkOut t.core).getD s1
      else s1)

/-! ### What a gang needs (03 Table 3-1) -/

/-- The needs of a gang to be placed: slots by core of its target, banks, tile budget, and the bytes of its image where
it has none yet; `die` binds a gang placed before to its die (03 R86), `home` is the die a recompute gang prefers
(13 R302). -/
structure Need where
  part : Nat
  prio : Nat
  cluster : Bool
  slots : List Nat
  gstore : Nat
  tileKb : Nat
  image : Image
  bytes : Option Nat
  die : Option Nat
  home : Option Nat
deriving DecidableEq, Repr

/-- The cores of a target. -/
def targetCores (cluster : Bool) (k : Nat) : List Nat :=
  if cluster then (List.range 4).map fun i => 4 * k + i else [k]

/-- The cores a gang holds. -/
def Gang.cores (g : Gang) : List Nat := targetCores g.cluster g.place

/-- The gangs placed now. -/
def State.placed (s : State) : List (Nat × Gang) := s.gangs.filter fun g => !g.2.suspended && s.onDie g.2

/-- Gang-store banks taken on a core. -/
def State.banksUsed (s : State) (core : Nat) : Nat :=
  ((s.placed.filter fun g => g.2.cores.contains core).map fun g => g.2.gstore).sum

/-- Tile budgets of a cluster: of gangs whose tiles are in, of gangs still waiting for theirs, and of suspended gangs
whose tiles are not saved yet (03 R85). -/
def State.tilesUsed (s : State) (cl : Nat) : Nat × Nat × Nat :=
  let sum := fun (f : Gang → Bool) => ((s.gangs.filter fun g => g.2.cluster_ == cl && s.onDie g.2 && f g.2).map fun g => g.2.tileKb).sum
  (sum fun g => !g.suspended && !g.newTiles, sum fun g => !g.suspended && g.newTiles,
    sum fun g => g.suspended && g.imgLen != 0 && !g.tilesOut)

/-- Tile budget free at once on a cluster. -/
def State.tilesFree (s : State) (cl : Nat) : Nat :=
  let u := s.tilesUsed cl
  32 - (u.1 + max u.2.1 u.2.2)

/-- Tile budget free once every suspended gang's tiles are saved. -/
def State.tilesLater (s : State) (cl : Nat) : Nat :=
  let u := s.tilesUsed cl
  32 - (u.1 + u.2.1)

/-- The cluster of a target. -/
def targetCluster (cluster : Bool) (k : Nat) : Nat := if cluster then k else k / 4

/-- A target is open to a gang: in its partition's mask, and on its die where it has one (03 R69, R86). -/
def State.eligible (s : State) (n : Need) (k : Nat) : Bool :=
  let cl := targetCluster n.cluster k
  (s.part n.part).mask.getLsbD cl && (match n.die with | some d => d == cl / 24 | none => true)

/-- Everything but slots is available on a target; `later` counts tiles that victims still hold. -/
def State.roomOn (s : State) (n : Need) (k : Nat) (later : Bool) : Bool :=
  let cl := targetCluster n.cluster k
  (targetCores n.cluster k).all (fun c => decide (s.banksUsed c + n.gstore ≤ Config.gangBanks)) &&
    decide (n.tileKb ≤ if later then s.tilesLater cl else s.tilesFree cl)

/-- The slots needed are open on a target. -/
def State.slotsOn (s : State) (n : Need) (k : Nat) : Bool :=
  ((targetCores n.cluster k).zip n.slots).all fun c => decide (c.2 ≤ s.openSlots c.1)

/-- The gang fits on a target now. -/
def State.fitsOn (s : State) (n : Need) (k : Nat) (later : Bool) : Bool := s.roomOn n k later && s.slotsOn n k

/-- Switch parked teams out of the cores of a target until the gang's slots are open. -/
def State.openFor (s : State) : List (Nat × Nat) → Option State
  | [] => some s
  | (c, n) :: r => match s.openBy c n 33 with
    | some s1 => s1.openFor r
    | none => none

/-- The rank of a target: an instruction store that holds the image's code, then fewer occupied slots, then its number
(03 R71). -/
def State.rank (s : State) (n : Need) (k : Nat) : Nat × Nat × Nat :=
  let cs := targetCores n.cluster k
  let held := cs.any fun c => (s.core c).store.any fun o =>
    o.part == n.part && o.handle == n.image.handle && o.gen == n.image.gen
  (if held then 0 else 1, (cs.map fun c => (s.slotsUsed c).length).sum, k)

/-- Order of ranks. -/
def rankLt (a b : Nat × Nat × Nat) : Bool :=
  decide (a.1 < b.1) || (a.1 == b.1 && (decide (a.2.1 < b.2.1) || (a.2.1 == b.2.1 && decide (a.2.2 < b.2.2))))

/-- The best target of a list. -/
def State.bestOf (s : State) (n : Need) : List Nat → Option Nat
  | [] => none
  | k :: r => match s.bestOf n r with
    | none => some k
    | some j => if rankLt (s.rank n j) (s.rank n k) then some j else some k

/-- The targets open to a gang. -/
def State.targets (s : State) (n : Need) : List Nat :=
  (List.range (if n.cluster then Config.numClusters else Config.numCores)).filter (s.eligible n)

/-! ### Pre-emption (03 R84, R85) -/

/-- The lookup SRAM of a cluster gives up the codebooks of partition p: a gang placed again refills on demand
(12 R285). -/
def State.dropBooks (s : State) (cl p : Nat) : State :=
  { s with ms := { s.ms with
      lookup := tset s.ms.lookup cl ((tget [] s.ms.lookup cl).filter fun e => e.1 / 2 ^ 64 != p) } }

/-- A victim is suspended: its teams go OUT, its record and store are written to its image, and its slots and banks are
free; its tiles follow once no command uses them. A team of it that has ended keeps its slot until 21 R410 frees it. -/
def State.preempt (s : State) (g : Nat) : State :=
  let mine := s.teams.filter fun t => t.2.gang == g
  let s1 := mine.foldl (fun x t =>
    if t.2.st == .draining || t.2.st == .out then x
    else x.goOut t.1) s
  ((s1.dropBooks (s.gang g).cluster_ (s.gang g).part).modGang g fun x =>
    { x with suspended := true, tilesOut := x.newTiles || x.tileKb == 0, newTiles := false }).saveGang g

/-- The possible victims on a target, in ascending priority, youngest placement first. -/
def State.victims (s : State) (n : Need) (k : Nat) : List Nat :=
  let cs := targetCores n.cluster k
  let put := fun (x : Nat × Gang) (l : List (Nat × Gang)) =>
    let before := fun (y : Nat × Gang) => decide (y.2.prio < x.2.prio) || (y.2.prio == x.2.prio && decide (x.2.order < y.2.order))
    l.filter before ++ x :: l.filter fun y => !before y
  ((s.placed.filter fun g => g.2.part == n.part && decide (g.2.prio < n.prio) && g.2.cores.all cs.contains).foldr put
    []).map (·.1)

/-- Pre-empt victims in order until the gang fits: the state then, with the highest priority taken. -/
def State.preemptUntil (s : State) (n : Need) (k : Nat) : List Nat → Option (Nat × State)
  | [] => none
  | v :: r =>
    let s1 := s.preempt v
    if s1.fitsOn n k true then some ((s.gang v).prio, s1) else s1.preemptUntil n k r

/-- The target whose highest victim priority is lowest, the lowest number first among equals. -/
def State.preemptBest (s : State) (n : Need) : List Nat → Option (Nat × Nat × State)
  | [] => none
  | k :: r =>
    match s.preemptUntil n k (s.victims n k), s.preemptBest n r with
    | none, b => b
    | some (p, x), none => some (k, p, x)
    | some (p, x), some (j, q, y) => if q < p then some (j, q, y) else some (k, p, x)

/-- Try the targets of the die a gang prefers ahead of all others (13 R302). -/
def Need.onHome {α : Type} (n : Need) (l : List Nat) (f : List Nat → Option α) : Option α :=
  match n.home with
  | none => f l
  | some d =>
    let on := fun (k : Nat) => targetCluster n.cluster k / 24 == d
    (f (l.filter on)).or (f (l.filter fun k => !on k))

/-- The choice of 03 R71: a target, the state in which the gang fits there, and whether it still waits for tiles. -/
def State.chooseTarget (s : State) (n : Need) : Option (Nat × State) :=
  let open_ := s.targets n
  match n.onHome (open_.filter fun k => s.fitsOn n k false) (s.bestOf n) with
  | some k => some (k, s)
  | none =>
    let cleared := fun (k : Nat) =>
      if s.roomOn n k false then s.openFor ((targetCores n.cluster k).zip n.slots) else none
    match n.onHome (open_.filter fun k => (cleared k).isSome) (s.bestOf n) with
    | some k => (cleared k).map fun x => (k, x)
    | none => (n.onHome open_ (s.preemptBest n)).map fun x => (x.1, x.2.2)

/-! ### Placing a gang (03 R70, R73, R85, R86) -/

/-- Start fills of the image's PRELOAD overlays that are not resident on a core (04 R92). -/
def State.preload (s : State) (p : Nat) (i : Image) (core : Nat) : State :=
  (i.ovls.zipIdx.filter fun e => e.1.preload).foldl (fun x e => x.modCore core fun c =>
    if (c.resident p i e.2).isSome || c.fills.any (fun f => f.tagged p i e.2) then c
    else { c with fills := c.fills ++ [⟨p, i, e.2, e.1.first, e.1.count, [], 0,
      x.fillMapping p core i e.1.first e.1.count⟩] }) s

/-- The teams of a fresh gang in TEAMID order: role and index within it. -/
def LaunchDesc.teamList (d : LaunchDesc) : List (Nat × Role × Nat) :=
  d.roles.zipIdx.flatMap fun r => (List.range r.1.teams).map fun k => (r.2, r.1, k)

/-- The register state a team starts with (01 Table 1-7). -/
def startRegs (l : Launch) (index k role : Nat) (r : Role) : Regs :=
  let arg : Word := if l.desc.argLen = 0 then 0 else l.argAddr + BitVec.ofNat 64 r.roleArg
  let r0 := (((Regs.zero.sset 1 arg).sset 2 (BitVec.ofNat 64 index)).sset 3 (BitVec.ofNat 64 k)).sset 4 (BitVec.ofNat 64 role)
  let r1 := match l.wq with
    | none => r0
    | some t => ((r0.sset 5 (t.first + BitVec.ofNat 64 (index * t.rpg))).sset 6
        (BitVec.ofNat 64 (min t.rpg (t.n - index * t.rpg)))).sset 7 t.descAddr
  { r1 with masks := [⟨lanesMask r.lanes, false, false, 0, 0⟩] }

/-- Put the teams of a fresh gang into slots, each into the lowest free one of its core (DESIGN CHOICE, log 50: 03 R70 does
not say which): `at_` is the offset of the next team image. -/
def State.addTeams (s : State) (l : Launch) (g : Nat) (cores : List Nat) (at_ : Nat) : Nat → List (Nat × Role × Nat) → State
  | _, [] => s
  | j, (ri, r, k) :: rest =>
    let core := cores.getD (j % cores.length) 0
    let x := s.gang g
    let regs := startRegs l x.index k ri r
    let t : Team := { Team.absent with
      gang := g, teamId := j, role := ri, ordinal := k, lanes := r.lanes, vregs := r.vregs
      core := core, slot := (s.freeSlots core).headD 0, img := x.img + BitVec.ofNat 64 at_
      st := .runnable, since := s.tick, readySince := s.tick, pc := r.entry, skipLand := false, regs := regs
      ckpt := ⟨r.entry, 0, 0, nextIndex r.entry (x.image.litIn s x.part r.entry), .seq, regs, regs, ⟨none, none, none⟩, false⟩ }
    let s1 := ({ s with teams := tset s.teams s.uids t, uids := s.uids + 1 } : State).bindSlot t.entity 1
    s1.addTeams l g cores (at_ + ceilDiv (teamImageBytes r.vregs r.lanes) 4096 * 4096) (j + 1) rest

/-- Bytes of the team images of a gang. -/
def LaunchDesc.teamBytes (d : LaunchDesc) : Nat :=
  (d.teamList.map fun t => ceilDiv (teamImageBytes t.2.1.vregs t.2.1.lanes) 4096 * 4096).sum

/-- Slots needed by core of a target, for teams given by their core index. -/
def slotsBy (cluster : Bool) (l : List Nat) : List Nat :=
  if cluster then (List.range 4).map fun i => (l.filter fun k => k % 4 == i).length else [l.length]

/-- What the next gang of a launch needs. -/
def State.needOf (s : State) (l : Nat) : Need :=
  let x := s.launch l
  let d := x.desc
  let n := d.teamCount
  { part := d.part, prio := x.prio, cluster := d.cluster, slots := slotsBy d.cluster (List.range n)
    gstore := d.gstore, tileKb := d.tileKb, image := x.image
    bytes := some (gangImageBytes d.gstore (if d.cluster then 4 else 1) d.tileKb + d.teamBytes), die := none
    home := none }

/-- The next gang of launch l is placed on a target, its record written (08 R196); the launch whose last gang this is leaves its queue's head. -/
def State.placeFresh (s : State) (l k at_ bytes : Nat) : State :=
  let x := s.launch l
  let d := x.desc
  let g := s.uids
  let gang : Gang := { Gang.absent with
    launch := some l, part := d.part, index := x.nextGang, prio := x.prio, cluster := d.cluster, place := k, order := g
    gstore := d.gstore, ntile := d.ntile, tileKb := d.tileKb, keyId := d.keyId, hndEn := d.hndEn, image := x.image
    img := (s.part d.part).ctxBase + BitVec.ofNat 64 at_, imgLen := bytes
    newTiles := decide (s.tilesFree (targetCluster d.cluster k) < d.tileKb) }
  let cores := targetCores d.cluster k
  let s1 := { s with gangs := tset s.gangs g gang, uids := s.uids + 1, dev := { s.dev with served := x.queue } }
  let s2 := (s1.addTeams x g cores gang.teamsOff 0 d.teamList).saveRecord g
  let s3 : State :=
    (cores.foldl (fun (y : State) c => y.preload d.part x.image c) s2).modLaunch l fun y => { y with nextGang := y.nextGang + 1 }
  if x.nextGang + 1 = d.gangs ∧ (s3.queue x.queue).phase.launch? = some l then s3.leaveQueue x.queue else s3

/-- The teams of a gang that still run. -/
def State.liveTeams (s : State) (g : Nat) : List (Nat × Team) := s.teams.filter fun t => t.2.gang == g && !t.2.ended

/-- The die that holds the home slice of the record of a recompute gang's tile (13 R302). -/
def State.recordDie (s : State) (g : Nat) : Option Nat :=
  let x := s.gang g
  x.recompute.bind fun r => match s.xlate (sysCtx x.part) ((s.part x.part).recordVa r.tile) with
    | .ok l => if s.target l.pa == .hbm then some (dieOf l.pa) else none
    | .error _ => none

/-- What a suspended gang, or a recompute gang not placed yet, needs. -/
def State.needOld (s : State) (g : Nat) : Need :=
  let x := s.gang g
  let l := s.liveTeams g
  let team := (l.map fun t => ceilDiv (teamImageBytes t.2.vregs t.2.lanes) 4096 * 4096).sum
  { part := x.part, prio := x.prio, cluster := x.cluster, slots := slotsBy x.cluster (l.map fun t => t.2.core)
    gstore := x.gstore, tileKb := x.tileKb, image := x.image
    bytes := if x.imgLen = 0 then some (gangImageBytes x.gstore 1 x.tileKb + team) else none
    die := if x.imgLen = 0 then none else some (x.cluster_ / 24)
    home := if x.imgLen = 0 then s.recordDie g else none }

/-- Put the running teams of a gang placed again into slots of its new cores. -/
def State.seatTeams (s : State) (cluster : Bool) (k : Nat) (fresh moved : Bool) : List (Nat × Team) → State
  | [] => s
  | (u, t) :: r =>
    let core := if cluster then 4 * k + t.core % 4 else k
    let slot := (s.freeSlots core).headD 0
    let s1 := if fresh then
        (s.bindSlot (core * 32 + slot) 1).modTeam u fun t => { t with
          core := core, slot := slot, st := .runnable, since := s.tick, readySince := s.tick
          img := (s.gang t.gang).img + BitVec.ofNat 64 (s.gang t.gang).teamsOff }
      else (s.takeSlot u core slot 2).modTeam u fun t => { t with migr := if moved then t.migr + 1 else t.migr }
    s1.seatTeams cluster k fresh moved r

/-- A gang that comes to another cluster finds its sampler cache empty: no line there is older than its teams' last FENCERO
or CINVRO (10 R231, 15 R328; DEDUCED, log 72). -/
def State.freshSampler (s : State) (g : Gang) (k : Nat) : State :=
  let cl := targetCluster g.cluster k
  if g.cluster_ = cl then s else { s with ms := { s.ms with sampler := tset s.ms.sampler cl [] } }

/-- A suspended gang is placed again, or a recompute gang for the first time (03 R85, R86, 13 R302). MIGR counts a change
of core, or of cluster for a cluster gang. -/
def State.placeOld (s : State) (g k : Nat) (img : Option (Nat × Nat)) : State :=
  let x := s.gang g
  let moved := x.place != k
  let s1 := (s.freshSampler x k).modGang g fun y => { y with
    place := k, order := s.uids, tilesOut := false
    newTiles := decide (s.tilesFree (targetCluster x.cluster k) < x.tileKb)
    img := match img with | some a => (s.part x.part).ctxBase + BitVec.ofNat 64 a.1 | none => y.img
    imgLen := match img with | some a => a.2 | none => y.imgLen }
  let s2 : State := { s1 with
    uids := s1.uids + 1
    dev := { s1.dev with served := match x.launch with | some l => (s.launch l).queue | none => s1.dev.served } }
  let s3 := (if img.isSome then s2.saveRecord g else s2.loadGang g).modGang g fun y => { y with suspended := false }
  let s4 := s3.seatTeams x.cluster k img.isSome (moved && img.isNone) (s.liveTeams g)
  (targetCores x.cluster k).foldl (fun y c => y.preload x.part x.image c) s4

/-- What the distributor may place: a gang placed before or a recompute gang, or the next gang of a launch. -/
inductive Offer where
  | old (g : Nat)
  | fresh (l : Nat)
deriving DecidableEq, Repr

/-- A suspended gang has a team that is ready (03 R85). -/
def State.hasReady (s : State) (g : Nat) : Bool := (s.liveTeams g).any fun t => t.2.waits.isEmpty && !t.2.stopped

/-- What the teams of a gang have committed is performed (15 R323): they may resume on another core. -/
def State.allSettled (s : State) (g : Nat) : Bool := (s.liveTeams g).all fun t => t.2.settled

/-- The offers with their order: priority, queues in turn from the one after the last served, gangs placed before ahead
of new ones, then age (02 R58, 03 R69, R85). A launch with a suspended gang that could go on offers no new one. Among the
suspended gangs of one queue and priority the sum of index and key stands for age, and a recompute gang takes the turn of
queue 0 (DESIGN CHOICE, log 51: the spec orders neither). -/
def State.offers (s : State) : List (Nat × Nat × Nat × Nat × Offer) :=
  let turn := fun (q : Nat) => (q + 1024 - (s.dev.served + 1) % 1024) % 1024
  let old := (s.gangs.filter fun g => g.2.suspended && (s.part g.2.part).st == .running && s.hasReady g.1 &&
      s.allSettled g.1 && (g.2.imgLen == 0 || g.2.tilesOut)).map fun g =>
    (127 - g.2.prio, match g.2.launch with | some l => turn (s.launch l).queue | none => 0, 0, g.2.index + g.1, Offer.old g.1)
  let fresh := (s.launches.filter fun l => !l.2.aborted && decide (l.2.nextGang < l.2.desc.gangs) &&
      (s.part l.2.desc.part).st == .running && (s.queue l.2.queue).phase == .placing l.1 &&
      !s.gangs.any fun g => g.2.suspended && g.2.launch == some l.1 && s.hasReady g.1).map fun l =>
    (127 - l.2.prio, turn l.2.queue, 1, l.1, Offer.fresh l.1)
  old ++ fresh

/-- Order of offers. -/
def offerLe (a b : Nat × Nat × Nat × Nat × Offer) : Bool :=
  if a.1 ≠ b.1 then decide (a.1 < b.1)
  else if a.2.1 ≠ b.2.1 then decide (a.2.1 < b.2.1)
  else if a.2.2.1 ≠ b.2.2.1 then decide (a.2.2.1 < b.2.2.1)
  else decide (a.2.2.2.1 ≤ b.2.2.2.1)

/-- Put an offer in order. -/
def putOffer (x : Nat × Nat × Nat × Nat × Offer) : List (Nat × Nat × Nat × Nat × Offer) → List (Nat × Nat × Nat × Nat × Offer)
  | [] => [x]
  | y :: r => if offerLe x y then x :: y :: r else y :: putOffer x r

/-- Place an offer, if 03 R71 finds a target and the context pool holds its image. -/
def State.tryPlace (s : State) (o : Offer) : Option State :=
  let n := match o with
    | .old g => s.needOld g
    | .fresh l => s.needOf l
  match n.bytes with
  | none =>
    (match o with
      | .old g => (s.chooseTarget n).map fun x => x.2.placeOld g x.1 none
      | .fresh _ => none)
  | some bytes =>
    match (s.part n.part).takePool bytes with
    | none => none
    | some (at_, p) => (s.chooseTarget n).map fun x =>
        let s1 := x.2.modPart n.part fun q => { q with pool := p.pool }
        match o with
        | .old g => s1.placeOld g x.1 (some (at_, bytes))
        | .fresh l => s1.placeFresh l x.1 at_ bytes

/-- GANG_PLACEMENT: the distributor places the first offer that can be placed, all or nothing (03 R69-R73). -/
def execGangPlacement (s : State) : Answer :=
  .next (((s.offers.foldr putOffer []).findSome? fun o => s.tryPlace o.2.2.2.2).getD s)

/-- Hand tile budgets of a cluster over to the gangs that wait for them, oldest first. -/
def State.handTiles (s : State) (cl : Nat) : State :=
  (s.gangs.filter fun g => g.2.cluster_ == cl && g.2.newTiles).foldl (fun x g =>
    let u := x.tilesUsed cl
    if u.1 + g.2.tileKb + u.2.2 ≤ 32 then x.modGang g.1 fun y => { y with newTiles := false } else x) s

/-- VICTIM_TILE_SAVE: once no command uses a suspended gang's tiles, they are written to its image and its tile budget is
handed over (03 R85). -/
def execVictimTileSave (gang : Nat) (s : State) : Answer :=
  .next (
    let g := s.gang gang
    if g.suspended && s.onDie g && g.imgLen != 0 && !g.tilesOut && g.trellis.isEmpty then
      ((s.saveTiles gang).modGang gang fun x => { x with tilesOut := true }).handTiles g.cluster_
    else s)

end Sys2Proof.Machine
end

