-- ==== Sys2Proof/Machine/Manage.lean ====
section
/-!
DEFINITION. Reset and bring-up, keys and attestation, power and heat (02 R43, R65-R68, 26 R474-R477), the governor's limit
(06 R146), memory errors (10 R228), evictions and recipe stores (13 R296, R478), and trace (21 R418-R420).
-/

namespace Sys2Proof.Machine

/-! ### Reset and bring-up (26 R474) -/

/-- An address of host memory, which lies outside the device (10 Table 10-1). -/
def hostAddr (a : Nat) : Bool := decide (2 ^ 48 ≤ a ∧ a < 2 ^ 49)

/-- What a memory system holds with every memory of the device at 0: host memory alone (26 R474). -/
def MemSys.zeroed (m : MemSys) : MemSys :=
  { m with
    mem := m.mem.filter fun c => hostAddr c.1
    lineKeys := []
    poisoned := m.poisoned.filter hostAddr }

/-- The state a device reset leaves: the signature counter stays, and so does what lies outside the device. -/
def State.afterReset (s : State) : State :=
  let r := State.resetWith s.mgmt.attCount
  { r with agenda := s.agenda, free := s.free, ms := { r.ms with mem := s.ms.zeroed.mem, poisoned := s.ms.zeroed.poisoned } }

/-- Every memory of the device is zeroed (26 Table 26-2). -/
def State.zeroMemories (s : State) : State :=
  { s with
    ms := s.ms.zeroed
    parts := s.parts.map fun p => (p.1, { p.2 with rtiles := p.2.rtiles.map fun t => (t.1, { t.2 with bytes := [], bad := [] }) })
    gangs := s.gangs.map fun g => (g.1, { g.2 with
      store := [], bad := [], unseen := [], tiles := g.2.tiles.map fun t => (t.1, { t.2 with bytes := [], bad := [] }) })
    lineCores := s.lineCores.map fun c => (c.1, { c.2 with lmem := [], bad := [] }) }

/-- DEVICE_RESET: by main power or over the sideband. -/
def execDeviceReset (_ : Bool) (s : State) : Answer := .next s.afterReset

/-- POWER_LOSS: what is volatile is lost, and nothing runs until main power returns (02 R68). -/
def execPowerLoss (s : State) : Answer :=
  .next (let r := s.afterReset
    { r with mgmt := { r.mgmt with railOn := false } })

/-- The boot ROM's check of an image: a signature of 2,820 bytes that verifies under the fused root hash (02 R67). -/
def firmwareVerified (f : Firmware) : Bool :=
  f.signature.length == 2820 && Config.xmssVerifies Config.rootHash f.code f.signature

/-- BRINGUP_PHASE_COMPLETE: the next phase. ROM ends in recovery where the check of a firmware image fails: it is not run
and is reported; the images that pass run from then on; MEM has zeroed every memory; LINK ends once the CXL link has trained (26 Table 26-2, 02 R67). -/
def execBringupPhaseComplete (images : List Firmware) (s : State) : Answer :=
  .next (
    let m := s.mgmt
    let onward := fun (x : State) => { x with mgmt := { x.mgmt with phase := m.phase + 1 } }
    if m.phase = 4 ∨ m.recov then s
    else if m.phase = 1 then
      match images.findIdx? fun f => !firmwareVerified f with
      | some k => { s with mgmt := { m with recov := true, failedImage := some k } }
      | none => onward { s with mgmt := { m with images := images.map (·.code) } }
    else if m.phase = 2 then onward s.zeroMemories
    else if m.phase = 3 ∧ !m.linkUp then s
    else onward s)

/-- CXL_LINK_TRAINING (02 R43). -/
def execCxlLinkTraining (width rate : Nat) (s : State) : Answer :=
  .next (if s.mgmt.phase.toNat < 3 then s
    else { s with mgmt := { s.mgmt with linkWidth := min width 16, linkRate := min rate 128, linkUp := true } })

/-! ### Keys and attestation (02 R65, R68) -/

/-- KEY_BLOB_INSTALL: a blob that unwraps installs the key of a key ID other than 0. A blob for key ID 0, or for one that
has a key, changes nothing (DESIGN CHOICE, log 56: the rule does not say). -/
def execKeyBlobInstall (keyId : BitVec 12) (unwraps : Bool) (s : State) : Answer :=
  .next (s.ready (
    if !unwraps || keyId == 0 || s.mgmt.keys.contains keyId.toNat then s
    else { s with mgmt := { s.mgmt with keys := s.mgmt.keys ++ [keyId.toNat] } }))

/-- ATTESTATION_REQUEST: the counter advances before the report leaves, which measures every running
image; exhausted, the request ends in an error. -/
def execAttestationRequest (nonce : BitVec 256) (s : State) : Answer :=
  .next (s.ready (
    let m := s.mgmt
    let config := s.parts.map fun p => (p.1, p.2.st != .off, p.2.root, p.2.mask, p.2.keySet, p.2.shadow)
    let measures := m.images.map Config.measure
    let report : AttReport := ⟨nonce, m.attCount, measures, config, Config.signature m.attCount nonce measures config⟩
    if m.attCount < 2 ^ 20 then
      { s with mgmt := { m with attCount := m.attCount + 1, attReport := some report, attError := false } }
    else { s with mgmt := { m with attReport := none, attError := true } }))

/-! ### The governor's limit and heat (06 R146, 26 R476) -/

/-- ILIMCFG_WRITE: at least 256; while throttled it sets the restore target and never raises the limit. -/
def execIlimcfgWrite (v : BitVec 64) (s : State) : Answer :=
  .next (s.ready (
    let n : BitVec 16 := if (v.extractLsb' 0 16).toNat < 256 then 256 else v.extractLsb' 0 16
    let limit := if s.mgmt.throt && decide (s.dev.ilim.toNat < n.toNat) then s.dev.ilim else n
    { s with dev := { s.dev with ilim := limit }, mgmt := { s.mgmt with restore := n } }))

/-- Some sensor is at a temperature in °C, or above. -/
def anyAt (temps : List (BitVec 16)) (c : Int) : Bool := temps.any fun t => decide (16 * c ≤ t.toInt)

/-- THERMAL_SAMPLE: the controller throttles, recovers, and at TRIP also removes the main rail. -/
def execThermalSample (temps : List (BitVec 16)) (mw : BitVec 32) (mj : BitVec 64) (s : State) : Answer :=
  .next (
    let trips := anyAt temps s.mgmt.trip.toNat
    let m : Mgmt := { s.mgmt with
      temps := temps, modPwr := mw, energy := mj, railOn := s.mgmt.railOn && !trips, linkUp := s.mgmt.linkUp && !trips }
    let limit := s.dev.ilim.toNat
    if anyAt temps m.throtAt.toNat then
      { s with
        mgmt := { m with throt := true, coolAt := 0 }
        dev := { s.dev with ilim := if limit ≤ 2048 then s.dev.ilim else BitVec.ofNat 16 (max 2048 (limit - 256)) } }
    else if anyAt temps (m.throtAt.toNat - 5 : Int) then { s with mgmt := { m with coolAt := 0 } }
    else
      let since := if m.coolAt = 0 then s.tick + 1 else m.coolAt
      let m1 := { m with coolAt := since }
      if !m.throt || decide (s.tick + 1 < since + 1000000) then { s with mgmt := m1 }
      else
        let new := min m.restore.toNat (limit + 256)
        { s with
          mgmt := { m1 with throt := new != m.restore.toNat }
          dev := { s.dev with ilim := BitVec.ofNat 16 new } })

/-! ### Memory (10 R228, 13 R296, R478) -/

/-- A list of poisoned lines with the line of an address. -/
def withLine (bad : List Nat) (a : Nat) : List Nat := if bad.contains (lineOf a) then bad else bad ++ [lineOf a]

/-- Poison a line where it is held; a store or tile that no gang has holds none. A line of registers is read by no load,
copy or engine: its error is detected and logged only (DEDUCED, log 57). -/
def State.poison (s : State) (at_ : ErrorAt) : State :=
  let held := fun (g : Nat) (f : Gang → Gang) => if (tfind s.gangs g).isSome then s.modGang g f else s
  match at_ with
  | .phys pa => { s with ms := { s.ms with poisoned := withLine s.ms.poisoned pa } }
  | .gang g a => held g fun x => { x with bad := withLine x.bad a }
  | .recipe p n off => if p < 8 then s.modTile p n fun t => { t with bad := withLine t.bad off } else s
  | .tile g n off => held g fun x => x.modTile n fun t => { t with bad := withLine t.bad off }
  | .lineMem n a => if n < 16 then s.modLineCore n fun c => { c with bad := withLine c.bad a } else s
  | .regs _ _ => s

/-- The address of the line an error strikes: physical, of the gang store, virtual, or its place in a tile or line
memory. -/
def State.errorAddr (s : State) (at_ : ErrorAt) : Word :=
  match at_ with
  | .phys a | .gang _ a | .tile _ _ a | .lineMem _ a | .regs _ a => BitVec.ofNat 64 (lineOf a)
  | .recipe p n off => (s.part p).tileVa n + BitVec.ofNat 64 (lineOf off)

/-- MEMORY_UNCORRECTABLE_ERROR: the line is poisoned and the detection logged. -/
def execMemoryUncorrectableError (at_ : ErrorAt) (unit : BitVec 16) (s : State) : Answer :=
  .next ((s.poison at_).logDevice FaultCode.poison.num 0 unit.toNat 0 (s.errorAddr at_))

/-- L2_LINE_EVICT: a line that is neither locked nor of the frame exchange leaves the L2; a sealed tile that nothing pins
is dropped; one with a reserved STATE, or whose record cannot be read, is left as it is and its failure logged, an access on
behalf of no team (13 R295, 19 R401; DEDUCED, log 13). -/
def execL2LineEvict (t : EvictTarget) (s : State) : Answer :=
  .next (match t with
    | .line pa =>
      let l := lineOf pa
      if s.lockedLines.contains l || s.target l == .fx then s else { s with ms := { s.ms with l2 := tdel s.ms.l2 l } }
    | .tile p n =>
      match s.tileState p n with
      | .error f => s.logDevice f.code.num 1 2 0 f.addr
      | .ok _ => if s.mayDrop p n then s.dropTile p n else s)

/-- RECIPE_STORE_PERFORM: the store at the head of a team's queue is checked where it is performed; a refused store is
raised later; the stores behind it follow (13 R478). -/
def execRecipeStorePerform (team : Nat) (s : State) : Answer :=
  .next (match (s.team team).storeQ with
    | [] => s
    | h :: r =>
      let g := (s.team team).gang
      let next := fun (x : State) (f : List Failure) =>
        let y := x.modTeam team fun t => { t with storeQ := r, storeFails := t.storeFails ++ f }
        if r.isEmpty then y else (y.drain team r.length).syncStore g
      match h.loc with
      | .recipe n off =>
        (match s.tileStore (s.gang g).part (some g) n off h.va h.data with
        | .done s1 => next s1 []
        | .refused f => next s [f]
        | .wait _ => s)
      | _ => s)

/-! ### Trace (21 R418-R420) -/

/-- Every entity owes a SYNC of a reason before its next packet. -/
def Trace.owe (t : Trace) (reason : Nat) : Trace :=
  { t with ents := t.ents.map fun e => (e.1, e.2.owe reason) }

/-- The fields of a TRCCTL value. -/
def Trace.configure (t : Trace) (v : BitVec 64) : Trace :=
  { t with syncPer := v.extractLsb' 48 16, parts := v.extractLsb' 8 8, hfilt := v.getLsbD 1, en := v.getLsbD 0 }

/-- TRCCTL_ENABLE. -/
def execTrcctlEnable (v : BitVec 64) (s : State) : Answer :=
  .next (s.ready { s with trace := { (s.trace.configure v).owe 1 with en := true, lost := 0 } })

/-- TRCCTL_DISABLE: what is buffered still leaves. -/
def execTrcctlDisable (v : BitVec 64) (s : State) : Answer :=
  .next (s.ready { s with trace := { s.trace.configure v with en := false } })

/-- Word i of the training sequence. -/
def trainingWord (i : Nat) : Word := BitVec.ofNat 64 (bytesNat ((List.range 8).map fun j => BitVec.ofNat 8 (i + j)))

/-- TRACE_LINK_READY: training, then the stream; the first time every entity owes a SYNC of reason 1, and at a return a LOSS
goes first where drops are outstanding (21 R420). -/
def execTraceLinkReady (s : State) : Answer :=
  .next (if s.trace.link then s
    else
      let t := if s.trace.everUp then s.trace else s.trace.owe 1
      let out := (List.range 65536).map trainingWord ++ (if t.everUp then t.loss else []) ++ t.buffer
      { s with trace := { t with
          link := true, everUp := true, buffer := [], sent := out.reverse ++ t.sent
          drops := if t.everUp then 0 else t.drops } })

/-- TRACE_LINK_LOST. -/
def execTraceLinkLost (s : State) : Answer := .next { s with trace := { s.trace with link := false } }

end Sys2Proof.Machine
end

