-- ==== Sys2Proof/Machine/Retire.lean ====
section
/-!
DEFINITION. The front end's own steps (06 R141, R143, 04 R90-R93), reported faults, fences and debug stops (19 R393, R399,
R400), and the end of teams, gangs and launches (21 R410-R413).
-/

namespace Sys2Proof.Machine

/-! ### Fetch, clock gates and fills -/

/-- BUNDLE_FETCH: the front end of a core chooses a ready team (06 R141), whose turn, the fetch and dispatch of its next
bundle or the operations of the one it has, belongs to this step. -/
def execBundleFetch (core : Nat) (s : State) : Answer :=
  .next (match s.chooseTeam core with
    | none => s
    | some u => { s.renewRota core with agenda := ⟨0, .now u⟩ :: s.agenda })

/-- A core has a team that may run. -/
def State.anyRunnable (s : State) (core : Nat) : Bool :=
  s.teams.any fun t => t.2.core == core && t.2.st == .runnable && !(s.gang t.2.gang).suspended &&
    (s.part (s.gang t.2.gang).part).st == .running

/-- CORE_CLOCK_GATE (06 R143): no team may run, no overlay is filled, and no operation is in progress. -/
def execCoreClockGate (core : Nat) (s : State) : Answer :=
  .next (if s.anyRunnable core || !(s.core core).fills.isEmpty || (s.core core).due.any (fun x => decide (s.cycle ≤ x.1)) then s
    else s.modCore core fun c => { c with gated := true })

/-- The tick of the event that wakes a core: its first team to become RUNNABLE did so then; the present tick where only a
fill keeps it awake. -/
def State.wakeEvent (s : State) (core : Nat) : Nat :=
  (s.teams.filter fun t => t.2.core == core && t.2.st == .runnable && !(s.gang t.2.gang).suspended &&
    (s.part (s.gang t.2.gang).part).st == .running).foldl (fun n t => min n t.2.since) s.tick

/-- CORE_WAKE: the first fetch follows 40 ticks after the event that wakes the core (06 R143). -/
def execCoreWake (core : Nat) (s : State) : Answer :=
  .next (if (s.core core).gated && (s.anyRunnable core || !(s.core core).fills.isEmpty) then
      s.modCore core fun c => { c with gated := false, wakeAt := s.wakeEvent core + 40 }
    else s)

/-- Frames an overlay occupies (04 R90). -/
def frames (count : Nat) : Nat := ceilDiv count 256

/-- An overlay may not be evicted yet (04 R91): a team that waited on its fill still guards it, which one that leaves its
slot no longer does. -/
def State.guarded (s : State) (core : Nat) (o : Overlay) : Bool :=
  decide (s.cycle < o.filledAt + 4096) && o.guards.any fun u => (tfind s.teams u).isSome && (s.team u).core == core

/-- Evict unguarded overlays, least recently fetched first, until `need` frames are free. -/
def evictFor (guarded : Overlay → Bool) (need : Nat) : Nat → List Overlay → Option (List Overlay)
  | 0, _ => none
  | fuel + 1, l =>
    if (l.map fun o => frames o.count).sum + need ≤ Config.storeFrames then some l
    else match l.find? fun o => !guarded o with
      | none => none
      | some x => evictFor guarded need fuel (l.filter fun o => o != x)

/-- Read the bundles of a fill from memory; the failure of the lowest position that fails is the fill's (DESIGN CHOICE,
log 49: 04 R93 does not say which). -/
def State.fillWords (s : State) (c : Ctx) (i : Image) (first : Nat) : Nat → Except Failure (Table (BitVec 128))
  | 0 => .ok []
  | n + 1 =>
    match s.readMem c .fetch (i.bundleVa (first + n)) 16, s.fillWords c i first n with
    | .ok b, .ok t => .ok (tset t (first + n) (BitVec.ofNat 128 (bytesNat b)))
    | _, .error f => .error f
    | .error f, _ => .error f

/-- The address a failed fill reports to a team that was fetching `va`: the literal word's where only that cannot be
read (04 R93). -/
def State.fillAddr (s : State) (c : Ctx) (va : Word) : Word :=
  match s.readMem c .fetch va 16 with
  | .ok b => if bundleHasLiteral (BitVec.ofNat 128 (bytesNat b)) && (s.readMem c .fetch (va + 16) 16).toOption.isNone then va + 16 else va
  | .error _ => va

/-- The team still waits on the fill of the overlay it is fetching. -/
def State.waitsOnFill (s : State) (w : Nat × Word) : Bool :=
  let t := s.team w.1
  (tfind s.teams w.1).isSome && t.st == .runnable && t.flight.isNone && !t.ended && s.runs (s.gang t.gang) &&
    (s.gang t.gang).image.bundleVa t.pc == w.2

/-- OVERLAY_FILL: fill number `fill` of a core completes, evicting what it must; it waits while too few frames are
unguarded; a failure faults every waiting team (04 R90-R93). The overlay takes the place of the most recently fetched, one
that PRELOAD filled and no team has fetched from included (DESIGN CHOICE, log 84: 04 R91 does not say), and its positions
are read at one instant (DEDUCED, log 4: 04 R93 admits old or new bytes for each). A position in a poisoned line fails the
fill with POISON and its address (DESIGN CHOICE, log 49: R93 names translation and permission only). -/
def execOverlayFill (core fill : Nat) (s : State) : Answer :=
  .next (match (s.core core).fills[fill]? with
    | none => s
    | some f =>
      let c : Ctx := ⟨f.part, core, none, none⟩
      let drop := fun (x : State) => x.modCore core fun y => { y with fills := y.fills.eraseIdx fill }
      let under : State := { s with issue := { s.issue with pages := f.old.pages } }
      match under.fillWords c f.image f.first f.count with
      | .error e =>
        (f.waiting.filter s.waitsOnFill).foldl (fun (x : State) w =>
          x.takeFault w.1 ⟨e.code, if e.code = .poison then e.addr else under.fillAddr c w.2, 0, (x.team w.1).regs.top.mask⟩) (drop s)
      | .ok words =>
        match evictFor (s.guarded core) (frames f.count) ((s.core core).store.length + 1) (s.core core).store with
        | none => s
        | some l =>
          let o : Overlay := ⟨f.part, f.image.handle, f.image.gen, f.num, f.first, f.count, words, s.cycle, f.waiting.map (·.1)⟩
          ((drop s).noteXlate c (f.image.bundleVa f.first)).modCore core fun y => { y with store := l ++ [o] })

/-! ### Faults, fences and the debugger -/

/-- FAULT_REPORT: the failure that awaits a team whose earlier operations have finished is reported (19 R393); a
continuation's copy failure comes this way (11 R263). -/
def execFaultReport (team : Nat) (s : State) : Answer :=
  .next (
    let t := s.team team
    match t.contFail with
    | some f => if t.st == .runnable && t.flight.isNone && !t.ended then s.raiseCont team f else s
    | none => s)

/-- GANG_FENCE_CHECKPOINT: a running team of a fenced gang ends at its bundle boundary; one that has come to wait ends
from its last checkpoint (19 R400). -/
def execGangFenceCheckpoint (team : Nat) (s : State) : Answer :=
  .next (
    let t := s.team team
    if !t.fenced || t.ended then s
    else if t.st != .runnable then (s.rollback team).endTeam team
    else if t.flight.isNone then s.fenceStop team
    else s)

/-- DEBUG_STOP: a team that was asked to stop and stands at its checkpoint stops for the debugger (19 R397, R399). -/
def execDebugStop (team : Nat) (s : State) : Answer :=
  .next (
    let t := s.team team
    match s.stopDue team with
    | some i =>
      if t.flight.isNone && !t.ended && !t.stopped && t.dispatched == 0 && t.pc == t.ckpt.n then s.debugStop team i else s
    | none => s)

/-- The stopped team a DBGRES write names; the debug registers act while EN is 1 (19 R397). -/
def State.stoppedAt (s : State) (p : Nat) (v : BitVec 64) : Option Nat :=
  if !v.getLsbD 0 || !(s.part p).dbgEn then none
  else (s.teams.find? fun t => t.2.stopped && (s.gang t.2.gang).part == p && t.2.img.toNat / 4096 == v.toNat / 4096).map (·.1)

/-- A stopped team goes on, for one slot operation where `one` (19 R399): ready, or waiting as it did when it stopped. -/
def State.goOn (s : State) (u : Nat) (one : Bool) : State :=
  let s1 := s.modTeam u fun t => { t with stopped := false, stepOne := one, waits := t.waits.filter (· != .service) }
  let t := s1.team u
  if t.waits.isEmpty then s1.makeReady u
  else s1.modTeam u fun t => { t with st := if t.st == .out then .out else waitState t.waits }

/-- DBGRES_RESUME. -/
def execDbgresResume (p : Nat) (v : BitVec 64) (s : State) : Answer :=
  .next (s.ready (match s.stoppedAt p v with
    | some u => if v.getLsbD 1 then s else s.goOn u false
    | none => s))

/-- DBGRES_STEP. -/
def execDbgresStep (p : Nat) (v : BitVec 64) (s : State) : Answer :=
  .next (s.ready (match s.stoppedAt p v with
    | some u => if v.getLsbD 1 then s.goOn u true else s
    | none => s))

/-! ### The end of teams, gangs and launches (21 R410-R412) -/

/-- Everything a DRAINING team still had to do is done (21 R410). -/
def State.drainedTeam (s : State) (u : Nat) : Bool :=
  let t := s.team u
  let g := s.gang t.gang
  t.ended && t.flight.isNone && t.storeQ.isEmpty && t.held.isEmpty && t.unacked.isEmpty &&
    t.remote.all (fun r => r.answer.isSome) && t.copyQ.isEmpty && g.trellis.all (fun c => c.team != u) &&
    g.rayJobs.all (fun j => j.team != u || j.left == 0) && (s.raysOf u).isEmpty &&
    g.splatJobs.all (fun j => j.team != u || j.left == 0) && g.colls.all (fun c => c.team != u || c.done)

/-- The failures of a team that ended before a wait could raise them (11 R263, 12 R275, 13 R478). -/
def State.lateFails (s : State) (u : Nat) : List Failure :=
  let t := s.team u
  t.storeFails ++ (t.copyFails ++ t.contFails).map (·.fail) ++ ((s.gang t.gang).trellisFails.filter fun f => f.team == u).map (·.fail)

/-- Free a place of a partition's context pool. -/
def State.freePool (s : State) (p : Nat) (va : Word) : State :=
  s.modPart p fun q => { q with pool := tdel q.pool (va - q.ctxBase).toNat }

/-- The recipe charges of a gang end: OPEN tiles pass to FREE, others lose their charge (13 R297). -/
def State.endCharges (s : State) (g : Nat) : State :=
  let p := (s.gang g).part
  ((s.part p).rtiles.filter fun t => t.2.holder == some g).foldl (fun x t =>
    if (x.tileState p t.1).toOption == some .opened then x.freeTile p t.1
    else x.modTile p t.1 fun y => { y with holder := none }) s

/-- A gang retires (21 R412): its locks, charges, bindings and storage are released in order, it counts in NDONE unless
it was fenced, and a launch whose last gang this was ends. -/
def State.retireGang (s : State) (g : Nat) : State :=
  let x := s.gang g
  let s1 := (s.endCharges g).freePool x.part x.img
  let s2 : State := { s1 with gangs := tdel s1.gangs g }
  let s3 := s2.handTiles x.cluster_
  match x.launch with
  | none => s3
  | some l =>
    let s4 := s3.modLaunch l fun y =>
      { y with retired := y.retired + 1, ndone := if x.fenced then y.ndone else y.ndone + 1 }
    let s5 := match (s4.launch l).wq with
      | some t => s4.uncover t (t.first + BitVec.ofNat 64 (x.index * t.rpg))
      | none => s4
    (s5.endIfOver l).resubmit (s.launch l).queue

/-- A gang whose last team has gone and whose engine commands are done retires. -/
def State.retireIfDone (s : State) (g : Nat) : State :=
  let busy := s.teams.any fun t => t.2.gang == g
  let x := s.gang g
  if busy || !(x.trellis.isEmpty && x.colls.all (fun c => c.done)) then s else s.retireGang g

/-- A child's creator is told that its slot is free (21 R411); its TJOIN acquires the child's copies (08 R186). -/
def State.tellParent (s : State) (u : Nat) : State :=
  match (s.team u).parent with
  | none => s
  | some p =>
    match tfind s.teams p with
    | none => s
    | some t =>
      let s1 := (s.modGang (s.team u).gang fun g => { g with
          unseen := g.unseen.map fun x => if x.team == u then { x with team := p, join := true } else x }).modTeam p fun t =>
        { t with joinCnt := t.joinCnt - 1 }
      if t.st == .out then s1.imageWrite p 0x228 (natBytes (t.joinCnt - 1).toNat 8) else s1

/-- TEAM_SLOT_FREE: the slot of a DRAINING team whose work is done is freed and the team exists no more; failures no wait
raised are its gang's faults; its gang may retire (21 R410-R412). -/
def execTeamSlotFree (team : Nat) (s : State) : Answer :=
  .next (
    if (tfind s.teams team).isNone || !s.onDie (s.gang (s.team team).gang) || !s.drainedTeam team then s
    else
      let t := s.team team
      let s1 := (s.lateFails team).foldl (fun x f => x.lateFault team f) s
      let s2 := (s1.modGang t.gang fun g => { g with trellisFails := g.trellisFails.filter fun f => f.team != team }).tellParent team
      let s3 := if t.parent.isSome then s2.freePool (s.gang t.gang).part t.img else s2
      ({ s3 with teams := tdel s3.teams team } : State).retireIfDone t.gang)

end Sys2Proof.Machine
end

