-- ==== Sys2Proof/Machine/Partition.lean ====
section
/-!
DEFINITION. Partitions: PARTCTL and its state machine (02 R59-R63), the debugger's hold (18 R383), and translation
invalidation (10 R237, R238).
-/

namespace Sys2Proof.Machine

/-! ### PARTCTL -/

/-- A command or write that PARTCTL refuses (02 R60). -/
def State.refusePart (s : State) (p : Nat) : State := s.modPart p fun q => { q with err := true }

/-- A write to PARTCTL of an existing partition. -/
def State.toPart (s : State) (p : Nat) (k : State) : State := s.ready (if 8 ≤ p then s else k)

/-- SHADOW of the other partitions that are not OFF (02 R59). -/
def State.shadowOthers (s : State) (p : Nat) : Nat :=
  ((s.parts.filter fun q => q.1 != p && q.2.st != .off).map fun q => q.2.shadow.toNat).sum

/-- PARTCTL_SHADOW_WRITE: SHADOW changes in states OFF and SAVED, within the sum of 192 MiB; bit 3 clears ERR first. -/
def execPartctlShadowWrite (p : Nat) (v : BitVec 64) (s : State) : Answer :=
  .next (s.toPart p (
    let s1 := s.modPart p fun q => { q with err := q.err && !v.getLsbD 3 }
    let n := v.extractLsb' 32 8
    if (s.part p).resident || decide (192 < n.toNat + s.shadowOthers p) then s1.refusePart p
    else (s1.modPart p fun q => { q with shadow := n }).yieldWays s.generalWays))

/-- Notices to the devices of the domain (18 R383). -/
def State.notify (s : State) (hold : Bool) : State :=
  { s with dev := { s.dev with sentNotices := s.dev.sentNotices ++ [(s.dev.self.toNat, hold)] } }

/-- HELD: under a hold with every partition halted (18 R383). -/
def State.noteHeld (s : State) : State :=
  { s with dev := { s.dev with
      held := s.dev.hold && s.parts.all fun p => p.2.st != .running && p.2.st != .halting } }

/-- A team of a halted partition is rolled back to its last checkpoint, which is taken anew (19 R385), and stops, keeping
what it waits for (02 R61). It keeps its place among the teams that guard an overlay being filled (04 R91). -/
def State.haltTeam (s : State) (u : Nat) : State :=
  let t := s.team u
  if t.ended || t.st == .out then s
  else
    let waits := if waitState t.waits == .runnable then [] else t.waits
    (s.rollback u).modTeam u fun x => { x with ckptCnt := x.ckptCnt + 1, waits := waits, st := waitState waits }

/-- The teams of a partition. -/
def State.teamsOf (s : State) (p : Nat) : List Nat := (s.teams.filter fun t => (s.gang t.2.gang).part == p).map (·.1)

/-- A running partition is halted (02 R61). -/
def State.haltPart (s : State) (p : Nat) (debug : Bool) : State :=
  (s.teamsOf p).foldl State.haltTeam (s.modPart p fun q => { q with st := .halting, heldByDebug := debug })

/-- PARTCTL_HALT: the partition's collective groups are held, and the domain is told. -/
def execPartctlHalt (p : Nat) (s : State) : Answer :=
  .next (s.toPart p (if (s.part p).st = .running then (s.haltPart p false).notify true else s.refusePart p))

/-- Something of a partition is in flight: granted engine commands, unpaused rays, started splat jobs, stores and remote
requests, and overlay fills (02 R61). -/
def State.inFlight (s : State) (p : Nat) : Bool :=
  let mine := fun (g : Nat) => (s.gang g).part == p
  (s.gangs.any fun g => g.2.part == p && g.2.trellis.any fun c => c.running) ||
    (s.teams.any fun t => mine t.2.gang && (t.2.copyQ.any (fun c => c.started && !c.done) || !t.2.storeQ.isEmpty ||
      !t.2.unacked.isEmpty || t.2.remote.any fun r => r.answer.isNone)) ||
    (s.rays.any fun c => c.2.any fun r => mine r.2.gang && r.2.paused.isNone) ||
    (s.splats.any fun d => d.2.any fun j => j.started && mine j.gang) ||
    s.cores.any fun c => c.2.fills.any fun f => f.part == p

/-- A halted partition runs again: its gangs' collective timelines take their new values (02 R61), and for a gated core its
RUNNABLE teams become so now (06 R143). -/
def State.resumePart (s : State) (p : Nat) : State :=
  let s0 := s.modPart p fun q => { q with st := .running, heldByDebug := false }
  let s1 : State := { s0 with teams := s0.teams.map fun t =>
    (t.1, if t.2.st == .runnable && (s.gang t.2.gang).part == p then { t.2 with since := s.tick } else t.2) }
  ((s1.gangs.filter fun g => g.2.part == p).map (·.1)).foldl State.collAdvance s1

/-- The hold of the device's groups ends with the last partition that is halted or saved. -/
def State.releaseIfFree (s : State) : State :=
  if s.dev.hold || s.parts.any (fun p => p.2.st != .off && p.2.st != .running) then s else s.notify false

/-- PARTITION_HALTED: HALTING becomes HALTED once nothing of the partition is in flight; where a debugger's hold that
halted it has ended meanwhile, it runs again. -/
def execPartitionHalted (p : Nat) (s : State) : Answer :=
  .next (
    let q := s.part p
    if q.st ≠ .halting ∨ s.inFlight p then s
    else if q.heldByDebug && !s.dev.hold then s.resumePart p
    else (s.modPart p fun q => { q with st := .halted }).noteHeld)

/-- PARTCTL_SAVE. -/
def execPartctlSave (p : Nat) (s : State) : Answer :=
  .next (s.toPart p (if (s.part p).st = .halted then s.modPart p fun q => { q with st := .saving, heldByDebug := false }
    else s.refusePart p))

/-- Where a partition's paused rays of a cluster are kept while it is saved. -/
def savedUnit (p cl : Nat) : Nat := Config.numClusters * (1 + p) + cl

/-- The paused rays of a partition leave the ray unit of a cluster (17 R356). -/
def State.raysOut (s : State) (p cl : Nat) : State :=
  let l := tget [] s.rays cl
  let mine := l.filter fun r => (s.gang r.2.gang).part == p
  if mine.isEmpty then s
  else { s with rays := tset (tset s.rays cl (l.filter fun r => (s.gang r.2.gang).part != p)) (savedUnit p cl) mine }

/-- They return to the same ray unit. -/
def State.raysBack (s : State) (p cl : Nat) : State :=
  let mine := tget [] s.rays (savedUnit p cl)
  if mine.isEmpty then s
  else
    let full := mine.foldl (fun t r => tset t r.1 r.2) (tget [] s.rays cl)
    { s with rays := tset (tdel s.rays (savedUnit p cl)) cl full }

/-- The teams of a partition whose registers its images lag behind: those in a slot. -/
def State.seated (s : State) (p : Nat) : List Nat :=
  (s.teamsOf p).filter fun u => (s.team u).st != .out && !(s.team u).ended

/-- PARTITION_SAVED: the team images hold the teams, and the engine contexts have left the clusters (02 R62); its overlays
are no part of the context, and its code is filled again on demand (04 R92). -/
def execPartitionSaved (p : Nat) (s : State) : Answer :=
  .next (
    if (s.part p).st ≠ .saving then s
    else
      let s1 := (s.seated p).foldl State.saveTeam s
      let s2 := (List.range Config.numClusters).foldl (fun x cl => x.raysOut p cl) s1
      let s3 : State := { s2 with cores := s2.cores.map fun c => (c.1, { c.2 with store := c.2.store.filter fun o => o.part != p }) }
      s3.modPart p fun q => { q with st := .saved })

/-- No other resident partition holds a cluster of p (02 Table 2-5). -/
def State.clustersFree (s : State) (p : Nat) : Bool :=
  s.parts.all fun q => q.1 == p || !q.2.resident || (q.2.mask &&& (s.part p).mask) == 0

/-- The sampler caches and the lookup SRAMs of a partition's clusters are emptied as it comes onto them (10 R231,
12 R285). -/
def State.emptySamplers (s : State) (p : Nat) : State :=
  { s with ms := { s.ms with
      sampler := s.ms.sampler.filter fun c => !(s.part p).mask.getLsbD c.1
      lookup := s.ms.lookup.filter fun c => !(s.part p).mask.getLsbD c.1 } }

/-- PARTCTL_RESTORE. -/
def execPartctlRestore (p : Nat) (s : State) : Answer :=
  .next (s.toPart p (if (s.part p).st = .saved ∧ s.clustersFree p then
      (s.emptySamplers p).modPart p fun q => { q with st := .restoring }
    else s.refusePart p))

/-- PARTITION_RESTORED: the teams stand as their images say, in the same slots, whose entities they are bound to anew
(21 R421). -/
def execPartitionRestored (p : Nat) (s : State) : Answer :=
  .next (
    if (s.part p).st ≠ .restoring then s
    else
      let s1 := (List.range Config.numClusters).foldl (fun x cl => x.raysBack p cl) s
      ((s1.seated p).foldl (fun x u => (x.loadTeam u).rebind u 2) s1).modPart p fun q => { q with st := .halted })

/-- PARTCTL_RESUME. -/
def execPartctlResume (p : Nat) (s : State) : Answer :=
  .next (s.toPart p (if (s.part p).st = .halted then (s.resumePart p).noteHeld.releaseIfFree else s.refusePart p))

/-- PARTCTL_START. -/
def execPartctlStart (p : Nat) (s : State) : Answer :=
  .next (s.toPart p (
    let q := s.part p
    if q.st = .off ∧ s.clustersFree p ∧ q.shadow.toNat + s.shadowOthers p ≤ 192 then
      (((s.emptySamplers p).modPart p fun q => { q with st := .running, heldByDebug := false }).yieldWays s.generalWays).noteHeld
    else s.refusePart p))

/-- The launch at a queue's head leaves it; an entry not yet read stays. -/
def State.stopQueue (s : State) (q : Nat) : State :=
  if (s.queue q).phase.launch?.isSome then s.leaveQueue q else s.modQueue q fun x => { x with phase := .idle }

/-- All running work of a partition is discarded, and its launches end with status 3 (02 R60). -/
def State.stopPart (s : State) (p : Nat) : State :=
  let gs := (s.gangs.filter fun g => g.2.part == p).map (·.1)
  let mine := fun (g : Nat) => gs.contains g
  let s1 := gs.foldl State.endCharges s
  let s2 : State := { s1 with
    teams := s1.teams.filter fun t => !mine t.2.gang
    gangs := s1.gangs.filter fun g => !mine g.1
    rays := (s1.rays.map fun c => (c.1, c.2.filter fun r => !mine r.2.gang)).filter fun c => !c.2.isEmpty
    splats := s1.splats.map fun d => (d.1, d.2.filter fun j => !mine j.gang) }
  let s3 := s2.modPart p fun q => { q with st := .off, pool := [], heldByDebug := false }
  let s4 := ((s3.queues.filter fun q => q.2.part == p).map (·.1)).foldl State.stopQueue s3
  ((s4.launches.filter fun l => l.2.desc.part == p).map (·.1)).foldl
    (fun x l => (x.modLaunch l fun y => { y with aborted := true }).endLaunch l) s4

/-- PARTCTL_STOP. -/
def execPartctlStop (p : Nat) (s : State) : Answer :=
  .next (s.toPart p (
    let st := (s.part p).st
    if st = .halted ∨ st = .saved then (s.stopPart p).noteHeld.releaseIfFree else s.refusePart p))

/-! ### The debugger's hold (18 R383) -/

/-- DBGHOLD_HOLD: every running partition is halted, and a hold notice goes out. -/
def execDbgholdHold (s : State) : Answer :=
  .next (s.ready (
    let run := (s.parts.filter fun p => p.2.st == .running).map (·.1)
    let s1 := run.foldl (fun x p => x.haltPart p true) s
    ({ s1 with dev := { s1.dev with hold := true } }).noteHeld.notify true))

/-- DBGHOLD_RELEASE: the partitions that the hold halted run again, and a release notice goes out. -/
def execDbgholdRelease (s : State) : Answer :=
  .next (s.ready (
    let s1 : State := { s with dev := { s.dev with hold := false, held := false } }
    let back := (s.parts.filter fun p => p.2.heldByDebug && p.2.st == .halted).map (·.1)
    (back.foldl State.resumePart s1).notify false))

/-! ### Translation invalidation (10 R237, R238) -/

/-- The range of an invalidation: a page of any size that meets it. -/
def Part.invalidates (q : Part) (page size : Nat) : Bool :=
  q.tlbiAll || overlaps (page * size) size (q.tlbiAddr.toNat % 2 ^ 57) ((q.tlbiCount.toNat + 1) * 65536)

/-- A cached translation of partition p that its invalidation covers. -/
def State.covers (s : State) (p : Nat) (e : TlbEntry) : Bool := e.part == p && (s.part p).invalidates e.page e.size

/-- Every cached entry of the range is gone. -/
def State.purge (s : State) (p : Nat) : State :=
  let keepT := fun (l : List TlbEntry) => l.filter fun e => !s.covers p e
  let keepW := fun (l : List WalkEntry) => l.filter fun e =>
    !(e.part == p && (s.part p).invalidates e.top (2 ^ levelShift e.level))
  { s with ms := { s.ms with
      l0 := s.ms.l0.map fun t => (t.1, keepT t.2)
      l1 := s.ms.l1.map fun t => (t.1, keepT t.2)
      walks := s.ms.walks.map fun t => (t.1, keepW t.2) } }

/-- Apply a change to the mapping of every command and operation of a partition that a marker can stand behind, and to
the marks of its stores and remote requests. -/
def State.remark (s : State) (p : Nat) (f : Mapping → Mapping) (ahead : Bool) : State :=
  let mine := fun (g : Nat) => (s.gang g).part == p
  let store := fun (h : HeldStore) => { h with ahead := ahead }
  let out := fun (r : RemoteOut) => { r with ahead := ahead }
  let team := fun (t : Team) => { t with
    copyQ := t.copyQ.map fun c => { c with old := f c.old }
    held := t.held.map store
    storeQ := t.storeQ.map store
    unacked := t.unacked.map out
    remote := t.remote.map out
    engRemote := t.engRemote.map out
    old := if t.remote.isEmpty && t.old.pages.isEmpty then t.old else f t.old }
  let gang := fun (g : Gang) => { g with
    trellis := g.trellis.map fun c => { c with old := f c.old }
    colls := g.colls.map fun c => { c with old := f c.old } }
  let fill := fun (x : Fill) => if x.part == p then { x with old := f x.old } else x
  { s with
    teams := s.teams.map fun t => (t.1, if mine t.2.gang then team t.2 else t.2)
    gangs := s.gangs.map fun g => (g.1, if g.2.part == p then gang g.2 else g.2)
    rays := s.rays.map fun c => (c.1, c.2.map fun r => (r.1, if mine r.2.gang then { r.2 with old := f r.2.old } else r.2))
    splats := s.splats.map fun d => (d.1, d.2.map fun j => if mine j.gang then { j with old := f j.old } else j)
    cores := s.cores.map fun c => (c.1, { c.2 with fills := c.2.fills.map fill }) }

/-- A mapping as a marker finds it: what the caches held of the range is kept, and the marker stands behind. -/
def Mapping.keepOld (cached : List TlbEntry) (m : Mapping) : Mapping := ⟨(m.pages ++ cached).eraseDups, true⟩

/-- The cached translations an invalidation of p covers. -/
def State.cachedOf (s : State) (p : Nat) : List TlbEntry :=
  ((s.ms.l0 ++ s.ms.l1).flatMap fun t => t.2.filter fun e => s.covers p e).eraseDups

/-- Work that re-translates gives up what it kept of the range. -/
def State.forgetOld (s : State) (p : Nat) : State :=
  s.remark p (fun m => ⟨m.pages.filter fun e => !s.covers p e, false⟩) false

/-- TLBI_GO: the command takes its fields from the write; its markers go into the partition's queues and the cached
entries of the range go. A write while one is in progress is ignored. -/
def execTlbiGo (p : Nat) (v : BitVec 64) (s : State) : Answer :=
  .next (s.toPart p (
    if (s.part p).tlbiBusy then s
    else
      let s1 := s.modPart p fun q => { q with
        tlbiSlot := v.extractLsb' 32 16, tlbiCount := v.extractLsb' 16 16, tlbiCode := v.getLsbD 3, tlbiAll := v.getLsbD 2
        tlbiBusy := true }
      if (s.part p).st = .running then (s1.remark p (Mapping.keepOld (s1.cachedOf p)) true).purge p
      else (s1.forgetOld p).purge p))

/-- Work of partition p stands ahead of its marker. -/
def State.anyAhead (s : State) (p : Nat) : Bool :=
  let mine := fun (g : Nat) => (s.gang g).part == p
  (s.teams.any fun t => mine t.2.gang && (t.2.copyQ.any (fun c => c.old.ahead && !c.done) ||
      (t.2.held ++ t.2.storeQ).any (fun h => h.ahead) || (t.2.unacked ++ t.2.remote).any (fun r => r.ahead) ||
      (t.2.old.ahead && t.2.flight.any fun f => !f.done.getLsbD 3))) ||
    (s.gangs.any fun g => g.2.part == p &&
      (g.2.trellis.any (fun c => c.old.ahead) || g.2.colls.any fun c => c.old.ahead && !c.done)) ||
    (s.rays.any fun c => c.2.any fun r => mine r.2.gang && r.2.old.ahead) ||
    (s.splats.any fun d => d.2.any fun j => mine j.gang && j.old.ahead) ||
    (s.cores.any fun c => c.2.fills.any fun f => f.part == p && f.old.ahead)

/-- TLBI_COMPLETE: once the work ahead of the markers is done, with CODE the resident overlays go, BUSY clears and the
slot is signalled; a partition that does not run waits for nothing. CODE, SLOT and TLBIVAL, and the range of a partition
that does not run, are as they stand now (DESIGN CHOICE, log 45: 10 R237 does not say when they are taken). -/
def execTlbiComplete (p : Nat) (s : State) : Answer :=
  .next (
    let q := s.part p
    let run := q.st == .running
    if !q.tlbiBusy || (run && s.anyAhead p) then s
    else
      let s1 := if run then s else s.forgetOld p
      let s2 : State := if q.tlbiCode then
          { s1 with cores := s1.cores.map fun c => (c.1, { c.2 with store := c.2.store.filter fun o => o.part != p }) }
        else s1
      (s2.modPart p fun q => { q with tlbiBusy := false }).signal p q.tlbiSlot.toNat q.tlbiVal)

end Sys2Proof.Machine
end

