-- ==== Sys2Proof/Machine/HostRegs.lean ====
section
/-!
DEFINITION. The host: its register writes (02 R44 and the registers of 01, 02, 03, 10, 13, 18, 19, 21, 22, 26), the frame
exchange (10 R229), host memory and host-managed device memory (02 R45, R46).
-/

namespace Sys2Proof.Machine

/-! ### Register writes (02 R44) -/

/-- The bits of a register that an access writes; none where the access is ignored. -/
def RegAccess_bits (a : RegAccess) : BitVec 64 :=
  if !a.aligned then 0
  else if a.size = 8 then BitVec.allOnes 64
  else if a.size = 4 then (if a.high then 0xFFFFFFFF00000000 else 0xFFFFFFFF)
  else 0

/-- A 64-bit register after an access, before its fields are kept to what they hold. -/
def written (a : RegAccess) (v old : BitVec 64) : BitVec 64 :=
  let m := RegAccess_bits a
  let x := if a.size = 4 ∧ a.high then v <<< 32 else v
  (old &&& ~~~m) ||| (x &&& m)

/-- Bits hi to lo of a value, in place. -/
def fieldMask (v : BitVec 64) (hi lo : Nat) : Word := BitVec.ofNat 64 (bitsOf v.toNat hi lo * 2 ^ lo)

/-- A register of partition p that is writable in states OFF and SAVED only. -/
def State.atRest (s : State) (p : Nat) (f : Part → Part) : State :=
  if 8 ≤ p ∨ (s.part p).resident then s else s.modPart p f

/-- A register of partition p. -/
def State.partReg (s : State) (p : Nat) (f : Part → Part) : State := if 8 ≤ p then s else s.modPart p f

/-- Replace 64-bit piece k of a wide register. -/
def setPiece {n : Nat} (x : BitVec n) (k : Nat) (f : BitVec 64 → BitVec 64) : BitVec n :=
  let old := x.extractLsb' (64 * k) 64
  BitVec.ofNat n (x.toNat - old.toNat * 2 ^ (64 * k) + (f old).toNat * 2 ^ (64 * k))

/-! ### The frame exchange partition (10 R229) -/

/-- The frame exchange range reads 0. -/
def State.zeroExchange (s : State) : State :=
  { s with ms := { s.ms with
      mem := s.ms.mem.filter fun c => s.target c.1 != .fx && decide (c.1 < 2 ^ 49 ∨ 2 ^ 50 ≤ c.1)
      poisoned := s.ms.poisoned.filter fun l => decide (l < 2 ^ 49 ∨ 2 ^ 50 ≤ l)
      l2 := s.ms.l2.filter fun l => decide (l.1 < 2 ^ 49 ∨ 2 ^ 50 ≤ l.1) } }

/-- FXCFG_WRITE. -/
def execFxcfgWrite (v : BitVec 64) (s : State) : Answer :=
  .next (s.ready (
    let size := v.extractLsb' 0 4
    let part := v.extractLsb' 4 3
    let change := size != s.dev.fxSize || part != s.dev.fxPart
    if 10 ≤ size.toNat || (change && s.heads.any fun h => h.2.en || h.2.run) then { s with dev := { s.dev with fxErr := true } }
    else
      let s1 := if size != s.dev.fxSize then s.zeroExchange else s
      let s2 := { s1 with dev := { s1.dev with fxSize := size, fxPart := part, fxErr := s1.dev.fxErr && !v.getLsbD 8 } }
      s2.yieldWays s.generalWays))

/-! ### Registers whose fields have rows of their own -/

/-- LQCFG: EN has rows of its own; with EN left 0 the other fields take the write. -/
def State.writeLqcfg (s : State) (q : Nat) (viaBar0 : Bool) (v : BitVec 64) : Answer :=
  if v.getLsbD 0 then execLqcfgEnable q viaBar0 v s
  else if (s.queue q).en then execLqcfgDisable q s
  else .next (s.modQueue q fun x => x.configure viaBar0 v)

/-- CMD of PARTCTL; a command that does not exist is refused. -/
def partctlCommand (p cmd : Nat) (s : State) : Answer :=
  match cmd with
  | 0 => .next s
  | 1 => execPartctlHalt p s
  | 2 => execPartctlSave p s
  | 3 => execPartctlRestore p s
  | 4 => execPartctlResume p s
  | 5 => execPartctlStart p s
  | 6 => execPartctlStop p s
  | _ => .next (s.refusePart p)

/-- PARTCTL: ERR is W1C; then SHADOW, where the access writes it; then the command (DESIGN CHOICE, log 88: 02 R60 gives the
fields of one write no order). -/
def State.writePartctl (s : State) (p : Nat) (a : RegAccess) (v : BitVec 64) : Answer :=
  let x := written a v 0
  let s1 := s.modPart p fun q => { q with err := q.err && !x.getLsbD 3 }
  andThen (if a.size = 8 ∨ a.high then execPartctlShadowWrite p x s1 else .next s1) (partctlCommand p (bitsOf x.toNat 7 4))

/-- TLBICMD: GO has a row of its own; a write without it stores the fields, of a command under way too (DESIGN CHOICE,
log 45: 10 R237 does not say). -/
def State.writeTlbi (s : State) (p : Nat) (v : BitVec 64) : Answer :=
  if v.getLsbD 0 then execTlbiGo p v s
  else .next (s.modPart p fun q => { q with
    tlbiSlot := v.extractLsb' 32 16, tlbiCount := v.extractLsb' 16 16, tlbiCode := v.getLsbD 3, tlbiAll := v.getLsbD 2 })

/-- TLBICMD as it reads. -/
def Part.tlbiReg (q : Part) : BitVec 64 :=
  BitVec.ofNat 64 (q.tlbiSlot.toNat * 2 ^ 32 + q.tlbiCount.toNat * 2 ^ 16 + (if q.tlbiCode then 8 else 0) +
    (if q.tlbiAll then 4 else 0))

/-- WQBIND: ENABLE has rows of its own; a write of the high half alone writes ADDR. -/
def State.writeWqbind (s : State) (p n : Nat) (a : RegAccess) (v : BitVec 64) : Answer :=
  let new := written a v (s.wq p n).addr
  if a.size = 4 ∧ a.high then
    .next (s.modWq p n fun w => { w with addr := bindAddr new })
  else if new.getLsbD 0 then execWqbindEnable p n new s
  else execWqbindDisable p n new s

/-- TRCCTL as it reads. -/
def Trace.ctl (t : Trace) : BitVec 64 :=
  BitVec.ofNat 64 (t.syncPer.toNat * 2 ^ 48 + t.parts.toNat * 2 ^ 8 + (if t.hfilt then 2 else 0) + (if t.en then 1 else 0))

/-- TRCCTL: EN has rows of its own. -/
def State.writeTrcctl (s : State) (a : RegAccess) (v : BitVec 64) : Answer :=
  let new := written a v s.trace.ctl
  if a.size = 4 ∧ a.high then .next { s with trace := s.trace.configure new }
  else if new.getLsbD 0 then execTrcctlEnable new s
  else execTrcctlDisable new s

/-- HEADCTL as it reads, but for ERR and RUN. -/
def Head.ctl (x : Head) : BitVec 64 :=
  BitVec.ofNat 64 (x.descVa.toNat + x.part * 32 + (if x.en then 1 else 0))

/-- HEADCTL: EN has rows of its own, with a link that trains. -/
def State.writeHeadctl (s : State) (h : Nat) (a : RegAccess) (v : BitVec 64) : Answer :=
  let new := written a v (s.head h).ctl
  if a.size = 4 ∧ a.high then
    .next (s.modHead h fun y => if y.en then { y with err := true } else y.configure new)
  else if new.getLsbD 0 then execHeadctlEnable h new true s
  else execHeadctlDisable h new s

/-- DOMCFG as it reads, but for ERR. -/
def DevRegs.domReg (d : DevRegs) : BitVec 64 :=
  BitVec.ofNat 64 (d.ndev.toNat * 2 ^ 32 + d.self.toNat * 2 ^ 16 + d.domPart.toNat * 2 ^ 9 + (if d.domEn then 1 else 0))

/-- DBGRES: GO and MODE lie in the low half and have rows of their own. -/
def State.writeDbgres (s : State) (p : Nat) (a : RegAccess) (v : BitVec 64) : Answer :=
  let x := written a v 0
  if 8 ≤ p ∨ !x.getLsbD 0 then .next s
  else if x.getLsbD 1 then execDbgresStep p x s else execDbgresResume p x s

/-- The bytes a partition's pool and argument area have given out keep their addresses when a base moves (01 R35,
03 R75). -/
def rebase (unit : Nat) (old new : Word) (l : List (Nat × Nat)) : List (Nat × Nat) :=
  l.map fun x => ((old + BitVec.ofNat 64 (unit * x.1) - new).toNat / unit, x.2)

/-- Partition p, resident, would hold a cluster of the mask that another resident partition holds (02 R59). -/
def State.maskTaken (s : State) (p : Nat) (m : BitVec 96) : Bool :=
  (s.part p).resident && s.parts.any fun q => q.1 != p && q.2.resident && (q.2.mask &&& m) != 0

/-- The plain registers: every field takes the write as its access code and range say. The page-table root, the cluster
mask and the key set can be written in every state of their partition and act at once, but that a write which would give
a resident partition a cluster another holds is ignored (DESIGN CHOICE, log 74: 02 R59 says neither). -/
def State.writePlain (s : State) (r : HostReg) (a : RegAccess) (v : BitVec 64) : State :=
  let w := written a v
  match r with
  | .lqBase q => if 1024 ≤ q ∨ (s.queue q).en then s else s.modQueue q fun x => { x with base := fieldMask (w x.base) 63 8 }
  | .argArea p => s.atRest p fun q =>
      let n := w (q.argBase ||| q.argSize.setWidth 64)
      let b := fieldMask n 63 21
      { q with argBase := b, argSize := n.extractLsb' 0 16, args := rebase 4096 q.argBase b q.args }
  | .ctxPool p => s.atRest p fun q =>
      let n := w (q.ctxBase ||| q.ctxSize.setWidth 64)
      let b := fieldMask n 63 21
      { q with
        ctxBase := b, ctxSize := n.extractLsb' 0 16
        pool := (rebase 1 q.ctxBase b q.pool).foldl (fun t x => tset t x.1 x.2) [] }
  | .parkCfg p => s.partReg p fun q =>
      let n := (w (q.parkThr.setWidth 64)).extractLsb' 0 7
      { q with parkThr := if 64 < n.toNat then 64 else n }
  | .lockCfg p => s.partReg p fun q => { q with lockQuota := (w (q.lockQuota.setWidth 64)).extractLsb' 0 16 }
  | .pageRoot p => s.partReg p fun q => { q with root := w q.root }
  | .clusterMask p k => s.partReg p fun q => 
      let m := setPiece q.mask k w
      if 2 ≤ k ∨ s.maskTaken p m then q else { q with mask := m }
  | .keySet p k => s.partReg p fun q => if 64 ≤ k then q else { q with keySet := setPiece q.keySet k w }
  | .hdmRange =>
      let n := w s.mgmt.hdm
      { s with mgmt := { s.mgmt with hdm := fieldMask n 43 32 ||| fieldMask n 24 16 ||| fieldMask n 9 0 } }
  | .hbmCfg =>
      let n := (w (s.dev.dispRes.setWidth 64)).extractLsb' 0 7
      { s with dev := { s.dev with dispRes := if 125 < n.toNat then 125 else n } }
  | .tlbiAddr p => s.partReg p fun q => { q with tlbiAddr := fieldMask (w q.tlbiAddr) 63 16 }
  | .tlbiVal p => s.partReg p fun q => { q with tlbiVal := w q.tlbiVal }
  | .rcpWin p => s.atRest p fun q => { q with rcpWin := fieldMask (w q.rcpWin) 63 16 }
  | .rcpBase p => s.atRest p fun q => { q with rcpBase := fieldMask (w q.rcpBase) 63 6 }
  | .rcpLen p => s.atRest p fun q => { q with rcpLen := (w (q.rcpLen.setWidth 64)).extractLsb' 0 24 }
  | .rcpImg p => s.atRest p fun q => { q with rcpImg := fieldMask (w q.rcpImg) 63 12 }
  | .rcpCfg p => s.atRest p fun q =>
      let n := w q.rcpCfg
      { q with rcpCfg := fieldMask n 43 32 ||| fieldMask n 20 0 }
  | .collGrp p => s.atRest p fun q => { q with collGrp := w q.collGrp }
  | .dbgCtl p => s.partReg p fun q =>
      let n := w (BitVec.ofNat 64 ((if q.dbgGstop then 2 else 0) + (if q.dbgEn then 1 else 0)))
      { q with dbgGstop := n.getLsbD 1, dbgEn := n.getLsbD 0 }
  | .dbgBpa p k => s.partReg p fun q => if 4 ≤ k then q else
      let n := w (tget 0 q.dbgBpa k)
      { q with dbgBpa := tset q.dbgBpa k (fieldMask n 63 63 ||| fieldMask n 35 0) }
  | .dbgBph p k => s.partReg p fun q => if 4 ≤ k then q else { q with dbgBph := tset q.dbgBph k (w (tget 0 q.dbgBph k)) }
  | .trcHdl => { s with trace := { s.trace with handle := w s.trace.handle } }
  | .thrCfg =>
      let n := (w (s.mgmt.throtAt.setWidth 64)).extractLsb' 0 8
      if 60 ≤ n.toNat ∧ n.toNat ≤ 105 then { s with mgmt := { s.mgmt with throtAt := n } } else s
  | _ => s

/-- REGISTER_WRITE: an access of another size or alignment, and any before READY, is ignored. -/
def execRegisterWrite (r : HostReg) (a : RegAccess) (v : BitVec 64) (s : State) : Answer :=
  if s.mgmt.phase ≠ 4 ∨ RegAccess_bits a = 0 then .next s
  else
    let low := a.size = 8 ∨ !a.high
    match r with
    | .lqCfg q viaBar0 => if 1024 ≤ q ∨ !low then .next s else s.writeLqcfg q viaBar0 v
    | .partCtl p => if 8 ≤ p then .next s else s.writePartctl p a v
    | .tlbiCmd p => if 8 ≤ p then .next s else s.writeTlbi p (written a v (s.part p).tlbiReg)
    | .wqBind p n => if 8 ≤ p ∨ 256 ≤ n then .next s else s.writeWqbind p n a v
    | .trcCtl => s.writeTrcctl a v
    | .headCtl h => if 12 ≤ h then .next s else s.writeHeadctl h a v
    | .lqTail q => if !low then .next s else execLqtailWrite q (v.extractLsb' 0 32) s
    | .fxCfg => if !low then .next s else execFxcfgWrite v s
    | .ilimCfg => if !low then .next s else execIlimcfgWrite v s
    | .domCfg => execDomcfgWrite (written a v s.dev.domReg) s
    | .collRst p => if 8 ≤ p ∨ !low then .next s else execCollrstWrite p v s
    | .dbgHold => if !low then .next s else if v.getLsbD 0 then execDbgholdHold s else execDbgholdRelease s
    | .dbgRes p => s.writeDbgres p a v
    | .tlSlot p n => if a.size = 8 then execTlslotHostWrite p n v s else .next s
    | .pose p h w => if w = 5 ∧ a.size = 8 then execPoseMailboxCommit p h v s
      else execPoseMailboxWrite p h (8 * w + (if a.size = 4 ∧ a.high then 4 else 0)) a.size v s
    | _ => .next (s.writePlain r a v)

/-! ### Host memory and host-managed device memory (02 R45, R46, R66) -/

/-- HOST_CACHE_WRITE_SNOOP: a host write to its own memory; copies the L2 holds of its lines go first. -/
def execHostCacheWriteSnoop (hpa : Nat) (data : List Byte) (s : State) : Answer :=
  .next (
    if 2 ^ 48 < hpa + data.length then s
    else
      let pa := 2 ^ 48 + hpa
      let s1 := s.physWrite 0 pa data
      { s1 with ms := { s1.ms with l2 := (linesOf pa data.length).foldl tdel s1.ms.l2 } })

/-- The range of HBM exposed to the host: its first byte and length. -/
def Mgmt.exposed (m : Mgmt) : Nat × Nat := (bitsOf m.hdm.toNat 24 16 * 2 ^ 30, bitsOf m.hdm.toNat 9 0 * 2 ^ 30)

/-- HOST_CXL_MEM_ACCESS: under the key of the HDM range; a key that is not installed poisons the response and is
logged. An access outside the range, and a read of a poisoned byte, get an error response and are logged (19 R401); the
code of the first is PERMISSION (DESIGN CHOICE, log 57). -/
def execHostCxlMemAccess (write : Bool) (pa len : Nat) (data : List Byte) (s : State) : Answer :=
  .next (s.ready (
    let n := if write then data.length else len
    let r := s.mgmt.exposed
    let key := bitsOf s.mgmt.hdm.toNat 43 32
    let answer := fun (x : State) (b : Option (List Byte)) => { x with mgmt := { x.mgmt with hostRead := b } }
    let refuse := fun (c : FaultCode) => answer (s.logDevice c.num 1 0 0 (BitVec.ofNat 64 pa)) none
    if pa < r.1 ∨ r.1 + r.2 < pa + n ∨ 2 ^ 39 < pa + n then refuse .permission
    else if key ≠ 0 ∧ !s.mgmt.keys.contains key then refuse .keyInvalid
    else if write then s.physWrite (BitVec.ofNat 12 key) pa data
    else if (s.poisonIn pa n).isSome then refuse .poison
    else
      let lines := (linesOf pa n).filter fun l => !s.ms.hostLines.contains l
      answer { s with ms := { s.ms with hostLines := s.ms.hostLines ++ lines } } (some (s.physRead (BitVec.ofNat 12 key) pa n))))

end Sys2Proof.Machine
end

