-- ==== Sys2Proof/Machine/Scalar.lean ====
section
/-!
DEFINITION. Scalar arithmetic, logic, moves, compares and condition operations (08 R171-R175).
-/

namespace Sys2Proof.Machine

/-- SADD: A + B (08 R171, Table 8-1). -/
def execSadd (o : A3) (s : State) : Res := .next (s.sAlu o true fun a b => a + b)

/-- SSUB: A - B (08 R171, Table 8-1). -/
def execSsub (o : A3) (s : State) : Res := .next (s.sAlu o true fun a b => a - b)

/-- SMUL: the low half of A × B (08 R171, Table 8-1). -/
def execSmul (o : A3) (s : State) : Res := .next (s.sAlu o true fun a b => a * b)

/-- SMULH: the high half of the signed product (08 R171, Table 8-1). -/
def execSmulh (o : A3) (s : State) : Res := .next (s.sAlu o true fun a b => mulHigh true a b)

/-- SMULHN: the high half of the unsigned product (08 R171, Table 8-1). -/
def execSmulhn (o : A3) (s : State) : Res := .next (s.sAlu o false fun a b => mulHigh false a b)

/-- SDIV: the signed quotient of Table 7-2 (08 R171, Table 8-1). -/
def execSdiv (o : A3) (s : State) : Res := .next (s.sAlu o true fun a b => sdivOf a b)

/-- SDIVN: the unsigned quotient of Table 7-2 (08 R171, Table 8-1). -/
def execSdivn (o : A3) (s : State) : Res := .next (s.sAlu o false fun a b => udivOf a b)

/-- SREM: the signed remainder of Table 7-2 (08 R171, Table 8-1). -/
def execSrem (o : A3) (s : State) : Res := .next (s.sAlu o true fun a b => sremOf a b)

/-- SREMN: the unsigned remainder of Table 7-2 (08 R171, Table 8-1). -/
def execSremn (o : A3) (s : State) : Res := .next (s.sAlu o false fun a b => uremOf a b)

/-- SAND (08 R171, Table 8-1). -/
def execSand (o : A3) (s : State) : Res := .next (s.sAlu o true fun a b => a &&& b)

/-- SOR (08 R171, Table 8-1). -/
def execSor (o : A3) (s : State) : Res := .next (s.sAlu o true fun a b => a ||| b)

/-- SXOR (08 R171, Table 8-1). -/
def execSxor (o : A3) (s : State) : Res := .next (s.sAlu o true fun a b => a ^^^ b)

/-- SANDN: A AND NOT B (08 R171, Table 8-1). -/
def execSandn (o : A3) (s : State) : Res := .next (s.sAlu o true fun a b => a &&& ~~~b)

/-- SSHL: A shifted left by B[5:0] (08 R171, Table 8-1). -/
def execSshl (o : A3) (s : State) : Res := .next (s.sAlu o false fun a b => a <<< (b.toNat % 64))

/-- SSHR: A shifted right, zeros entering (08 R171, Table 8-1). -/
def execSshr (o : A3) (s : State) : Res := .next (s.sAlu o false fun a b => a >>> (b.toNat % 64))

/-- SSRA: A shifted right, copies of bit 63 entering (08 R171, Table 8-1). -/
def execSsra (o : A3) (s : State) : Res := .next (s.sAlu o false fun a b => a.sshiftRight (b.toNat % 64))

/-- SMIN: signed minimum (08 R171, Table 8-1). -/
def execSmin (o : A3) (s : State) : Res := .next (s.sAlu o true fun a b => minOf true a b)

/-- SMAX: signed maximum (08 R171, Table 8-1). -/
def execSmax (o : A3) (s : State) : Res := .next (s.sAlu o true fun a b => maxOf true a b)

/-- SMINN: unsigned minimum (08 R171, Table 8-1). -/
def execSminn (o : A3) (s : State) : Res := .next (s.sAlu o false fun a b => minOf false a b)

/-- SMAXN: unsigned maximum (08 R171, Table 8-1). -/
def execSmaxn (o : A3) (s : State) : Res := .next (s.sAlu o false fun a b => maxOf false a b)

/-- SABS: |A| modulo 2^64 (08 R171, Table 8-1). -/
def execSabs (o : A3) (s : State) : Res := .next (s.sAlu o false fun a _ => absOf a)

/-- SPOPC: the number of 1 bits (08 R171, Table 8-1). -/
def execSpopc (o : A3) (s : State) : Res := .next (s.sAlu o false fun a _ => BitVec.ofNat 64 (popOf a))

/-- SCLZ: leading zeros, 64 when A = 0 (08 R171, Table 8-1). -/
def execSclz (o : A3) (s : State) : Res := .next (s.sAlu o false fun a _ => BitVec.ofNat 64 (clzOf a))

/-- SCTZ: trailing zeros, 64 when A = 0 (08 R171, Table 8-1). -/
def execSctz (o : A3) (s : State) : Res := .next (s.sAlu o false fun a _ => BitVec.ofNat 64 (ctzOf a))

/-- SMOV: A (08 R171, Table 8-1). -/
def execSmov (o : A3) (s : State) : Res := .next (s.sAlu o false fun a _ => a)

/-- The field position of SBFX and SBFI (08 R172). -/
def sFieldPos (r : Regs) : SrcB → Nat
  | .reg x => (r.sget x.toNat).toNat % 64
  | b => b.code

/-- The field length of SBFX and SBFI, cut at bit 63 (08 R172). -/
def sFieldLen (r : Regs) (b : SrcB) : Nat :=
  min (match b with
    | .reg x => (r.sget x.toNat).toNat / 64 % 64 + 1
    | _ => 1) (64 - sFieldPos r b)

/-- SBFX: field extract, zero-extended (08 R172). -/
def execSbfx (o : A3) (s : State) : Res :=
  .next (s.sOp o.g (s.putS o.d (bfxOf (s.sA o) (sFieldPos s.rd o.b) (sFieldLen s.rd o.b))).fin)

/-- SBFI: field insert into s[D] (08 R172). -/
def execSbfi (o : A3) (s : State) : Res :=
  .next (s.sOp o.g (s.putS o.d (bfiOf (s.rd.sget o.d.toNat) (s.sA o) (sFieldPos s.rd o.b) (sFieldLen s.rd o.b))).fin)

/-- SSEL: A where c[G] = 1, else B; G selects and does not guard (08 R173). -/
def execSsel (o : A3) (s : State) : Res :=
  .next (s.putS o.d (if s.sGuard o.g then s.sA o else sB s.rd true o.b)).fin

/-- SCMPEQ: A = B (08 R174). -/
def execScmpeq (o : A3) (s : State) : Res := .next (s.sCmp o true (Rel.eq.of true))

/-- SCMPNE: A ≠ B (08 R174). -/
def execScmpne (o : A3) (s : State) : Res := .next (s.sCmp o true (Rel.ne.of true))

/-- SCMPLT: A < B, signed (08 R174). -/
def execScmplt (o : A3) (s : State) : Res := .next (s.sCmp o true (Rel.lt.of true))

/-- SCMPLE: A ≤ B, signed (08 R174). -/
def execScmple (o : A3) (s : State) : Res := .next (s.sCmp o true (Rel.le.of true))

/-- SCMPLTN: A < B, unsigned (08 R174). -/
def execScmpltn (o : A3) (s : State) : Res := .next (s.sCmp o false (Rel.lt.of false))

/-- SCMPLEN: A ≤ B, unsigned (08 R174). -/
def execScmplen (o : A3) (s : State) : Res := .next (s.sCmp o false (Rel.le.of false))

/-- CAND (08 R174). -/
def execCand (o : A3) (s : State) : Res :=
  .next (s.sOp o.g (s.putC o.d (s.rd.cget o.a.toNat && cB s.rd o.b)).fin)

/-- COR (08 R174). -/
def execCor (o : A3) (s : State) : Res :=
  .next (s.sOp o.g (s.putC o.d (s.rd.cget o.a.toNat || cB s.rd o.b)).fin)

/-- CXOR (08 R174). -/
def execCxor (o : A3) (s : State) : Res :=
  .next (s.sOp o.g (s.putC o.d (s.rd.cget o.a.toNat != cB s.rd o.b)).fin)

/-- CNOT (08 R174). -/
def execCnot (o : A3) (s : State) : Res := .next (s.sOp o.g (s.putC o.d (!s.rd.cget o.a.toNat)).fin)

/-- SMOVI: IMM16 sign-extended (08 R175). -/
def execSmovi (o : C16) (s : State) : Res := .next (s.putS (o.d.zeroExtend 8) (o.imm.signExtend 64)).fin

/-- SMOVH: s[D] shifted left by 16, then IMM16 (08 R175). -/
def execSmovh (o : C16) (s : State) : Res :=
  .next (s.putS (o.d.zeroExtend 8) ((s.rd.sget o.d.toNat <<< 16) ||| o.imm.zeroExtend 64)).fin

end Sys2Proof.Machine
end

