-- ==== Sys2Proof/Machine/Vector.lean ====
section
/-!
DEFINITION. Vector integer operations, moves, indirect access and predicates (09 R200-R203, R213-R215).
-/

namespace Sys2Proof.Machine

/-- VADD.i32 (09 R200). -/
def execVaddI32 (o : A3) (s : State) : Res := .next (s.v2 o true fun a b => a + b)

/-- VADD.i64 (09 R200). -/
def execVaddI64 (o : A3) (s : State) : Res := .next (s.w2 o true fun a b => a + b)

/-- VSUB.i32 (09 R200). -/
def execVsubI32 (o : A3) (s : State) : Res := .next (s.v2 o true fun a b => a - b)

/-- VSUB.i64 (09 R200). -/
def execVsubI64 (o : A3) (s : State) : Res := .next (s.w2 o true fun a b => a - b)

/-- VADDS.s32: clamped sum (09 R200). -/
def execVaddsS32 (o : A3) (s : State) : Res := .next (s.v2 o true fun a b => clampTo 32 true (a.toInt + b.toInt))

/-- VADDS.n32 (09 R200). -/
def execVaddsN32 (o : A3) (s : State) : Res := .next (s.v2 o false fun a b => clampTo 32 false (a.toNat + b.toNat))

/-- VSUBS.s32: clamped difference (09 R200). -/
def execVsubsS32 (o : A3) (s : State) : Res := .next (s.v2 o true fun a b => clampTo 32 true (a.toInt - b.toInt))

/-- VSUBS.n32: 0 when B > A (09 R200). -/
def execVsubsN32 (o : A3) (s : State) : Res := .next (s.v2 o false fun a b => clampTo 32 false ((a.toNat : Int) - b.toNat))

/-- VMUL.i32 (09 R200). -/
def execVmulI32 (o : A3) (s : State) : Res := .next (s.v2 o true fun a b => a * b)

/-- VMUL.i64 (09 R200). -/
def execVmulI64 (o : A3) (s : State) : Res := .next (s.w2 o true fun a b => a * b)

/-- VMULH.s32 (09 R200). -/
def execVmulhS32 (o : A3) (s : State) : Res := .next (s.v2 o true fun a b => mulHigh true a b)

/-- VMULH.n32 (09 R200). -/
def execVmulhN32 (o : A3) (s : State) : Res := .next (s.v2 o false fun a b => mulHigh false a b)

/-- VMAD.i32: A × B + v[D] (09 R200). -/
def execVmadI32 (o : A3) (s : State) : Res := .next (s.v3 o true fun a b d => a * b + d)

/-- VMIN.s32 (09 R200). -/
def execVminS32 (o : A3) (s : State) : Res := .next (s.v2 o true fun a b => minOf true a b)

/-- VMIN.n32 (09 R200). -/
def execVminN32 (o : A3) (s : State) : Res := .next (s.v2 o false fun a b => minOf false a b)

/-- VMIN.s64 (09 R200). -/
def execVminS64 (o : A3) (s : State) : Res := .next (s.w2 o true fun a b => minOf true a b)

/-- VMIN.n64 (09 R200). -/
def execVminN64 (o : A3) (s : State) : Res := .next (s.w2 o false fun a b => minOf false a b)

/-- VMAX.s32 (09 R200). -/
def execVmaxS32 (o : A3) (s : State) : Res := .next (s.v2 o true fun a b => maxOf true a b)

/-- VMAX.n32 (09 R200). -/
def execVmaxN32 (o : A3) (s : State) : Res := .next (s.v2 o false fun a b => maxOf false a b)

/-- VMAX.s64 (09 R200). -/
def execVmaxS64 (o : A3) (s : State) : Res := .next (s.w2 o true fun a b => maxOf true a b)

/-- VMAX.n64 (09 R200). -/
def execVmaxN64 (o : A3) (s : State) : Res := .next (s.w2 o false fun a b => maxOf false a b)

/-- VABS.s32 (09 R200). -/
def execVabsS32 (o : A3) (s : State) : Res := .next (s.v1 o absOf)

/-- VABS.s64 (09 R200). -/
def execVabsS64 (o : A3) (s : State) : Res := .next (s.w1 o absOf)

/-- VAND (09 R200). -/
def execVandB32 (o : A3) (s : State) : Res := .next (s.v2 o true fun a b => a &&& b)

/-- VOR (09 R200). -/
def execVorB32 (o : A3) (s : State) : Res := .next (s.v2 o true fun a b => a ||| b)

/-- VXOR (09 R200). -/
def execVxorB32 (o : A3) (s : State) : Res := .next (s.v2 o true fun a b => a ^^^ b)

/-- VANDN (09 R200). -/
def execVandnB32 (o : A3) (s : State) : Res := .next (s.v2 o true fun a b => a &&& ~~~b)

/-- VSHL.b32 (09 R200). -/
def execVshlB32 (o : A3) (s : State) : Res := .next (s.v2 o false fun a b => a <<< (b.toNat % 32))

/-- VSHL.b64: the count is one 32-bit operand (09 R200). -/
def execVshlB64 (o : A3) (s : State) : Res := .next (s.wShift o fun a k => a <<< k)

/-- VSHR.b32 (09 R200). -/
def execVshrB32 (o : A3) (s : State) : Res := .next (s.v2 o false fun a b => a >>> (b.toNat % 32))

/-- VSHR.b64: the count is one 32-bit operand (09 R200). -/
def execVshrB64 (o : A3) (s : State) : Res := .next (s.wShift o fun a k => a >>> k)

/-- VSRA.s32 (09 R200). -/
def execVsraS32 (o : A3) (s : State) : Res := .next (s.v2 o false fun a b => a.sshiftRight (b.toNat % 32))

/-- VSRA.s64: the count is one 32-bit operand (09 R200). -/
def execVsraS64 (o : A3) (s : State) : Res := .next (s.wShift o fun a k => a.sshiftRight k)

/-- VPOPC (09 R200). -/
def execVpopcB32 (o : A3) (s : State) : Res := .next (s.v1 o fun a => BitVec.ofNat 32 (popOf a))

/-- VCLZ (09 R200). -/
def execVclzB32 (o : A3) (s : State) : Res := .next (s.v1 o fun a => BitVec.ofNat 32 (clzOf a))

/-- The field position of VBFX and VBFI: I6 or B[4:0]; a literal is a value of B as K = 1 reads it (09 R201). -/
def vFieldPos (b : SrcB) (x : Lane) : Nat :=
  match b with
  | .reg _ => x.toNat % 32
  | _ => x.toNat

/-- The field length of VBFX and VBFI, cut at bit 31 (09 R201). -/
def vFieldLen (b : SrcB) (x : Lane) : Nat :=
  min (match b with
    | .reg _ => x.toNat / 32 % 32 + 1
    | _ => 1) (32 - vFieldPos b x)

/-- VBFX.s32: field extract, sign-extended (09 R201). -/
def execVbfxS32 (o : A3) (s : State) : Res :=
  .next (s.v2 o false fun a x =>
    let p := vFieldPos o.b x
    let n := vFieldLen o.b x
    if 32 ≤ p then 0
    else
      let f := bfxOf a p n
      if f.getLsbD (n - 1) then f - BitVec.ofNat 32 (2 ^ n) else f)

/-- VBFX.n32: field extract, zero-extended (09 R201). -/
def execVbfxN32 (o : A3) (s : State) : Res :=
  .next (s.v2 o false fun a x => if 32 ≤ vFieldPos o.b x then 0 else bfxOf a (vFieldPos o.b x) (vFieldLen o.b x))

/-- VBFI: field insert into v[D] (09 R201). -/
def execVbfiB32 (o : A3) (s : State) : Res :=
  .next (s.v3 o false fun a x d =>
    if 32 ≤ vFieldPos o.b x then d else bfiOf d a (vFieldPos o.b x) (vFieldLen o.b x))

/-- VCMPEQ.i32 (09 R202). -/
def execVcmpeqI32 (o : A3) (s : State) : Res := .next (s.p2 o true (Rel.eq.of true))

/-- VCMPEQ.i64 (09 R202). -/
def execVcmpeqI64 (o : A3) (s : State) : Res := .next (s.p2w o true (Rel.eq.of true))

/-- VCMPNE.i32 (09 R202). -/
def execVcmpneI32 (o : A3) (s : State) : Res := .next (s.p2 o true (Rel.ne.of true))

/-- VCMPNE.i64 (09 R202). -/
def execVcmpneI64 (o : A3) (s : State) : Res := .next (s.p2w o true (Rel.ne.of true))

/-- VCMPLT.s32 (09 R202). -/
def execVcmpltS32 (o : A3) (s : State) : Res := .next (s.p2 o true (Rel.lt.of true))

/-- VCMPLT.n32 (09 R202). -/
def execVcmpltN32 (o : A3) (s : State) : Res := .next (s.p2 o false (Rel.lt.of false))

/-- VCMPLT.s64 (09 R202). -/
def execVcmpltS64 (o : A3) (s : State) : Res := .next (s.p2w o true (Rel.lt.of true))

/-- VCMPLT.n64 (09 R202). -/
def execVcmpltN64 (o : A3) (s : State) : Res := .next (s.p2w o false (Rel.lt.of false))

/-- VCMPLE.s32 (09 R202). -/
def execVcmpleS32 (o : A3) (s : State) : Res := .next (s.p2 o true (Rel.le.of true))

/-- VCMPLE.n32 (09 R202). -/
def execVcmpleN32 (o : A3) (s : State) : Res := .next (s.p2 o false (Rel.le.of false))

/-- VCMPLE.s64 (09 R202). -/
def execVcmpleS64 (o : A3) (s : State) : Res := .next (s.p2w o true (Rel.le.of true))

/-- VCMPLE.n64 (09 R202). -/
def execVcmpleN64 (o : A3) (s : State) : Res := .next (s.p2w o false (Rel.le.of false))

/-- The effective mask of VSEL: the top mask alone (09 R203). -/
def State.selMask (s : State) : LaneMask := s.topMask

/-- VSEL.b32: p[G] selects A or B (09 R203). -/
def execVselB32 (o : A3) (s : State) : Res :=
  let p := s.rd.pget o.g.toNat
  .next (s.vOp s.selMask (o.a :: bRegs o.b) [o.d]
    (s.putV o.d s.selMask fun l => if p.getLsbD l then s.vsrc o.a l else s.bLane true o.b l))

/-- VSEL.b64 (09 R203). -/
def execVselB64 (o : A3) (s : State) : Res :=
  let p := s.rd.pget o.g.toNat
  .next (s.vOp s.selMask [] []
    (s.putV64 o.d s.selMask fun l => if p.getLsbD l then s.vsrc64 o.a l else s.bLane64 true o.b l))

/-! ### Moves -/

/-- VMOV.b32 (09 R213). -/
def execVmovB32 (o : A3) (s : State) : Res :=
  let m := s.effMask o.g
  .next (s.vOp m (bRegs o.b) [o.d] (s.putV o.d m fun l => s.bLane true o.b l))

/-- VMOV.b64 (09 R213). -/
def execVmovB64 (o : A3) (s : State) : Res :=
  let m := s.effMask o.g
  .next (s.vOp m [] [] (s.putV64 o.d m fun l => s.bLane64 true o.b l))

/-- VMOVS.b32: s[A] in every active lane (09 R213). -/
def execVmovsB32 (o : A3) (s : State) : Res :=
  let m := s.effMask o.g
  .next (s.vOp m [] [] (s.putV o.d m fun _ => (s.sA o).extractLsb' 0 32))

/-- VMOVS.b64 (09 R213). -/
def execVmovsB64 (o : A3) (s : State) : Res :=
  let m := s.effMask o.g
  .next (s.vOp m [] [] (s.putV64 o.d m fun _ => s.sA o))

/-- VLANE: the lane index (09 R213). -/
def execVlane (o : A3) (s : State) : Res :=
  let m := s.effMask o.g
  .next (s.vOp m [] [] (s.putV o.d m fun l => BitVec.ofNat 32 l))

/-- The register VLDIX and VSTIX reach (09 R214). -/
def State.indexed (s : State) (o : A3) : Nat := (s.sA o + sB s.rd false o.b).toNat

/-- VLDIX: read the indexed register (09 R214). -/
def execVldix (o : A3) (s : State) : Res :=
  let m := s.effMask o.g
  .next (s.vOp m [] [] (
    if s.me.vregs ≤ s.indexed o then s.faultB .operandInvalid m
    else s.putV o.d m fun l => s.rd.vget (s.indexed o) l))

/-- VSTIX: write the indexed register (09 R214). -/
def execVstix (o : A3) (s : State) : Res :=
  let m := s.effMask o.g
  .next (s.vOp m [] [] (
    if s.me.vregs ≤ s.indexed o then s.faultB .operandInvalid m
    else s.putReg (s.indexed o) m fun l => s.rd.vget o.d.toNat l))

/-! ### Predicates (09 R215) -/

/-- p[D] from p[A] and p[B], lane by lane. -/
def State.pOp (s : State) (o : A3) (f : Bool → Bool → Bool) : State :=
  let m := s.effMask o.g
  let b := match o.b with
    | .reg x => s.rd.pget x.toNat
    | _ => 0
  s.vOp m [] [] (s.putP o.d m fun l => f ((s.rd.pget o.a.toNat).getLsbD l) (b.getLsbD l))

/-- PAND (09 R215). -/
def execPand (o : A3) (s : State) : Res := .next (s.pOp o fun x y => x && y)

/-- POR (09 R215). -/
def execPor (o : A3) (s : State) : Res := .next (s.pOp o fun x y => x || y)

/-- PXOR (09 R215). -/
def execPxor (o : A3) (s : State) : Res := .next (s.pOp o fun x y => x != y)

/-- PANDN (09 R215). -/
def execPandn (o : A3) (s : State) : Res := .next (s.pOp o fun x y => x && !y)

/-- PMOVV: whether v[A] is not 0 (09 R215). -/
def execPmovv (o : A3) (s : State) : Res :=
  let m := s.effMask o.g
  .next (s.vOp m [] [] (s.putP o.d m fun l => s.rd.vget o.a.toNat l != 0))

/-- VMOVP: a predicate bit as 0 or 1 (09 R215). -/
def execVmovp (o : A3) (s : State) : Res :=
  let m := s.effMask o.g
  .next (s.vOp m [] [] (s.putV o.d m fun l => if (s.rd.pget o.a.toNat).getLsbD l then 1 else 0))

end Sys2Proof.Machine
end

