-- ==== Sys2Proof/Machine/Dispatch.lean ====
section
/-!
DEFINITION. Dispatch: one arm for each constructor of Instr, each a direct call of that operation's meaning.
-/

namespace Sys2Proof.Machine

/-- The meaning of every step of the machine. -/
def exec (i : Instr) (s : State) : Host.Outcome State Fault Refusal :=
  match i with
  | .deviceReset sideband => Sys2Proof.Machine.execDeviceReset sideband s
  | .bringupPhaseComplete images => Sys2Proof.Machine.execBringupPhaseComplete images s
  | .attestationRequest nonce => Sys2Proof.Machine.execAttestationRequest nonce s
  | .keyBlobInstall keyId unwraps => Sys2Proof.Machine.execKeyBlobInstall keyId unwraps s
  | .cxlLinkTraining width rate => Sys2Proof.Machine.execCxlLinkTraining width rate s
  | .hostCacheWriteSnoop hpa data => Sys2Proof.Machine.execHostCacheWriteSnoop hpa data s
  | .hostCxlMemAccess write pa len data => Sys2Proof.Machine.execHostCxlMemAccess write pa len data s
  | .registerWrite r acc v => Sys2Proof.Machine.execRegisterWrite r acc v s
  | .lqcfgEnable q viaBar0 v => Sys2Proof.Machine.execLqcfgEnable q viaBar0 v s
  | .lqcfgDisable q => Sys2Proof.Machine.execLqcfgDisable q s
  | .lqtailWrite q v => Sys2Proof.Machine.execLqtailWrite q v s
  | .lqEntryRead q => Sys2Proof.Machine.execLqEntryRead q s
  | .launchDescriptorCheck q => Sys2Proof.Machine.execLaunchDescriptorCheck q s
  | .argCopy q => Sys2Proof.Machine.execArgCopy q s
  | .gangPlacement => Sys2Proof.Machine.execGangPlacement s
  | .victimTileSave gang => Sys2Proof.Machine.execVictimTileSave gang s
  | .teamSwitchIn core => Sys2Proof.Machine.execTeamSwitchIn core s
  | .blockParkTimeout team => Sys2Proof.Machine.execBlockParkTimeout team s
  | .teamWake team => Sys2Proof.Machine.execTeamWake team s
  | .bundleFetch core => Sys2Proof.Machine.execBundleFetch core s
  | .coreClockGate core => Sys2Proof.Machine.execCoreClockGate core s
  | .coreWake core => Sys2Proof.Machine.execCoreWake core s
  | .overlayFill core fill => Sys2Proof.Machine.execOverlayFill core fill s
  | .faultReport team => Sys2Proof.Machine.execFaultReport team s
  | .gangFenceCheckpoint team => Sys2Proof.Machine.execGangFenceCheckpoint team s
  | .debugStop team => Sys2Proof.Machine.execDebugStop team s
  | .dbgresResume p v => Sys2Proof.Machine.execDbgresResume p v s
  | .dbgresStep p v => Sys2Proof.Machine.execDbgresStep p v s
  | .teamSlotFree team => Sys2Proof.Machine.execTeamSlotFree team s
  | .wqbindEnable p n v => Sys2Proof.Machine.execWqbindEnable p n v s
  | .wqbindDisable p n v => Sys2Proof.Machine.execWqbindDisable p n v s
  | .wqCloseWriteback p n => Sys2Proof.Machine.execWqCloseWriteback p n s
  | .wqAgeExpiry p n => Sys2Proof.Machine.execWqAgeExpiry p n s
  | .tlslotHostWrite p n v => Sys2Proof.Machine.execTlslotHostWrite p n v s
  | .partctlShadowWrite p v => Sys2Proof.Machine.execPartctlShadowWrite p v s
  | .partctlHalt p => Sys2Proof.Machine.execPartctlHalt p s
  | .partitionHalted p => Sys2Proof.Machine.execPartitionHalted p s
  | .partctlSave p => Sys2Proof.Machine.execPartctlSave p s
  | .partitionSaved p => Sys2Proof.Machine.execPartitionSaved p s
  | .partctlRestore p => Sys2Proof.Machine.execPartctlRestore p s
  | .partitionRestored p => Sys2Proof.Machine.execPartitionRestored p s
  | .partctlResume p => Sys2Proof.Machine.execPartctlResume p s
  | .partctlStart p => Sys2Proof.Machine.execPartctlStart p s
  | .partctlStop p => Sys2Proof.Machine.execPartctlStop p s
  | .tlbiGo p v => Sys2Proof.Machine.execTlbiGo p v s
  | .tlbiComplete p => Sys2Proof.Machine.execTlbiComplete p s
  | .fxcfgWrite v => Sys2Proof.Machine.execFxcfgWrite v s
  | .ilimcfgWrite v => Sys2Proof.Machine.execIlimcfgWrite v s
  | .domcfgWrite v => Sys2Proof.Machine.execDomcfgWrite v s
  | .collrstWrite p v => Sys2Proof.Machine.execCollrstWrite p v s
  | .dbgholdHold => Sys2Proof.Machine.execDbgholdHold s
  | .dbgholdRelease => Sys2Proof.Machine.execDbgholdRelease s
  | .holdNoticeReceived device => Sys2Proof.Machine.execHoldNoticeReceived device s
  | .releaseNoticeReceived device => Sys2Proof.Machine.execReleaseNoticeReceived device s
  | .collectiveEnd gang num peers tree agree => Sys2Proof.Machine.execCollectiveEnd gang num peers tree agree s
  | .collectiveExpiry gang num => Sys2Proof.Machine.execCollectiveExpiry gang num s
  | .remoteAccessIncoming device req => Sys2Proof.Machine.execRemoteAccessIncoming device req s
  | .remoteResponse team resp => Sys2Proof.Machine.execRemoteResponse team resp s
  | .remoteTimeout team => Sys2Proof.Machine.execRemoteTimeout team s
  | .remoteStoreAck team resp => Sys2Proof.Machine.execRemoteStoreAck team resp s
  | .copyStart team => Sys2Proof.Machine.execCopyStart team s
  | .copyComplete team => Sys2Proof.Machine.execCopyComplete team s
  | .trellisArrayGrant cluster => Sys2Proof.Machine.execTrellisArrayGrant cluster s
  | .trellisPortGrant cluster => Sys2Proof.Machine.execTrellisPortGrant cluster s
  | .trellisCommandComplete gang num => Sys2Proof.Machine.execTrellisCommandComplete gang num s
  | .codebookFill cluster => Sys2Proof.Machine.execCodebookFill cluster s
  | .walkerEntry gang walker => Sys2Proof.Machine.execWalkerEntry gang walker s
  | .rayTraversal cluster slot => Sys2Proof.Machine.execRayTraversal cluster slot s
  | .splatJobStart die => Sys2Proof.Machine.execSplatJobStart die s
  | .splatJobEnd die => Sys2Proof.Machine.execSplatJobEnd die s
  | .l2LineEvict t => Sys2Proof.Machine.execL2LineEvict t s
  | .recipeStorePerform team => Sys2Proof.Machine.execRecipeStorePerform team s
  | .memoryUncorrectableError at_ unit => Sys2Proof.Machine.execMemoryUncorrectableError at_ unit s
  | .thermalSample temps mw mj => Sys2Proof.Machine.execThermalSample temps mw mj s
  | .headctlEnable h v linkTrains => Sys2Proof.Machine.execHeadctlEnable h v linkTrains s
  | .headctlDisable h v => Sys2Proof.Machine.execHeadctlDisable h v s
  | .headStopped h => Sys2Proof.Machine.execHeadStopped h s
  | .hpdChange h connected => Sys2Proof.Machine.execHpdChange h connected s
  | .lineTick h => Sys2Proof.Machine.execLineTick h s
  | .bandStart core => Sys2Proof.Machine.execBandStart core s
  | .matrixEngineServe => Sys2Proof.Machine.execMatrixEngineServe s
  | .poseMailboxWrite p h off size v => Sys2Proof.Machine.execPoseMailboxWrite p h off size v s
  | .poseMailboxCommit p h v => Sys2Proof.Machine.execPoseMailboxCommit p h v s
  | .trcctlEnable v => Sys2Proof.Machine.execTrcctlEnable v s
  | .trcctlDisable v => Sys2Proof.Machine.execTrcctlDisable v s
  | .traceLinkReady => Sys2Proof.Machine.execTraceLinkReady s
  | .traceLinkLost => Sys2Proof.Machine.execTraceLinkLost s
  | .nop x => Sys2Proof.Machine.execNop x s
  | .sadd o => Sys2Proof.Machine.execSadd o s
  | .ssub o => Sys2Proof.Machine.execSsub o s
  | .smul o => Sys2Proof.Machine.execSmul o s
  | .smulh o => Sys2Proof.Machine.execSmulh o s
  | .smulhn o => Sys2Proof.Machine.execSmulhn o s
  | .sdiv o => Sys2Proof.Machine.execSdiv o s
  | .sdivn o => Sys2Proof.Machine.execSdivn o s
  | .srem o => Sys2Proof.Machine.execSrem o s
  | .sremn o => Sys2Proof.Machine.execSremn o s
  | .sand o => Sys2Proof.Machine.execSand o s
  | .sor o => Sys2Proof.Machine.execSor o s
  | .sxor o => Sys2Proof.Machine.execSxor o s
  | .sandn o => Sys2Proof.Machine.execSandn o s
  | .sshl o => Sys2Proof.Machine.execSshl o s
  | .sshr o => Sys2Proof.Machine.execSshr o s
  | .ssra o => Sys2Proof.Machine.execSsra o s
  | .smin o => Sys2Proof.Machine.execSmin o s
  | .smax o => Sys2Proof.Machine.execSmax o s
  | .sminn o => Sys2Proof.Machine.execSminn o s
  | .smaxn o => Sys2Proof.Machine.execSmaxn o s
  | .sabs o => Sys2Proof.Machine.execSabs o s
  | .spopc o => Sys2Proof.Machine.execSpopc o s
  | .sclz o => Sys2Proof.Machine.execSclz o s
  | .sctz o => Sys2Proof.Machine.execSctz o s
  | .sbfx o => Sys2Proof.Machine.execSbfx o s
  | .sbfi o => Sys2Proof.Machine.execSbfi o s
  | .ssel o => Sys2Proof.Machine.execSsel o s
  | .scmpeq o => Sys2Proof.Machine.execScmpeq o s
  | .scmpne o => Sys2Proof.Machine.execScmpne o s
  | .scmplt o => Sys2Proof.Machine.execScmplt o s
  | .scmple o => Sys2Proof.Machine.execScmple o s
  | .scmpltn o => Sys2Proof.Machine.execScmpltn o s
  | .scmplen o => Sys2Proof.Machine.execScmplen o s
  | .cand o => Sys2Proof.Machine.execCand o s
  | .cor o => Sys2Proof.Machine.execCor o s
  | .cxor o => Sys2Proof.Machine.execCxor o s
  | .cnot o => Sys2Proof.Machine.execCnot o s
  | .smov o => Sys2Proof.Machine.execSmov o s
  | .smovi o => Sys2Proof.Machine.execSmovi o s
  | .smovh o => Sys2Proof.Machine.execSmovh o s
  | .br o => Sys2Proof.Machine.execBr o s
  | .brnot o => Sys2Proof.Machine.execBrnot o s
  | .call o => Sys2Proof.Machine.execCall o s
  | .ret o => Sys2Proof.Machine.execRet o s
  | .jidx o => Sys2Proof.Machine.execJidx o s
  | .vjidx o => Sys2Proof.Machine.execVjidx o s
  | .djoin o => Sys2Proof.Machine.execDjoin o s
  | .loopOp o => Sys2Proof.Machine.execLoopOp o s
  | .loopw o => Sys2Proof.Machine.execLoopw o s
  | .lbrk o => Sys2Proof.Machine.execLbrk o s
  | .mpush o => Sys2Proof.Machine.execMpush o s
  | .minv o => Sys2Proof.Machine.execMinv o s
  | .mpop o => Sys2Proof.Machine.execMpop o s
  | .mbez o => Sys2Proof.Machine.execMbez o s
  | .mread o => Sys2Proof.Machine.execMread o s
  | .tfork o => Sys2Proof.Machine.execTfork o s
  | .tjoin o => Sys2Proof.Machine.execTjoin o s
  | .endOp o => Sys2Proof.Machine.execEndOp o s
  | .wnext o => Sys2Proof.Machine.execWnext o s
  | .yield o => Sys2Proof.Machine.execYield o s
  | .trap o => Sys2Proof.Machine.execTrap o s
  | .tret o => Sys2Proof.Machine.execTret o s
  | .bkpt o => Sys2Proof.Machine.execBkpt o s
  | .ckpt o => Sys2Proof.Machine.execCkpt o s
  | .setf o => Sys2Proof.Machine.execSetf o s
  | .movc o => Sys2Proof.Machine.execMovc o s
  | .setc o => Sys2Proof.Machine.execSetc o s
  | .movtc o => Sys2Proof.Machine.execMovtc o s
  | .movbd o => Sys2Proof.Machine.execMovbd o s
  | .vaddI32 o => Sys2Proof.Machine.execVaddI32 o s
  | .vaddI64 o => Sys2Proof.Machine.execVaddI64 o s
  | .vsubI32 o => Sys2Proof.Machine.execVsubI32 o s
  | .vsubI64 o => Sys2Proof.Machine.execVsubI64 o s
  | .vaddsS32 o => Sys2Proof.Machine.execVaddsS32 o s
  | .vaddsN32 o => Sys2Proof.Machine.execVaddsN32 o s
  | .vsubsS32 o => Sys2Proof.Machine.execVsubsS32 o s
  | .vsubsN32 o => Sys2Proof.Machine.execVsubsN32 o s
  | .vmulI32 o => Sys2Proof.Machine.execVmulI32 o s
  | .vmulI64 o => Sys2Proof.Machine.execVmulI64 o s
  | .vmulhS32 o => Sys2Proof.Machine.execVmulhS32 o s
  | .vmulhN32 o => Sys2Proof.Machine.execVmulhN32 o s
  | .vmadI32 o => Sys2Proof.Machine.execVmadI32 o s
  | .vminS32 o => Sys2Proof.Machine.execVminS32 o s
  | .vminN32 o => Sys2Proof.Machine.execVminN32 o s
  | .vminS64 o => Sys2Proof.Machine.execVminS64 o s
  | .vminN64 o => Sys2Proof.Machine.execVminN64 o s
  | .vmaxS32 o => Sys2Proof.Machine.execVmaxS32 o s
  | .vmaxN32 o => Sys2Proof.Machine.execVmaxN32 o s
  | .vmaxS64 o => Sys2Proof.Machine.execVmaxS64 o s
  | .vmaxN64 o => Sys2Proof.Machine.execVmaxN64 o s
  | .vabsS32 o => Sys2Proof.Machine.execVabsS32 o s
  | .vabsS64 o => Sys2Proof.Machine.execVabsS64 o s
  | .vandB32 o => Sys2Proof.Machine.execVandB32 o s
  | .vorB32 o => Sys2Proof.Machine.execVorB32 o s
  | .vxorB32 o => Sys2Proof.Machine.execVxorB32 o s
  | .vandnB32 o => Sys2Proof.Machine.execVandnB32 o s
  | .vshlB32 o => Sys2Proof.Machine.execVshlB32 o s
  | .vshlB64 o => Sys2Proof.Machine.execVshlB64 o s
  | .vshrB32 o => Sys2Proof.Machine.execVshrB32 o s
  | .vshrB64 o => Sys2Proof.Machine.execVshrB64 o s
  | .vsraS32 o => Sys2Proof.Machine.execVsraS32 o s
  | .vsraS64 o => Sys2Proof.Machine.execVsraS64 o s
  | .vpopcB32 o => Sys2Proof.Machine.execVpopcB32 o s
  | .vclzB32 o => Sys2Proof.Machine.execVclzB32 o s
  | .vbfxS32 o => Sys2Proof.Machine.execVbfxS32 o s
  | .vbfxN32 o => Sys2Proof.Machine.execVbfxN32 o s
  | .vbfiB32 o => Sys2Proof.Machine.execVbfiB32 o s
  | .vcmpeqI32 o => Sys2Proof.Machine.execVcmpeqI32 o s
  | .vcmpeqI64 o => Sys2Proof.Machine.execVcmpeqI64 o s
  | .vcmpneI32 o => Sys2Proof.Machine.execVcmpneI32 o s
  | .vcmpneI64 o => Sys2Proof.Machine.execVcmpneI64 o s
  | .vcmpltS32 o => Sys2Proof.Machine.execVcmpltS32 o s
  | .vcmpltN32 o => Sys2Proof.Machine.execVcmpltN32 o s
  | .vcmpltS64 o => Sys2Proof.Machine.execVcmpltS64 o s
  | .vcmpltN64 o => Sys2Proof.Machine.execVcmpltN64 o s
  | .vcmpleS32 o => Sys2Proof.Machine.execVcmpleS32 o s
  | .vcmpleN32 o => Sys2Proof.Machine.execVcmpleN32 o s
  | .vcmpleS64 o => Sys2Proof.Machine.execVcmpleS64 o s
  | .vcmpleN64 o => Sys2Proof.Machine.execVcmpleN64 o s
  | .vselB32 o => Sys2Proof.Machine.execVselB32 o s
  | .vselB64 o => Sys2Proof.Machine.execVselB64 o s
  | .faddF32 o => Sys2Proof.Machine.execFaddF32 o s
  | .faddF64 o => Sys2Proof.Machine.execFaddF64 o s
  | .faddH2 o => Sys2Proof.Machine.execFaddH2 o s
  | .faddBh2 o => Sys2Proof.Machine.execFaddBh2 o s
  | .fsubF32 o => Sys2Proof.Machine.execFsubF32 o s
  | .fsubF64 o => Sys2Proof.Machine.execFsubF64 o s
  | .fsubH2 o => Sys2Proof.Machine.execFsubH2 o s
  | .fsubBh2 o => Sys2Proof.Machine.execFsubBh2 o s
  | .fmulF32 o => Sys2Proof.Machine.execFmulF32 o s
  | .fmulF64 o => Sys2Proof.Machine.execFmulF64 o s
  | .fmulH2 o => Sys2Proof.Machine.execFmulH2 o s
  | .fmulBh2 o => Sys2Proof.Machine.execFmulBh2 o s
  | .ffmaF32 o => Sys2Proof.Machine.execFfmaF32 o s
  | .ffmaF64 o => Sys2Proof.Machine.execFfmaF64 o s
  | .ffmaH2 o => Sys2Proof.Machine.execFfmaH2 o s
  | .ffmaBh2 o => Sys2Proof.Machine.execFfmaBh2 o s
  | .fminF32 o => Sys2Proof.Machine.execFminF32 o s
  | .fminF64 o => Sys2Proof.Machine.execFminF64 o s
  | .fminH2 o => Sys2Proof.Machine.execFminH2 o s
  | .fminBh2 o => Sys2Proof.Machine.execFminBh2 o s
  | .fmaxF32 o => Sys2Proof.Machine.execFmaxF32 o s
  | .fmaxF64 o => Sys2Proof.Machine.execFmaxF64 o s
  | .fmaxH2 o => Sys2Proof.Machine.execFmaxH2 o s
  | .fmaxBh2 o => Sys2Proof.Machine.execFmaxBh2 o s
  | .fcmpeqF32 o => Sys2Proof.Machine.execFcmpeqF32 o s
  | .fcmpeqF64 o => Sys2Proof.Machine.execFcmpeqF64 o s
  | .fcmpltF32 o => Sys2Proof.Machine.execFcmpltF32 o s
  | .fcmpltF64 o => Sys2Proof.Machine.execFcmpltF64 o s
  | .fcmpleF32 o => Sys2Proof.Machine.execFcmpleF32 o s
  | .fcmpleF64 o => Sys2Proof.Machine.execFcmpleF64 o s
  | .fcmpunF32 o => Sys2Proof.Machine.execFcmpunF32 o s
  | .fcmpunF64 o => Sys2Proof.Machine.execFcmpunF64 o s
  | .frndF32 o => Sys2Proof.Machine.execFrndF32 o s
  | .frndF64 o => Sys2Proof.Machine.execFrndF64 o s
  | .fclassF32 o => Sys2Proof.Machine.execFclassF32 o s
  | .fclassF64 o => Sys2Proof.Machine.execFclassF64 o s
  | .fdot4B8x4 o => Sys2Proof.Machine.execFdot4B8x4 o s
  | .fdot2H2 o => Sys2Proof.Machine.execFdot2H2 o s
  | .fdot2Bh2 o => Sys2Proof.Machine.execFdot2Bh2 o s
  | .frcpF32 o => Sys2Proof.Machine.execFrcpF32 o s
  | .frcpF64 o => Sys2Proof.Machine.execFrcpF64 o s
  | .frsqF32 o => Sys2Proof.Machine.execFrsqF32 o s
  | .frsqF64 o => Sys2Proof.Machine.execFrsqF64 o s
  | .fsqrtF32 o => Sys2Proof.Machine.execFsqrtF32 o s
  | .fsqrtF64 o => Sys2Proof.Machine.execFsqrtF64 o s
  | .fdivF32 o => Sys2Proof.Machine.execFdivF32 o s
  | .fdivF64 o => Sys2Proof.Machine.execFdivF64 o s
  | .fexp2F32 o => Sys2Proof.Machine.execFexp2F32 o s
  | .flog2F32 o => Sys2Proof.Machine.execFlog2F32 o s
  | .fsinpF32 o => Sys2Proof.Machine.execFsinpF32 o s
  | .fcospF32 o => Sys2Proof.Machine.execFcospF32 o s
  | .cvtS32 o => Sys2Proof.Machine.execCvtS32 o s
  | .cvtN32 o => Sys2Proof.Machine.execCvtN32 o s
  | .cvtS64 o => Sys2Proof.Machine.execCvtS64 o s
  | .cvtN64 o => Sys2Proof.Machine.execCvtN64 o s
  | .cvtF64 o => Sys2Proof.Machine.execCvtF64 o s
  | .cvtF32 o => Sys2Proof.Machine.execCvtF32 o s
  | .cvtF16 o => Sys2Proof.Machine.execCvtF16 o s
  | .cvtBf16 o => Sys2Proof.Machine.execCvtBf16 o s
  | .cvtB8 o => Sys2Proof.Machine.execCvtB8 o s
  | .cvtsrB8 o => Sys2Proof.Machine.execCvtsrB8 o s
  | .cvtsrBf16 o => Sys2Proof.Machine.execCvtsrBf16 o s
  | .cvtsrF16 o => Sys2Proof.Machine.execCvtsrF16 o s
  | .vpackB8x4 o => Sys2Proof.Machine.execVpackB8x4 o s
  | .vpackH2 o => Sys2Proof.Machine.execVpackH2 o s
  | .vpackBh2 o => Sys2Proof.Machine.execVpackBh2 o s
  | .vunpkB8x4 o => Sys2Proof.Machine.execVunpkB8x4 o s
  | .vunpkH2 o => Sys2Proof.Machine.execVunpkH2 o s
  | .vunpkBh2 o => Sys2Proof.Machine.execVunpkBh2 o s
  | .vmovB32 o => Sys2Proof.Machine.execVmovB32 o s
  | .vmovB64 o => Sys2Proof.Machine.execVmovB64 o s
  | .vmovsB32 o => Sys2Proof.Machine.execVmovsB32 o s
  | .vmovsB64 o => Sys2Proof.Machine.execVmovsB64 o s
  | .vlane o => Sys2Proof.Machine.execVlane o s
  | .vldix o => Sys2Proof.Machine.execVldix o s
  | .vstix o => Sys2Proof.Machine.execVstix o s
  | .pand o => Sys2Proof.Machine.execPand o s
  | .por o => Sys2Proof.Machine.execPor o s
  | .pxor o => Sys2Proof.Machine.execPxor o s
  | .pandn o => Sys2Proof.Machine.execPandn o s
  | .pmovv o => Sys2Proof.Machine.execPmovv o s
  | .vmovp o => Sys2Proof.Machine.execVmovp o s
  | .xperm o => Sys2Proof.Machine.execXperm o s
  | .xbcast o => Sys2Proof.Machine.execXbcast o s
  | .xswz o => Sys2Proof.Machine.execXswz o s
  | .xany o => Sys2Proof.Machine.execXany o s
  | .xall o => Sys2Proof.Machine.execXall o s
  | .xballot o => Sys2Proof.Machine.execXballot o s
  | .xredI32 o => Sys2Proof.Machine.execXredI32 o s
  | .xredF32 o => Sys2Proof.Machine.execXredF32 o s
  | .xredminS32 o => Sys2Proof.Machine.execXredminS32 o s
  | .xredminN32 o => Sys2Proof.Machine.execXredminN32 o s
  | .xredminF32 o => Sys2Proof.Machine.execXredminF32 o s
  | .xredmaxS32 o => Sys2Proof.Machine.execXredmaxS32 o s
  | .xredmaxN32 o => Sys2Proof.Machine.execXredmaxN32 o s
  | .xredmaxF32 o => Sys2Proof.Machine.execXredmaxF32 o s
  | .xscanI32 o => Sys2Proof.Machine.execXscanI32 o s
  | .xscanF32 o => Sys2Proof.Machine.execXscanF32 o s
  | .treord o => Sys2Proof.Machine.execTreord o s
  | .rsvupd o => Sys2Proof.Machine.execRsvupd o s
  | .rsvmrg o => Sys2Proof.Machine.execRsvmrg o s
  | .ldB8 o => Sys2Proof.Machine.execLdB8 o s
  | .ldB16 o => Sys2Proof.Machine.execLdB16 o s
  | .ldB32 o => Sys2Proof.Machine.execLdB32 o s
  | .ldB64 o => Sys2Proof.Machine.execLdB64 o s
  | .ldB128 o => Sys2Proof.Machine.execLdB128 o s
  | .stB8 o => Sys2Proof.Machine.execStB8 o s
  | .stB16 o => Sys2Proof.Machine.execStB16 o s
  | .stB32 o => Sys2Proof.Machine.execStB32 o s
  | .stB64 o => Sys2Proof.Machine.execStB64 o s
  | .stB128 o => Sys2Proof.Machine.execStB128 o s
  | .ldvB32 o => Sys2Proof.Machine.execLdvB32 o s
  | .ldvB64 o => Sys2Proof.Machine.execLdvB64 o s
  | .ldvB128 o => Sys2Proof.Machine.execLdvB128 o s
  | .stvB32 o => Sys2Proof.Machine.execStvB32 o s
  | .stvB64 o => Sys2Proof.Machine.execStvB64 o s
  | .stvB128 o => Sys2Proof.Machine.execStvB128 o s
  | .ldgsB32 o => Sys2Proof.Machine.execLdgsB32 o s
  | .ldgsB64 o => Sys2Proof.Machine.execLdgsB64 o s
  | .ldgsB128 o => Sys2Proof.Machine.execLdgsB128 o s
  | .stgsB32 o => Sys2Proof.Machine.execStgsB32 o s
  | .stgsB64 o => Sys2Proof.Machine.execStgsB64 o s
  | .stgsB128 o => Sys2Proof.Machine.execStgsB128 o s
  | .sldB32 o => Sys2Proof.Machine.execSldB32 o s
  | .sldB64 o => Sys2Proof.Machine.execSldB64 o s
  | .sstB32 o => Sys2Proof.Machine.execSstB32 o s
  | .sstB64 o => Sys2Proof.Machine.execSstB64 o s
  | .ldaB32 o => Sys2Proof.Machine.execLdaB32 o s
  | .ldaB64 o => Sys2Proof.Machine.execLdaB64 o s
  | .stlB32 o => Sys2Proof.Machine.execStlB32 o s
  | .stlB64 o => Sys2Proof.Machine.execStlB64 o s
  | .ldroB32 o => Sys2Proof.Machine.execLdroB32 o s
  | .ldroB64 o => Sys2Proof.Machine.execLdroB64 o s
  | .ldroB128 o => Sys2Proof.Machine.execLdroB128 o s
  | .pref o => Sys2Proof.Machine.execPref o s
  | .qinit o => Sys2Proof.Machine.execQinit o s
  | .qcommit o => Sys2Proof.Machine.execQcommit o s
  | .qpop o => Sys2Proof.Machine.execQpop o s
  | .wbind o => Sys2Proof.Machine.execWbind o s
  | .wstart o => Sys2Proof.Machine.execWstart o s
  | .wstop o => Sys2Proof.Machine.execWstop o s
  | .cpy o => Sys2Proof.Machine.execCpy o s
  | .cpyy o => Sys2Proof.Machine.execCpyy o s
  | .lock o => Sys2Proof.Machine.execLock o s
  | .unlock o => Sys2Proof.Machine.execUnlock o s
  | .cflush o => Sys2Proof.Machine.execCflush o s
  | .cinvro o => Sys2Proof.Machine.execCinvro o s
  | .tld o => Sys2Proof.Machine.execTld o s
  | .tst o => Sys2Proof.Machine.execTst o s
  | .tzero o => Sys2Proof.Machine.execTzero o s
  | .tmma o => Sys2Proof.Machine.execTmma o s
  | .tmmaq o => Sys2Proof.Machine.execTmmaq o s
  | .tmmav o => Sys2Proof.Machine.execTmmav o s
  | .tchain o => Sys2Proof.Machine.execTchain o s
  | .tcvt o => Sys2Proof.Machine.execTcvt o s
  | .ttov o => Sys2Proof.Machine.execTtov o s
  | .vtot o => Sys2Proof.Machine.execVtot o s
  | .cbload o => Sys2Proof.Machine.execCbload o s
  | .seal o => Sys2Proof.Machine.execSeal o s
  | .rpin o => Sys2Proof.Machine.execRpin o s
  | .runpin o => Sys2Proof.Machine.execRunpin o s
  | .rdrop o => Sys2Proof.Machine.execRdrop o s
  | .rstat o => Sys2Proof.Machine.execRstat o s
  | .rdone o => Sys2Proof.Machine.execRdone o s
  | .atomaddI32 o => Sys2Proof.Machine.execAtomaddI32 o s
  | .atomaddI64 o => Sys2Proof.Machine.execAtomaddI64 o s
  | .atomaddF32 o => Sys2Proof.Machine.execAtomaddF32 o s
  | .atomminS32 o => Sys2Proof.Machine.execAtomminS32 o s
  | .atomminN32 o => Sys2Proof.Machine.execAtomminN32 o s
  | .atommaxS32 o => Sys2Proof.Machine.execAtommaxS32 o s
  | .atommaxN32 o => Sys2Proof.Machine.execAtommaxN32 o s
  | .atomandB32 o => Sys2Proof.Machine.execAtomandB32 o s
  | .atomorB32 o => Sys2Proof.Machine.execAtomorB32 o s
  | .atomxorB32 o => Sys2Proof.Machine.execAtomxorB32 o s
  | .atomxchgB32 o => Sys2Proof.Machine.execAtomxchgB32 o s
  | .atomxchgB64 o => Sys2Proof.Machine.execAtomxchgB64 o s
  | .atomcasB32 o => Sys2Proof.Machine.execAtomcasB32 o s
  | .atomcasB64 o => Sys2Proof.Machine.execAtomcasB64 o s
  | .fence o => Sys2Proof.Machine.execFence o s
  | .fencero o => Sys2Proof.Machine.execFencero o s
  | .tlsig o => Sys2Proof.Machine.execTlsig o s
  | .tlwait o => Sys2Proof.Machine.execTlwait o s
  | .tlread o => Sys2Proof.Machine.execTlread o s
  | .bararv o => Sys2Proof.Machine.execBararv o s
  | .barwt o => Sys2Proof.Machine.execBarwt o s
  | .bufacq o => Sys2Proof.Machine.execBufacq o s
  | .bufrel o => Sys2Proof.Machine.execBufrel o s
  | .wqpush o => Sys2Proof.Machine.execWqpush o s
  | .launch o => Sys2Proof.Machine.execLaunch o s
  | .rayq o => Sys2Proof.Machine.execRayq o s
  | .rayqd o => Sys2Proof.Machine.execRayqd o s
  | .raycand o => Sys2Proof.Machine.execRaycand o s
  | .rayacc o => Sys2Proof.Machine.execRayacc o s
  | .rayfin o => Sys2Proof.Machine.execRayfin o s
  | .splatq o => Sys2Proof.Machine.execSplatq o s
  | .splatrun o => Sys2Proof.Machine.execSplatrun o s
  | .sample o => Sys2Proof.Machine.execSample o s
  | .sampleg o => Sys2Proof.Machine.execSampleg o s
  | .samplel o => Sys2Proof.Machine.execSamplel o s
  | .coll o => Sys2Proof.Machine.execColl o s
  | .belvNop x => Sys2Proof.Machine.execBelvNop x s
  | .gadd o => Sys2Proof.Machine.execGadd o s
  | .gsub o => Sys2Proof.Machine.execGsub o s
  | .gmul o => Sys2Proof.Machine.execGmul o s
  | .gand o => Sys2Proof.Machine.execGand o s
  | .gor o => Sys2Proof.Machine.execGor o s
  | .gxor o => Sys2Proof.Machine.execGxor o s
  | .gshl o => Sys2Proof.Machine.execGshl o s
  | .gshr o => Sys2Proof.Machine.execGshr o s
  | .gcmplt o => Sys2Proof.Machine.execGcmplt o s
  | .gcmpeq o => Sys2Proof.Machine.execGcmpeq o s
  | .gmovi o => Sys2Proof.Machine.execGmovi o s
  | .belvBr o => Sys2Proof.Machine.execBelvBr o s
  | .brf o => Sys2Proof.Machine.execBrf o s
  | .belvLoop o => Sys2Proof.Machine.execBelvLoop o s
  | .waittk o => Sys2Proof.Machine.execWaittk o s
  | .pose o => Sys2Proof.Machine.execPose o s
  | .bend o => Sys2Proof.Machine.execBend o s
  | .padd o => Sys2Proof.Machine.execPadd o s
  | .psub o => Sys2Proof.Machine.execPsub o s
  | .pmul o => Sys2Proof.Machine.execPmul o s
  | .pfma o => Sys2Proof.Machine.execPfma o s
  | .pmin o => Sys2Proof.Machine.execPmin o s
  | .pmax o => Sys2Proof.Machine.execPmax o s
  | .pcmplt o => Sys2Proof.Machine.execPcmplt o s
  | .psel o => Sys2Proof.Machine.execPsel o s
  | .pcvt o => Sys2Proof.Machine.execPcvt o s
  | .plerp o => Sys2Proof.Machine.execPlerp o s
  | .prcp o => Sys2Proof.Machine.execPrcp o s
  | .prsq o => Sys2Proof.Machine.execPrsq o s
  | .plane o => Sys2Proof.Machine.execPlane o s
  | .pmovg o => Sys2Proof.Machine.execPmovg o s
  | .pxform o => Sys2Proof.Machine.execPxform o s
  | .lld o => Sys2Proof.Machine.execLld o s
  | .lst o => Sys2Proof.Machine.execLst o s
  | .xfetch o => Sys2Proof.Machine.execXfetch o s
  | .gather o => Sys2Proof.Machine.execGather o s
  | .warps o => Sys2Proof.Machine.execWarps o s
  | .mld o => Sys2Proof.Machine.execMld o s
  | .mst o => Sys2Proof.Machine.execMst o s
  | .mmul o => Sys2Proof.Machine.execMmul o s
  | .mconv o => Sys2Proof.Machine.execMconv o s
  | .emit o => Sys2Proof.Machine.execEmit o s
  | .fbwait o => Sys2Proof.Machine.execFbwait o s
  | .fallbk o => Sys2Proof.Machine.execFallbk o s
  | .powerLoss => Sys2Proof.Machine.execPowerLoss s

end Sys2Proof.Machine
end

