-- ==== Sys2Proof/Machine/Schedule.lean ====
section
/-!
DEFINITION. Who moves next. The agenda of the state names turns that the world outside and the spec's open choices of
order fix; with an empty agenda the machine's own steps, its teams and its line cores take turns (DESIGN CHOICE, log 17). The meaning of
an operation comes in as an argument, so that Dispatch.lean stands after this file.
-/

namespace Sys2Proof.Machine

/-- The meaning of operations, as the schedule calls it. -/
abbrev Meaning := Instr → State → Host.Outcome State Fault Refusal

/-! ### A line core's turn (23 R445, R448, R450) -/

/-- Run one slot word of the bundle of line core n. -/
noncomputable def State.lineSlot (ex : Meaning) (s : State) (n k : Nat) (w : BitVec 32) : Host.Outcome State Fault Refusal :=
  let s1 : State := { s with issue := ⟨0, k, n, [], .none, none⟩ }
  match decodeBelv k w with
  | .ok i => ex i s1
  | .error .opcodeInvalid => .next (s1.bfail .opcodeInvalid 0)
  | .error .slotClass => .next (s1.bfail .slotClass 0)
  | .error .operandInvalid => .next (s1.bfail .operandInvalid 0)

/-- After its three slots a bundle waits and has had no effect, fails and ends the band run, or is done. -/
def State.lineSettle (old s : State) (n : Nat) : State :=
  let c := s.lineCore n
  match c.failed with
  | some (k, f) => old.bandError n k f
  | none => if c.waiting then old else s.endLineBundle n

/-- A bundle of line core n: its slots read the registers as it found them. -/
noncomputable def State.lineBundle (ex : Meaning) (s : State) (n : Nat) : Host.Outcome State Fault Refusal :=
  let c := s.lineCore n
  match c.run with
  | none => .next s
  | some r =>
    if fieldAt (s.head r.head).desc 0x30 4 ≤ c.pc then .next (s.bandError n 0 ⟨.permission, 0⟩)
    else
      let w := tget 0 c.imem c.pc
      let s0 := s.modLineCore n fun x => { x with before := x.regs, flow := .seq, waiting := false, failed := none }
      andThen (s0.lineSlot ex n 0 (w.extractLsb' 0 32)) fun s1 =>
        andThen (s1.lineSlot ex n 1 (w.extractLsb' 32 32)) fun s2 =>
          andThen (s2.lineSlot ex n 2 (w.extractLsb' 64 32)) fun s3 => .next (s.lineSettle s3 n)

/-- The turn of line core n in one display cycle: the line ticks of its head whose boundary this cycle holds come first
(22 R440), then its next bundle runs. -/
noncomputable def State.lineTurn (ex : Meaning) (s : State) (n : Nat) : Host.Outcome State Fault Refusal :=
  match (s.lineCore n).run with
  | none => .next s
  | some r => (s.ticksHeld r.head).lineBundle ex n

/-! ### The machine's own steps -/

/-- The steps the machine may take by itself now, which need nothing from outside it. A step that does not apply leaves
the state as it is. -/
def State.ownSteps (s : State) : List Instr :=
  let teams := s.teams.map (·.1)
  let gangs := s.gangs.map (·.1)
  (s.queues.flatMap fun q => [.lqEntryRead q.1, .launchDescriptorCheck q.1, .argCopy q.1]) ++
    [.gangPlacement] ++
    (s.cores.flatMap fun c => [.coreWake c.1, .teamSwitchIn c.1, .coreClockGate c.1] ++
      (List.range c.2.fills.length).map fun k => .overlayFill c.1 k) ++
    (teams.flatMap fun u => [.faultReport u, .gangFenceCheckpoint u, .debugStop u, .blockParkTimeout u, .teamWake u,
      .recipeStorePerform u, .copyStart u, .copyComplete u, .remoteTimeout u, .teamSlotFree u]) ++
    ((List.range Config.numClusters).flatMap fun c => [.trellisArrayGrant c, .trellisPortGrant c, .codebookFill c]) ++
    (s.gangs.flatMap fun g => (g.2.trellis.map fun c => .trellisCommandComplete g.1 c.num.toNat) ++
      (g.2.walkers.map fun w => .walkerEntry g.1 w.1) ++ g.2.colls.map fun c => .collectiveExpiry g.1 c.num.toNat) ++
    (gangs.map fun g => .victimTileSave g) ++
    (s.rays.flatMap fun c => c.2.map fun r => .rayTraversal c.1 r.1) ++
    ((List.range 4).flatMap fun d => [.splatJobStart d, .splatJobEnd d]) ++
    (s.parts.flatMap fun p => [.partitionHalted p.1, .partitionSaved p.1, .partitionRestored p.1, .tlbiComplete p.1] ++
      p.2.wqs.flatMap fun w => [.wqAgeExpiry p.1 w.1, .wqCloseWriteback p.1 w.1]) ++
    (s.heads.flatMap fun h => [.lineTick h.1, .headStopped h.1]) ++ ((List.range 16).map fun n => .bandStart n) ++ [.matrixEngineServe]

/-- An operation changes the state. -/
def changes (ex : Meaning) (s : State) (i : Instr) : Bool :=
  match ex i s with
  | .next t => decide (t ≠ s)
  | _ => false

/-- A team whose turn it may be: the choice of the first core with a ready team, from the core of this cycle on. -/
def State.nextTeam (s : State) : Option Nat :=
  let k := s.cycle % Config.numCores
  (List.range Config.numCores).findSome? fun n => s.chooseTeam ((k + n) % Config.numCores)

/-- The turn that follows an empty agenda: a step of the machine's own that changes something, else a ready team, else a
line core with a band, in turn, each one cycle on; else a cycle passes. -/
def State.defaultTurn (ex : Meaning) (s : State) : Turn :=
  match s.ownSteps.find? (changes ex s) with
  | some i => ⟨1, .ev i⟩
  | none =>
    match s.nextTeam with
    | some u => ⟨1, .team u⟩
    | none =>
      match ((List.range 16).map fun n => (s.cycle + n) % 16).find? fun n => (s.lineCore n).run.isSome with
      | some n => ⟨1, .lineCore n⟩
      | none => ⟨1, .lineCore 16⟩

/-- The next turn, and the state with it taken off the agenda. -/
def State.nextTurn (ex : Meaning) (s : State) : Turn × State :=
  match s.agenda with
  | t :: r => (t, { s with agenda := r })
  | [] => (s.defaultTurn ex, s)

/-! ### Acting -/

/-- Carry out a step of the machine itself. An encoded operation is no such step: it runs in a bundle only. -/
def State.runEvent (ex : Meaning) (s : State) (i : Instr) : Host.Outcome State Fault Refusal :=
  match i.enc with
  | .step => ex i s
  | _ => .next s

/-- A turn's act. -/
noncomputable def State.act (ex : Meaning) (s : State) (a : Act) : Host.Outcome State Fault Refusal :=
  match a with
  | .ev i => s.runEvent ex i
  | .team u => s.teamTurn ex u
  | .teams l => s.coreTurn ex l
  | .part u n => s.partTurn ex u n
  | .lineCore n => s.lineTurn ex n
  | .now u => s.teamTurn ex u

/-- The team's turn that belongs to the step just taken. -/
noncomputable def State.actNow (ex : Meaning) (s : State) : Host.Outcome State Fault Refusal :=
  match s.agenda with
  | ⟨_, .now u⟩ :: r => State.teamTurn ex { s with agenda := r } u
  | _ => .next s

/-- The turn is a device reset, or a sample of the management controller, which stands on the auxiliary rail
(26 Table 26-1): it acts with the main rail off too. -/
def Turn.offRail (t : Turn) : Bool :=
  match t.act with
  | .ev (.deviceReset _) => true
  | .ev (.thermalSample _ _ _) => true
  | _ => false

/-- One step of the machine: the time of the next turn passes and its act is carried out. With the main rail off only a
device reset and the management controller act (26 R476, 02 R68). -/
noncomputable def State.turn (ex : Meaning) (s : State) : Host.Outcome State Fault Refusal :=
  let t := s.nextTurn ex
  if s.mgmt.railOn then andThen (State.act ex (t.2.elapse t.1.dt) t.1.act) fun x => x.actNow ex
  else if t.1.offRail then State.act ex t.2 t.1.act
  else .fault .railDown

/-! ### Placing one instruction for the next step -/

/-- A gang store, image and context pool of a partition whose single team runs one bundle at index 0. -/
def loneImage (w : BitVec 128) : Image :=
  { Image.absent with ovls := [⟨0, if bundleHasLiteral w then 2 else 1, false⟩], codeLen := if bundleHasLiteral w then 2 else 1 }

/-- The state with the bundle (and its literal word) as the next one of a lone team: partition 0 runs, gang g of it holds
core 0, and team u stands in slot 0 at index 0 of an image whose only overlay is resident. -/
def State.withBundle (s : State) (w lit : BitVec 128) : State :=
  let g := s.uids
  let u := s.uids + 1
  let img := loneImage w
  let gang : Gang := { Gang.absent with part := 0, gstore := 1, ntile := 32, image := img, order := g }
  let regs : Regs := { Regs.zero with masks := [⟨BitVec.ofNat 1024 (2 ^ 32 - 1), false, false, 0, 0⟩] }
  let team : Team := { Team.absent with
    gang := g, lanes := 32, vregs := 224, st := .runnable, skipLand := false, regs := regs
    ckpt := ⟨0, 0, 0, 1, .seq, regs, regs, ⟨none, none, none⟩, false⟩ }
  let words : Table (BitVec 128) := [(0, w), (1, lit)]
  let core : Core := { Core.reset with store := [⟨0, img.handle, img.gen, 0, 0, img.codeLen, words, 0, []⟩] }
  { s with
    uids := s.uids + 2
    parts := tset s.parts 0 { s.part 0 with st := .running }
    gangs := tset s.gangs g gang
    teams := tset s.teams u team
    cores := tset s.cores 0 core
    agenda := [⟨0, .team u⟩] }

/-- The state with the three slot words as the next bundle of line core 0, which runs band 0 of head 0. -/
def State.withLineBundle (s : State) (w : BitVec 96) : State :=
  let desc := setBytes (List.replicate 256 0) 0x30 [1]
  { s with
    heads := tset s.heads 0 { Head.reset with desc := desc, en := true, run := true }
    lineCores := tset s.lineCores 0 { LineCore.reset with
      imem := [(0, w)], run := some ⟨0, 0, 0, 0, 0, List.replicate 128 0⟩ }
    agenda := [⟨0, .lineCore 0⟩] }

/-- A word in one slot of a bundle, NOPs in the others. -/
def inSlot (k : Nat) (w : BitVec 32) : Nat := w.toNat * 2 ^ (32 * k)

/-- The state with a table word placed where its next step runs it: in a bundle of a lone team, or of line core 0 for a
word that only Belvedere decodes (DESIGN CHOICE, log 3). A width other than 32 names a step of the machine itself, which no word
encodes: nothing is placed. -/
noncomputable def State.placeWord (s : State) (nbits w : Nat) : State :=
  if nbits = 32 then
    match decodeTableWord nbits w with
    | none => s.withBundle (BitVec.ofNat 128 (inSlot 0 (BitVec.ofNat 32 w))) 0
    | some i =>
      if i.isBelv then s.withLineBundle (BitVec.ofNat 96 (inSlot i.homeSlot (BitVec.ofNat 32 w)))
      else s.withBundle (BitVec.ofNat 128 (inSlot i.homeSlot (BitVec.ofNat 32 w))) 0
  else s

end Sys2Proof.Machine
end

