-- ==== Sys2Proof/Machine/Step.lean ====
section
/-!
DEFINITION. One step of the machine, and the placing of one instruction for it.
-/

namespace Sys2Proof.Machine

/-- One step: the next turn of the schedule, under the meanings of Dispatch.lean. -/
noncomputable def step (s : State) : Host.Outcome State Fault Refusal := s.turn exec

/-- s with an instruction placed where the next step fetches. -/
noncomputable def State.withFetchWord (s : State) (nbits w : Nat) : State := s.placeWord nbits w

end Sys2Proof.Machine
end

