-- ==== Sys2Proof/Machine/HostRead.lean ====
section
/-!
DEFINITION. What a host read of a register returns (00 R13, 02 R44, R55, R64, 26 R474), and the registers of the launch
queue pages and the partition control pages by address (02 Tables 2-1, 2-2, 2-6). The spec gives the registers of BAR0 no
offsets.
-/

namespace Sys2Proof.Machine

/-- STATE of a partition (02 Table 2-5). -/
def PState.num : PState → Nat
  | .off => 0
  | .running => 1
  | .halting => 2
  | .halted => 3
  | .saving => 4
  | .saved => 5
  | .restoring => 6

/-- A bit, at a position. -/
def bitAt (b : Bool) (k : Nat) : Nat := if b then 2 ^ k else 0

/-- LQCFG (02 Table 2-2). -/
def Queue.cfg (q : Queue) : Nat := q.part * 2 ^ 26 + q.pcap * 2 ^ 19 + q.sizeLog * 2 ^ 8 + bitAt q.device 1 + bitAt q.en 0

/-- The entry at a queue's head waits on its timeline (02 Table 2-2; DEDUCED, log 75). -/
def State.queueWaits (s : State) (q : Nat) : Bool :=
  match (s.queue q).phase with
  | .waiting e => e.waitEn && decide ((s.slotVal (s.queue q).part e.waitSlot).toNat < e.waitVal.toNat)
  | _ => false

/-- LQSTAT (02 Table 2-2): ACTIVE while the entry at the head is being read, checked or placed, not while it waits
(DEDUCED, log 75). -/
def State.lqStat (s : State) (q : Nat) : Nat :=
  let x := s.queue q
  bitAt (s.queueWaits q) 33 + bitAt (match x.phase with
    | .idle => false
    | .waiting e => s.entryReady q e
    | _ => true) 32 + x.errCnt.toNat

/-- PARTCTL (02 Table 2-4). -/
def Part.ctl (q : Part) : Nat :=
  q.shadow.toNat * 2 ^ 32 + q.st.num * 2 ^ 16 + bitAt q.err 3 + bitAt (q.st != .off) 0

/-- WQBIND (01 Table 1-8). -/
def WorkQueue.reg (w : WorkQueue) : Nat := w.addr.toNat + bitAt w.busy 2 + bitAt w.err 1 + bitAt w.enable 0

/-- An 8-byte word of a record in a log. -/
def recordWord (l : Table (List Byte)) (k w : Nat) : Nat := fieldAt (tget [] l k) (8 * w) 8

/-- What a register holds, its write-only fields 0. -/
def State.regValue (s : State) (r : HostReg) : Nat :=
  let part := fun (p : Nat) (f : Part → Nat) => if 8 ≤ p then 0 else f (s.part p)
  let queue := fun (q : Nat) (f : Queue → Nat) => if 1024 ≤ q then 0 else f (s.queue q)
  let head := fun (h : Nat) (f : Head → Nat) => if 12 ≤ h then 0 else f (s.head h)
  match r with
  | .lqCfg q _ => queue q Queue.cfg
  | .lqBase q => queue q fun x => x.base.toNat
  | .lqHead q => queue q fun x => x.head.toNat
  | .lqTail q => queue q fun x => x.tail.toNat
  | .lqStat q => queue q fun _ => s.lqStat q
  | .argArea p => part p fun q => q.argBase.toNat + q.argSize.toNat
  | .ctxPool p => part p fun q => q.ctxBase.toNat + q.ctxSize.toNat
  | .parkCfg p => part p fun q => q.parkThr.toNat
  | .lockCfg p => part p fun q => q.lockQuota.toNat
  | .partCtl p => part p Part.ctl
  | .partStat p => part p fun q => q.st.num
  | .pageRoot p => part p fun q => q.root.toNat
  | .clusterMask p k => part p fun q => if 2 ≤ k then 0 else (q.mask.extractLsb' (64 * k) 64).toNat
  | .keySet p k => part p fun q => if 64 ≤ k then 0 else (q.keySet.extractLsb' (64 * k) 64).toNat
  | .hdmRange => s.mgmt.hdm.toNat
  | .hbmCfg => s.dev.dispRes.toNat
  | .fxCfg => bitAt s.dev.fxErr 8 + s.dev.fxPart.toNat * 2 ^ 4 + s.dev.fxSize.toNat
  | .ilimCfg => s.dev.ilim.toNat
  | .domCfg => s.dev.domReg.toNat + bitAt s.dev.domErr 1
  | .tlbiAddr p => part p fun q => q.tlbiAddr.toNat
  | .tlbiVal p => part p fun q => q.tlbiVal.toNat
  | .tlbiCmd p => part p fun q => q.tlbiReg.toNat + bitAt q.tlbiBusy 1
  | .rcpWin p => part p fun q => q.rcpWin.toNat
  | .rcpBase p => part p fun q => q.rcpBase.toNat
  | .rcpLen p => part p fun q => q.rcpLen.toNat
  | .rcpImg p => part p fun q => q.rcpImg.toNat
  | .rcpCfg p => part p fun q => q.rcpCfg.toNat
  | .collGrp p => part p fun q => q.collGrp.toNat
  | .wqBind p n => part p fun _ => if 256 ≤ n then 0 else (s.wq p n).reg
  | .tlSlot p n => part p fun _ => if 65536 ≤ n then 0 else (s.slotVal p n).toNat
  | .qelCnt p => part p fun q => q.qelCnt.toNat
  | .qelRec p k w => part p fun q => if 16 ≤ k ∨ 8 ≤ w then 0 else recordWord q.qel k w
  | .dbgHold => bitAt s.dev.held 1 + bitAt s.dev.hold 0
  | .dbgCtl p => part p fun q => bitAt q.dbgGstop 1 + bitAt q.dbgEn 0
  | .dbgBpa p k => part p fun q => if 4 ≤ k then 0 else (tget 0 q.dbgBpa k).toNat
  | .dbgBph p k => part p fun q => if 4 ≤ k then 0 else (tget 0 q.dbgBph k).toNat
  | .dbgEvCnt p => part p fun q => q.dbgEvCnt.toNat
  | .dbgEv p k w => part p fun q => if 16 ≤ k ∨ 8 ≤ w then 0 else recordWord q.dbgEv k w
  | .trcCtl => s.trace.ctl.toNat
  | .trcHdl => s.trace.handle.toNat
  | .trcStat => s.trace.lost.toNat * 2 ^ 32 + bitAt s.trace.link 16 + s.trace.buffer.length
  | .headCtl h => head h fun x => x.ctl.toNat + bitAt x.err 3 + bitAt x.run 2
  | .headStat h => head h fun x =>
      x.frames.toNat * 2 ^ 32 + x.slips.toNat * 2 ^ 16 + x.badf.toNat * 2 ^ 8 + bitAt (decide (h < 4) && x.hpd) 0
  | .headLtc h => head h fun x => x.ltc.toNat
  | .pose p h w => head h fun x => if x.part ≠ p ∨ 8 ≤ w then 0 else fieldAt x.live (8 * w) 8
  | .mgmtStat => bitAt s.mgmt.throt 7 + bitAt s.mgmt.recov 6 + s.mgmt.phase.toNat
  | .temp k => (s.mgmt.temps.getD k 0).toNat
  | .modPwr => s.mgmt.modPwr.toNat
  | .energy => s.mgmt.energy.toNat
  | .thrCfg => s.mgmt.trip.toNat * 2 ^ 8 + s.mgmt.throtAt.toNat
  | .devErrCnt => s.mgmt.errCnt.toNat
  | .devErr k w => if 64 ≤ k ∨ 4 ≤ w then 0 else recordWord s.mgmt.errLog k w
  | .collRst _ | .dbgRes _ | .readOnly => 0

/-- The bits of a register's value that an access reads, a 4-byte access's at the bottom; 0 for an access of another size
or alignment. -/
def picked (a : RegAccess) (v : Nat) : Nat :=
  if !a.aligned then 0
  else if a.size = 8 then v
  else if a.size = 4 then (if a.high then v / 2 ^ 32 else v % 2 ^ 32)
  else 0

/-- A read of a management register over the sideband, which answers in every phase and with the main rail off
(26 R474, R475, Table 26-1). -/
def State.sidebandRead (s : State) (r : HostReg) : Option Nat :=
  match r with
  | .mgmtStat | .temp _ | .modPwr | .energy | .thrCfg => some (s.regValue r)
  | _ => none

/-- A host read of a register: no answer before phase LINK, nor once the main rail is off or a trained link is down; in
phase LINK only MGMTSTAT gives its value (26 Table 26-2, R476). A timeline slot is read 8 bytes at a time (02 R55). -/
def State.hostRead (s : State) (r : HostReg) (a : RegAccess) : Option Nat :=
  if s.mgmt.phase.toNat < 3 || !s.mgmt.railOn || (s.mgmt.phase == 4 && !s.mgmt.linkUp) then none
  else if s.mgmt.phase ≠ 4 ∧ r ≠ .mgmtStat then some 0
  else match r with
    | .tlSlot _ _ => some (if a.size = 8 then picked a (s.regValue r) else 0)
    | _ => some (picked a (s.regValue r))

/-- The register at an offset of a launch queue page (02 Table 2-2). -/
def queueReg (q o : Nat) : HostReg :=
  match o with
  | 0 => .lqCfg q false
  | 1 => .lqBase q
  | 2 => .lqHead q
  | 3 => .lqTail q
  | 4 => .lqStat q
  | _ => .readOnly

/-- The register at 8-byte place o of a partition control page (02 Table 2-6). -/
def partReg (p o : Nat) : HostReg :=
  if o < 0x10000 then .tlSlot p o
  else if o < 0x10100 then .wqBind p (o - 0x10000)
  else if o = 0x10200 then .partStat p
  else if o = 0x10400 then .qelCnt p
  else if 0x10408 ≤ o ∧ o < 0x10488 then .qelRec p ((o - 0x10408) / 8) (o % 8)
  else if 0x12000 ≤ o ∧ o < 0x12060 then .pose p ((o - 0x12000) / 8) (o % 8)
  else .readOnly

/-- The register an access to BAR2 (`bar4` false) or BAR4 names, and the access as the register sees it (02 Tables 2-1,
2-2, 2-6, R44). -/
def barReg (bar4 : Bool) (off size : Nat) : HostReg × RegAccess :=
  (if bar4 then partReg (off / 2 ^ 21) (off % 2 ^ 21 / 8) else queueReg (off / 4096) (off % 4096 / 8),
    ⟨size, off % size == 0, off % 8 == 4⟩)

/-- A host read at an offset of BAR2 or BAR4. -/
def State.barRead (s : State) (bar4 : Bool) (off size : Nat) : Option Nat :=
  let x := barReg bar4 off size
  s.hostRead x.1 x.2

/-- A host write at an offset of BAR2 or BAR4. -/
def State.barWrite (s : State) (bar4 : Bool) (off size : Nat) (v : BitVec 64) : Answer :=
  let x := barReg bar4 off size
  execRegisterWrite x.1 x.2 v s

end Sys2Proof.Machine
end

