-- ==== Sys2Proof/Safety.lean ====
section
/-!
DEFINITION. The terms claims are stated in: the invariant of memory, what stays unchanged around an operation (its
frame), and how an operation's result stands in the registers after it.
-/

namespace Sys2Proof.Machine

/-! ### Memory -/

/-- Physical memory has its canonical form. -/
def State.memOk (s : State) : Prop := Memory.wf s.ms.mem = true

/-- One byte of physical memory. -/
def State.byte (s : State) (pa : Nat) : Byte := Memory.read s.ms.mem pa

/-- One byte of the store of gang g. -/
def State.gangByte (s : State) (g a : Nat) : Byte := Memory.read (s.gang g).store a

/-- One byte of recipe tile n of partition p. -/
def State.tileByte (s : State) (p n off : Nat) : Byte := Memory.read ((s.part p).rtile n).bytes off

/-- Every byte of memory, of the gang stores and of the recipe tiles reads as before. -/
structure State.SameMemory (s t : State) : Prop where
  phys : ∀ pa, t.byte pa = s.byte pa
  gang : ∀ g a, t.gangByte g a = s.gangByte g a
  tile : ∀ p n off, t.tileByte p n off = s.tileByte p n off

/-! ### Frames of a slot operation -/

/-- The flight with the operation's slot complete (06 R126). -/
def Flight.marked (f : Flight) (slot : Nat) : Flight := { f with done := f.done ||| (1#4 <<< slot) }

/-- The team with the operation's slot complete. -/
def Team.marked (t : Team) (slot : Nat) : Team := { t with flight := t.flight.map fun f => f.marked slot }

/-- The whole machine but the executing team stays as it was: every other team, gang, launch, partition, special register
and memory. -/
structure State.OnlyMe (s t : State) : Prop where
  whole : t = { s with teams := tset s.teams s.issue.team t.me }
  memory : s.SameMemory t

/-- As `OnlyMe`, with packets on the trace stream, and none unless the team is traced (21 R418). -/
structure State.OnlyMeTraced (s t : State) : Prop where
  whole : t = { s with teams := tset s.teams s.issue.team t.me, trace := t.trace }
  untraced : s.traced s.me = false → t.trace = s.trace
  memory : s.SameMemory t

/-- The operation completes with the team's registers as its only effect. -/
structure State.RegStep (s t : State) : Prop where
  world : s.OnlyMe t
  team : t.me = { s.me.marked s.issue.slot with regs := t.me.regs }

/-- The operation completes and has no other effect. -/
def State.NoEffect (s t : State) : Prop := s.OnlyMe t ∧ t.me = s.me.marked s.issue.slot

/-- As `OnlyMeTraced`, with translations cached (10 R236) and the times at which recipe tiles were read (13 R297). -/
structure State.OnlyMeCached (s t : State) : Prop where
  whole : t = { s with
    teams := tset s.teams s.issue.team t.me, trace := t.trace, parts := t.parts
    ms := { s.ms with l0 := t.ms.l0, l1 := t.ms.l1, walks := t.ms.walks } }
  parts : ∀ p, t.part p = { s.part p with rtiles := (t.part p).rtiles }
  tiles : ∀ p n, (t.part p).rtile n = { (s.part p).rtile n with readAt := ((t.part p).rtile n).readAt }
  untraced : s.traced s.me = false → t.trace = s.trace
  memory : s.SameMemory t

/-- The team with its bundle's flow chosen as well (08 R176, R180). -/
def Team.flowing (t : Team) (x : Flow) : Team :=
  { t with flight := t.flight.map fun f => { f with flow := f.flow.over x } }

/-- The team with the committing operation's slot complete: the slot joins the checkpoint's DONE with the bundle's flow
(19 R390), and it is known whether every operation of its bundle is there (21 R415 ROLLB). -/
def Team.committed (t : Team) (slot : Nat) : Team :=
  { t.marked slot with
    kept := match t.flight with
      | some f => ((t.ckpt.done ||| (1#4 <<< slot)) ||| f.bundle.nops) == 0xF
      | none => t.kept
    ckpt := { t.ckpt with
      done := t.ckpt.done ||| (1#4 <<< slot)
      flow := (t.flight.map (·.flow)).getD t.ckpt.flow
      olds := (t.flight.map (·.olds)).getD t.ckpt.olds } }

/-- The team with `f` applied to its registers and to those of its checkpoint (19 R390). -/
def Team.both (t : Team) (f : Regs → Regs) : Team :=
  { t with regs := f t.regs, ckpt := { t.ckpt with regs := f t.ckpt.regs } }

/-- The counters of a team are those of before but for the loop level it enters, which starts with one pass (21 R416); a
handler's loops count nothing. -/
def Team.LevelRestarts (t x : Team) : Prop :=
  if t.handler.isSome then x.counters = t.counters
  else tsorted t.counters = true → ∀ n, tget 0 x.counters n =
    if 0x050 + 12 * t.regs.loops.length ≤ n ∧ n < 0x050 + 12 * t.regs.loops.length + 12 then
      (if n = 0x050 + 12 * t.regs.loops.length + 9 then 1 else 0)
    else tget 0 t.counters n

/-! ### Taking a fault (19 R392, R395) -/

/-- The checkpoint a team's handler starts from: the FMT and WNEXT values due at its bundle have landed (06 R135, R136,
19 R396). -/
def Ckpt.entered (c : Ckpt) : Ckpt :=
  if c.landed then c else { c with regs := c.regs.land, before := c.before.land, landed := true }

/-- Team u, rolled back to its checkpoint, stands at the first bundle of its trap handler, in its slot or OUT: s60 to s63 hold the first frame
word, FADDR, the faulting bundle's address and the checkpoint's index with NEXT; the mask stack has the faulting lanes
above the live ones; its withheld stores are gone, its interrupted stacks and checkpoint kept; no other team changes. -/
structure State.EntersHandler (s t : State) (u vec : Nat) (i : FaultInfo) : Prop where
  pc : (t.team u).pc = vec
  runs : (t.team u).st = (if (s.team u).st = .out then .out else .runnable) ∧ (t.team u).waits = [] ∧
    (t.team u).flight = none
  s60 : (t.team u).regs.sget 60 =
    BitVec.ofNat 64 (i.code.num + i.slot * 2 ^ 8 + (s.team u).ckpt.done.toNat * 2 ^ 16)
  s61 : (t.team u).regs.sget 61 = i.addr
  s62 : (t.team u).regs.sget 62 = (s.gang (s.team u).gang).image.bundleVa (s.team u).pc
  s63 : (t.team u).regs.sget 63 = BitVec.ofNat 64 ((s.team u).ckpt.n + (s.team u).ckpt.nextIdx * 2 ^ 32)
  others : ∀ j, j < 60 → (t.team u).regs.sget j = (s.team u).ckpt.entered.regs.sget j
  files : (t.team u).regs.v = (s.team u).ckpt.entered.regs.v ∧ (t.team u).regs.c = (s.team u).ckpt.entered.regs.c ∧
    (t.team u).regs.p = (s.team u).ckpt.entered.regs.p ∧ (t.team u).regs.fmt = (s.team u).ckpt.entered.regs.fmt
  masks : (t.team u).regs.masks =
    [⟨if i.lanes = 0 then lanesMask (s.team u).lanes else i.lanes, false, false, 0, 0⟩,
      ⟨lanesMask (s.team u).lanes, false, false, 0, 0⟩]
  loops : (t.team u).regs.loops = []
  stores : (t.team u).held = []
  kept : ∃ h, (t.team u).handler = some h ∧ h.ckpt = (s.team u).ckpt.entered ∧ h.masks = (s.team u).ckpt.regs.masks ∧
    h.loops = (s.team u).ckpt.regs.loops ∧ h.frame.code = i.code ∧ h.frame.faddr = i.addr
  teams : ∀ w, w ≠ u → t.team w = s.team w

/-! ### What stays in the registers -/

/-- No register but s[d] differs. -/
structure Regs.OnlyS (r q : Regs) (d : Nat) : Prop where
  files : q = { r with s := q.s }
  others : ∀ j, j ≠ d → q.sget j = r.sget j

/-- No register but c[d] differs. -/
structure Regs.OnlyC (r q : Regs) (d : Nat) : Prop where
  files : q = { r with c := q.c }
  others : ∀ j, j ≠ d → q.cget j = r.cget j

/-- No register but p[d] differs. -/
structure Regs.OnlyP (r q : Regs) (d : Nat) : Prop where
  files : q = { r with p := q.p }
  others : ∀ j, j ≠ d → q.pget j = r.pget j

/-- No register but the vector registers of a list differs. -/
structure Regs.OnlyV (r q : Regs) (ds : List Nat) : Prop where
  files : q = { r with v := q.v }
  others : ∀ j, j ∉ ds → q.vreg j = r.vreg j

/-! ### Results in the registers -/

/-- s[d] takes a value where the operation acts, and nothing but its slot's completion where it does not; s0 reads 0 and
discards it (04 Table 4-3). -/
def State.SetsS (s t : State) (d : Nat) (acts : Bool) (v : Word) : Prop :=
  s.RegStep t ∧
    (if acts then s.me.regs.OnlyS t.me.regs d ∧ t.me.regs.sget d = (if d = 0 then 0 else v) else t.me.regs = s.me.regs)

/-- c[d] takes a value where the operation acts; c0 reads 1 and discards it. -/
def State.SetsC (s t : State) (d : Nat) (acts : Bool) (b : Bool) : Prop :=
  s.RegStep t ∧
    (if acts then s.me.regs.OnlyC t.me.regs d ∧ t.me.regs.cget d = (decide (d = 0) || b) else t.me.regs = s.me.regs)

/-- The lanes of a mask of vector register x take values; a lane that a higher-numbered slot has already written keeps
its value (06 R129, 19 R391), and so do the lanes outside the mask. -/
def State.LanesTake (s t : State) (x : Nat) (m : LaneMask) (f : Nat → Lane) : Prop :=
  ∀ l, l < s.me.lanes → t.me.regs.vget x l =
    if m.getLsbD l && !(s.keptLanes x).getLsbD l then f l else s.me.regs.vget x l

/-- A 32-bit vector destination takes values: a register, or the first free entry of a ring, whose write is withheld
(11 R250, 19 R387). -/
def State.SetsV (s t : State) (x : BitVec 8) (m : LaneMask) (f : Nat → Lane) : Prop :=
  if isPort x then
    s.OnlyMe t ∧ t.me = { s.me.marked s.issue.slot with held := s.me.held ++ s.portStores x m f }
  else s.RegStep t ∧ s.me.regs.OnlyV t.me.regs [x.toNat] ∧ s.LanesTake t x.toNat m f

/-- A 64-bit vector destination takes values: the low word in v[x], the high one in v[x + 1]. -/
def State.SetsV64 (s t : State) (x : BitVec 8) (m : LaneMask) (f : Nat → Word) : Prop :=
  s.RegStep t ∧ s.me.regs.OnlyV t.me.regs [x.toNat, x.toNat + 1] ∧
    s.LanesTake t x.toNat m (fun l => (f l).extractLsb' 0 32) ∧
    s.LanesTake t (x.toNat + 1) m (fun l => (f l).extractLsb' 32 32)

/-- n consecutive vector registers take values. -/
def State.SetsRun (s t : State) (x n : Nat) (m : LaneMask) (f : Nat → Nat → Lane) : Prop :=
  s.RegStep t ∧ s.me.regs.OnlyV t.me.regs ((List.range n).map (x + ·)) ∧
    ∀ j, j < n → s.LanesTake t (x + j) m (f j)

/-- The lanes of a mask of p[d] take values; p0 reads all ones and discards them. -/
def State.SetsP (s t : State) (d : Nat) (m : LaneMask) (f : Nat → Bool) : Prop :=
  s.RegStep t ∧ s.me.regs.OnlyP t.me.regs d ∧
    ∀ l, l < s.me.lanes → (t.me.regs.pget d).getLsbD l =
      if d = 0 then (BitVec.allOnes 1024).getLsbD l else if m.getLsbD l then f l else (s.me.regs.pget d).getLsbD l

/-! ### When ring ports let an operation go on (11 R250) -/

/-- A source: a register, or a port of an initialised ring with enough filled entries, no element of which is poisoned. -/
def State.SourceReady (s : State) (x : BitVec 8) : Prop :=
  isPort x = true →
    let r := s.ringSeen (portRing x)
    r.init = true ∧ x.toNat % 2 < r.filled ∧ ∀ l, s.portBad x l = none

/-- A destination: a register, or a port of an initialised ring with a free entry. -/
def State.DestReady (s : State) (x : BitVec 8) : Prop :=
  isPort x = true → (s.ringSeen (portRing x)).init = true ∧
    (s.ringSeen (portRing x)).filled < (s.ringSeen (portRing x)).size

end Sys2Proof.Machine
end

