-- ==== Sys2Proof/Safety/Results.lean ====
section
/-!
DEFINITION. What slot operations compute, as tables the claims read: for each operation its destination, when it acts
and the value it gives, from the registers as earlier bundles left them (06 R129).
-/

namespace Sys2Proof.Machine

/-! ### S slot (08 R171-R175, R184, R193) -/

/-- A result for an S register or a condition register: its number, whether the guard lets the operation act, and the
value. -/
structure SRes (α : Type) where
  d : Nat
  acts : Bool
  val : α

/-- s[D] from s[A] and B under the guard. -/
def State.resS (s : State) (o : A3) (sx : Bool) (f : Word → Word → Word) : SRes Word :=
  ⟨o.d.toNat, s.sGuard o.g, f (s.sA o) (sB s.rd sx o.b)⟩

/-- c[D] from s[A] and B under the guard. -/
def State.resC (s : State) (o : A3) (sx : Bool) (f : Word → Word → Bool) : SRes Bool :=
  ⟨o.d.toNat, s.sGuard o.g, f (s.sA o) (sB s.rd sx o.b)⟩

/-- c[D] from condition registers under the guard. -/
def State.resCC (s : State) (o : A3) (f : Bool → Bool → Bool) : SRes Bool :=
  ⟨o.d.toNat, s.sGuard o.g, f (s.rd.cget o.a.toNat) (cB s.rd o.b)⟩

/-- The scalar operations that write an S register. -/
def State.scalarResult (s : State) (i : Instr) : Option (SRes Word) :=
  match i with
  | .sadd o => some (s.resS o true fun a b => a + b)
  | .ssub o => some (s.resS o true fun a b => a - b)
  | .smul o => some (s.resS o true fun a b => a * b)
  | .smulh o => some (s.resS o true fun a b => mulHigh true a b)
  | .smulhn o => some (s.resS o false fun a b => mulHigh false a b)
  | .sdiv o => some (s.resS o true fun a b => sdivOf a b)
  | .sdivn o => some (s.resS o false fun a b => udivOf a b)
  | .srem o => some (s.resS o true fun a b => sremOf a b)
  | .sremn o => some (s.resS o false fun a b => uremOf a b)
  | .sand o => some (s.resS o true fun a b => a &&& b)
  | .sor o => some (s.resS o true fun a b => a ||| b)
  | .sxor o => some (s.resS o true fun a b => a ^^^ b)
  | .sandn o => some (s.resS o true fun a b => a &&& ~~~b)
  | .sshl o => some (s.resS o false fun a b => a <<< (b.toNat % 64))
  | .sshr o => some (s.resS o false fun a b => a >>> (b.toNat % 64))
  | .ssra o => some (s.resS o false fun a b => a.sshiftRight (b.toNat % 64))
  | .smin o => some (s.resS o true fun a b => minOf true a b)
  | .smax o => some (s.resS o true fun a b => maxOf true a b)
  | .sminn o => some (s.resS o false fun a b => minOf false a b)
  | .smaxn o => some (s.resS o false fun a b => maxOf false a b)
  | .sabs o => some (s.resS o false fun a _ => absOf a)
  | .spopc o => some (s.resS o false fun a _ => BitVec.ofNat 64 (popOf a))
  | .sclz o => some (s.resS o false fun a _ => BitVec.ofNat 64 (clzOf a))
  | .sctz o => some (s.resS o false fun a _ => BitVec.ofNat 64 (ctzOf a))
  | .smov o => some (s.resS o false fun a _ => a)
  | .sbfx o => some ⟨o.d.toNat, s.sGuard o.g, bfxOf (s.sA o) (sFieldPos s.rd o.b) (sFieldLen s.rd o.b)⟩
  | .sbfi o => some ⟨o.d.toNat, s.sGuard o.g,
      bfiOf (s.rd.sget o.d.toNat) (s.sA o) (sFieldPos s.rd o.b) (sFieldLen s.rd o.b)⟩
  | .ssel o => some ⟨o.d.toNat, true, if s.sGuard o.g then s.sA o else sB s.rd true o.b⟩
  | .smovi o => some ⟨o.d.toNat, true, o.imm.signExtend 64⟩
  | .smovh o => some ⟨o.d.toNat, true, (s.rd.sget o.d.toNat <<< 16) ||| o.imm.zeroExtend 64⟩
  | .mread o => (s.rd.maskItem (sB s.rd false o.b).toNat).map fun v => ⟨o.d.toNat, s.sGuard o.g, v⟩
  | .movc o => (s.ctlRead (ctlNumber s.rd o.a o.b)).map fun v => ⟨o.d.toNat, s.sGuard o.g, v⟩
  | _ => none

/-- The scalar operations that write a condition register. -/
def State.conditionResult (s : State) (i : Instr) : Option (SRes Bool) :=
  match i with
  | .scmpeq o => some (s.resC o true (Rel.eq.of true))
  | .scmpne o => some (s.resC o true (Rel.ne.of true))
  | .scmplt o => some (s.resC o true (Rel.lt.of true))
  | .scmple o => some (s.resC o true (Rel.le.of true))
  | .scmpltn o => some (s.resC o false (Rel.lt.of false))
  | .scmplen o => some (s.resC o false (Rel.le.of false))
  | .cand o => some (s.resCC o fun x y => x && y)
  | .cor o => some (s.resCC o fun x y => x || y)
  | .cxor o => some (s.resCC o fun x y => x != y)
  | .cnot o => some (s.resCC o fun x _ => !x)
  | _ => none

/-! ### V slots, 32-bit results (09 R200-R215, R219) -/

/-- A result for a vector destination: the lanes it takes, the operands that may be ring ports, and the values. -/
structure VRes (α : Type) where
  mask : LaneMask
  reads : List (BitVec 8)
  writes : List (BitVec 8)
  d : BitVec 8
  val : Nat → α

/-- v[D] from v[A], B and v[D], integers. -/
def State.resI (s : State) (o : A3) (sx : Bool) (f : Lane → Lane → Lane → Lane) : VRes Lane :=
  ⟨s.effMask o.g, o.a :: bRegs o.b, [o.d], o.d, fun l => f (s.vsrc o.a l) (s.bLane sx o.b l) (s.rd.vget o.d.toNat l)⟩

/-- v[D] from v[A] alone. -/
def State.resU (s : State) (o : A3) (f : Lane → Lane) : VRes Lane :=
  ⟨s.effMask o.g, [o.a], [o.d], o.d, fun l => f (s.vsrc o.a l)⟩

/-- v[D] with no ring port among the operands. -/
def State.resL (s : State) (o : A3) (f : Nat → Lane) : VRes Lane := ⟨s.effMask o.g, [], [], o.d, f⟩

/-- v[D] from binary32 A and B, rounded once under FMT.RM. -/
def State.resF (s : State) (o : A3) (f : FVal → FVal → FVal) : VRes Lane :=
  ⟨s.effMask o.g, o.a :: bRegs o.b, [o.d], o.d, fun l =>
    code32 ((f (f32.decode (s.vsrc o.a l).toNat) (f32.decode (s.bF32 o.b l).toNat)).round f32 s.rm false)⟩

/-- v[D] from packed A and B, element by element. -/
def State.resH (s : State) (o : A3) (t : Fmt) (f : FVal → FVal → FVal) : VRes Lane :=
  ⟨s.effMask o.g, o.a :: bRegs o.b, [o.d], o.d, fun l =>
    packPair ((f (packElem t (s.vsrc o.a l) 0) (packElem t (s.bPack t o.b l) 0)).round t s.rm false)
      ((f (packElem t (s.vsrc o.a l) 1) (packElem t (s.bPack t o.b l) 1)).round t s.rm false)⟩

/-- A × B + v[D] of packed pairs, element by element. -/
def State.resHfma (s : State) (o : A3) (t : Fmt) : VRes Lane :=
  let e := fun (l j : Nat) => (FVal.add s.rdn ((packElem t (s.vsrc o.a l) j).mul (packElem t (s.bPack t o.b l) j))
    (packElem t (s.rd.vget o.d.toNat l) j)).round t s.rm false
  ⟨s.effMask o.g, o.a :: bRegs o.b, [], o.d, fun l => packPair (e l 0) (e l 1)⟩

/-- v[D] plus the products of packed elements, one rounding (09 R207). -/
def State.resDot (s : State) (o : A3) (n : Nat) (a b : Nat → Nat → FVal) : VRes Lane :=
  ⟨s.effMask o.g, o.a :: bRegs o.b, [], o.d, fun l =>
    s.dotOf (s.rd.vget o.d.toNat l) ((List.range n).map fun j => (a l j).mul (b l j))⟩

/-- CVT to a 32-bit type (09 R209). -/
def State.resCvt (s : State) (o : A3) (ty : Nat) : VRes Lane :=
  let src := o.b.code
  ⟨s.effMask o.g, if wideType src then [] else [o.a], [o.d], o.d, fun l =>
    (cvtTo ty s.fmtSeen (cvtSource src s.fmtSeen
      (if wideType src then s.vsrc64 o.a l else (s.vsrc o.a l).zeroExtend 64))).extractLsb' 0 32⟩

/-- The register a register-only B field names. -/
def regOr0 (b : SrcB) : BitVec 8 :=
  match b with
  | .reg x => x
  | _ => 0

/-- The operations with a 32-bit vector result. -/
def State.vectorResult (s : State) (i : Instr) : Option (VRes Lane) :=
  match i with
  | .vaddI32 o => some (s.resI o true fun a b _ => a + b)
  | .vsubI32 o => some (s.resI o true fun a b _ => a - b)
  | .vaddsS32 o => some (s.resI o true fun a b _ => clampTo 32 true (a.toInt + b.toInt))
  | .vaddsN32 o => some (s.resI o false fun a b _ => clampTo 32 false (a.toNat + b.toNat))
  | .vsubsS32 o => some (s.resI o true fun a b _ => clampTo 32 true (a.toInt - b.toInt))
  | .vsubsN32 o => some (s.resI o false fun a b _ => clampTo 32 false ((a.toNat : Int) - b.toNat))
  | .vmulI32 o => some (s.resI o true fun a b _ => a * b)
  | .vmulhS32 o => some (s.resI o true fun a b _ => mulHigh true a b)
  | .vmulhN32 o => some (s.resI o false fun a b _ => mulHigh false a b)
  | .vminS32 o => some (s.resI o true fun a b _ => minOf true a b)
  | .vminN32 o => some (s.resI o false fun a b _ => minOf false a b)
  | .vmaxS32 o => some (s.resI o true fun a b _ => maxOf true a b)
  | .vmaxN32 o => some (s.resI o false fun a b _ => maxOf false a b)
  | .vandB32 o => some (s.resI o true fun a b _ => a &&& b)
  | .vorB32 o => some (s.resI o true fun a b _ => a ||| b)
  | .vxorB32 o => some (s.resI o true fun a b _ => a ^^^ b)
  | .vandnB32 o => some (s.resI o true fun a b _ => a &&& ~~~b)
  | .vshlB32 o => some (s.resI o false fun a b _ => a <<< (b.toNat % 32))
  | .vshrB32 o => some (s.resI o false fun a b _ => a >>> (b.toNat % 32))
  | .vsraS32 o => some (s.resI o false fun a b _ => a.sshiftRight (b.toNat % 32))
  | .cvtsrB8 o => some (s.resI o false fun a r _ => code32 ((fmtDst s.fmtSeen).cvtsr r.toNat (f32.decode a.toNat)))
  | .cvtsrBf16 o => some (s.resI o false fun a r _ => code32 ((f32.decode a.toNat).cvtsr bf16 (fmtSat s.fmtSeen) r.toNat))
  | .cvtsrF16 o => some (s.resI o false fun a r _ => code32 ((f32.decode a.toNat).cvtsr f16 (fmtSat s.fmtSeen) r.toNat))
  | .vmadI32 o => some (s.resI o true fun a b d => a * b + d)
  | .vbfxS32 o => some (s.resI o false fun a x _ =>
      if 32 ≤ vFieldPos o.b x then 0
      else if (bfxOf a (vFieldPos o.b x) (vFieldLen o.b x)).getLsbD (vFieldLen o.b x - 1) then
        bfxOf a (vFieldPos o.b x) (vFieldLen o.b x) - BitVec.ofNat 32 (2 ^ vFieldLen o.b x)
      else bfxOf a (vFieldPos o.b x) (vFieldLen o.b x))
  | .vbfxN32 o => some (s.resI o false fun a x _ =>
      if 32 ≤ vFieldPos o.b x then 0 else bfxOf a (vFieldPos o.b x) (vFieldLen o.b x))
  | .vbfiB32 o => some (s.resI o false fun a x d =>
      if 32 ≤ vFieldPos o.b x then d else bfiOf d a (vFieldPos o.b x) (vFieldLen o.b x))
  | .vpackH2 o => some (s.resI o true fun a b _ => packPair
      ((f32.decode a.toNat).round f16 s.rm (fmtSat s.fmtSeen)) ((f32.decode b.toNat).round f16 s.rm (fmtSat s.fmtSeen)))
  | .vpackBh2 o => some (s.resI o true fun a b _ => packPair
      ((f32.decode a.toNat).round bf16 s.rm (fmtSat s.fmtSeen)) ((f32.decode b.toNat).round bf16 s.rm (fmtSat s.fmtSeen)))
  | .vpackB8x4 o =>
    let e := fun (x : Lane) => (fmtDst s.fmtSeen).encode s.rm (f32.decode x.toNat)
    let b := (regOr0 o.b).toNat
    some ⟨s.effMask o.g, [], [o.d], o.d, fun l =>
      code32 (e (s.rd.vget o.a.toNat l) + e (s.rd.vget (o.a.toNat + 1) l) * 2 ^ 8 + e (s.rd.vget b l) * 2 ^ 16 +
        e (s.rd.vget (b + 1) l) * 2 ^ 24)⟩
  | .vabsS32 o => some (s.resU o absOf)
  | .vpopcB32 o => some (s.resU o fun a => BitVec.ofNat 32 (popOf a))
  | .vclzB32 o => some (s.resU o fun a => BitVec.ofNat 32 (clzOf a))
  | .frndF32 o => some (s.resU o fun a => code32 (((f32.decode a.toNat).integral s.rm).round f32 s.rm false))
  | .fclassF32 o => some (s.resU o fun a => code32 (2 ^ classBit f32 a.toNat))
  | .frcpF32 o => some (s.resU o fun a => code32 (FVal.rcpBits f32 s.rm (f32.decode a.toNat)))
  | .frsqF32 o => some (s.resU o fun a => code32 (FVal.rsqBits f32 s.rm (f32.decode a.toNat)))
  | .fsqrtF32 o => some (s.resU o fun a => code32 (FVal.sqrtBits f32 s.rm (f32.decode a.toNat)))
  | .fexp2F32 o => some (s.resU o fun a => code32 (FVal.exp2Bits s.rm (f32.decode a.toNat)))
  | .flog2F32 o => some (s.resU o fun a => code32 (FVal.log2Bits s.rm (f32.decode a.toNat)))
  | .fsinpF32 o => some (s.resU o fun a => code32 (FVal.sinpBits s.rm (f32.decode a.toNat)))
  | .fcospF32 o => some (s.resU o fun a => code32 (FVal.cospBits s.rm (f32.decode a.toNat)))
  | .faddF32 o => some (s.resF o (fun a b => FVal.add s.rdn a b))
  | .fsubF32 o => some (s.resF o (fun a b => FVal.add s.rdn a b.neg))
  | .fmulF32 o => some (s.resF o FVal.mul)
  | .fminF32 o => some (s.resF o FVal.min)
  | .fmaxF32 o => some (s.resF o FVal.max)
  | .faddH2 o => some (s.resH o f16 (fun a b => FVal.add s.rdn a b))
  | .faddBh2 o => some (s.resH o bf16 (fun a b => FVal.add s.rdn a b))
  | .fsubH2 o => some (s.resH o f16 (fun a b => FVal.add s.rdn a b.neg))
  | .fsubBh2 o => some (s.resH o bf16 (fun a b => FVal.add s.rdn a b.neg))
  | .fmulH2 o => some (s.resH o f16 FVal.mul)
  | .fmulBh2 o => some (s.resH o bf16 FVal.mul)
  | .fminH2 o => some (s.resH o f16 FVal.min)
  | .fminBh2 o => some (s.resH o bf16 FVal.min)
  | .fmaxH2 o => some (s.resH o f16 FVal.max)
  | .fmaxBh2 o => some (s.resH o bf16 FVal.max)
  | .ffmaH2 o => some (s.resHfma o f16)
  | .ffmaBh2 o => some (s.resHfma o bf16)
  | .ffmaF32 o => some ⟨s.effMask o.g, o.a :: bRegs o.b, [], o.d, fun l =>
      code32 ((FVal.add s.rdn ((f32.decode (s.vsrc o.a l).toNat).mul (f32.decode (s.bF32 o.b l).toNat))
        (f32.decode (s.rd.vget o.d.toNat l).toNat)).round f32 s.rm false)⟩
  | .fdivF32 o => some ⟨s.effMask o.g, o.a :: bRegs o.b, [o.d], o.d, fun l =>
      code32 (FVal.divBits f32 s.rm (f32.decode (s.vsrc o.a l).toNat) (f32.decode (s.bF32 o.b l).toNat))⟩
  | .fclassF64 o => some ⟨s.effMask o.g, [], [o.d], o.d, fun l =>
      code32 (2 ^ classBit f64 (s.vsrc64 o.a l).toNat)⟩
  | .fdot4B8x4 o => some (s.resDot o 4 (fun l => b8Elem (fmtSrc s.fmtSeen) (s.vsrc o.a l))
      fun l => b8Elem (fmtSrc s.fmtSeen) (s.bLane true o.b l))
  | .fdot2H2 o => some (s.resDot o 2 (fun l => packElem f16 (s.vsrc o.a l)) fun l => packElem f16 (s.bPack f16 o.b l))
  | .fdot2Bh2 o => some (s.resDot o 2 (fun l => packElem bf16 (s.vsrc o.a l)) fun l => packElem bf16 (s.bPack bf16 o.b l))
  | .cvtS32 o => some (s.resCvt o 0)
  | .cvtN32 o => some (s.resCvt o 1)
  | .cvtF32 o => some (s.resCvt o 5)
  | .cvtF16 o => some (s.resCvt o 6)
  | .cvtBf16 o => some (s.resCvt o 7)
  | .cvtB8 o => some (s.resCvt o 8)
  | .vselB32 o => some ⟨s.topMask, o.a :: bRegs o.b, [o.d], o.d, fun l =>
      if (s.rd.pget o.g.toNat).getLsbD l then s.vsrc o.a l else s.bLane true o.b l⟩
  | .vmovB32 o => some ⟨s.effMask o.g, bRegs o.b, [o.d], o.d, fun l => s.bLane true o.b l⟩
  | .vmovsB32 o => some (s.resL o fun _ => (s.sA o).extractLsb' 0 32)
  | .vlane o => some (s.resL o fun l => BitVec.ofNat 32 l)
  | .vldix o => if s.indexed o < s.me.vregs then some (s.resL o fun l => s.rd.vget (s.indexed o) l) else none
  | .vmovp o => some (s.resL o fun l => if (s.rd.pget o.a.toNat).getLsbD l then 1 else 0)
  | .xswz o => some (s.resL o fun l =>
      if (s.effMask o.g).getLsbD (l / 32 * 32 + (s.rd.vget o.d.toNat l).toNat % 32)
      then s.rd.vget o.a.toNat (l / 32 * 32 + (s.rd.vget o.d.toNat l).toNat % 32) else 0)
  | _ => none

/-! ### V slots, 64-bit results -/

/-- v[D:D+1] from v[A:A+1] and B, integers. -/
def State.resW (s : State) (o : A3) (sx : Bool) (f : Word → Word → Word) : VRes Word :=
  ⟨s.effMask o.g, [], [], o.d, fun l => f (s.vsrc64 o.a l) (s.bLane64 sx o.b l)⟩

/-- v[D:D+1] shifted by a 32-bit count. -/
def State.resWs (s : State) (o : A3) (f : Word → Nat → Word) : VRes Word :=
  ⟨s.effMask o.g, bRegs o.b, [], o.d, fun l => f (s.vsrc64 o.a l) ((s.bLane false o.b l).toNat % 64)⟩

/-- v[D:D+1] from v[A:A+1] alone. -/
def State.resWu (s : State) (o : A3) (f : Word → Word) : VRes Word :=
  ⟨s.effMask o.g, [], [], o.d, fun l => f (s.vsrc64 o.a l)⟩

/-- v[D:D+1] from binary64 A and B, rounded once under FMT.RM. -/
def State.resWf (s : State) (o : A3) (f : FVal → FVal → FVal) : VRes Word :=
  ⟨s.effMask o.g, [], [], o.d, fun l =>
    BitVec.ofNat 64 ((f (f64.decode (s.vsrc64 o.a l).toNat) (f64.decode (s.bF64 o.b l).toNat)).round f64 s.rm false)⟩

/-- CVT to a 64-bit type (09 R209). -/
def State.resWc (s : State) (o : A3) (ty : Nat) : VRes Word :=
  let src := o.b.code
  ⟨s.effMask o.g, if wideType src then [] else [o.a], [], o.d, fun l =>
    cvtTo ty s.fmtSeen (cvtSource src s.fmtSeen
      (if wideType src then s.vsrc64 o.a l else (s.vsrc o.a l).zeroExtend 64))⟩

/-- The operations with a 64-bit vector result. -/
def State.wideResult (s : State) (i : Instr) : Option (VRes Word) :=
  match i with
  | .vaddI64 o => some (s.resW o true fun a b => a + b)
  | .vsubI64 o => some (s.resW o true fun a b => a - b)
  | .vmulI64 o => some (s.resW o true fun a b => a * b)
  | .vminS64 o => some (s.resW o true fun a b => minOf true a b)
  | .vminN64 o => some (s.resW o false fun a b => minOf false a b)
  | .vmaxS64 o => some (s.resW o true fun a b => maxOf true a b)
  | .vmaxN64 o => some (s.resW o false fun a b => maxOf false a b)
  | .vshlB64 o => some (s.resWs o fun a k => a <<< k)
  | .vshrB64 o => some (s.resWs o fun a k => a >>> k)
  | .vsraS64 o => some (s.resWs o fun a k => a.sshiftRight k)
  | .vabsS64 o => some (s.resWu o absOf)
  | .frndF64 o => some (s.resWu o fun a => BitVec.ofNat 64 (((f64.decode a.toNat).integral s.rm).round f64 s.rm false))
  | .frcpF64 o => some (s.resWu o fun a => BitVec.ofNat 64 (FVal.rcpBits f64 s.rm (f64.decode a.toNat)))
  | .frsqF64 o => some (s.resWu o fun a => BitVec.ofNat 64 (FVal.rsqBits f64 s.rm (f64.decode a.toNat)))
  | .fsqrtF64 o => some (s.resWu o fun a => BitVec.ofNat 64 (FVal.sqrtBits f64 s.rm (f64.decode a.toNat)))
  | .faddF64 o => some (s.resWf o (fun a b => FVal.add s.rdn a b))
  | .fsubF64 o => some (s.resWf o (fun a b => FVal.add s.rdn a b.neg))
  | .fmulF64 o => some (s.resWf o FVal.mul)
  | .fminF64 o => some (s.resWf o FVal.min)
  | .fmaxF64 o => some (s.resWf o FVal.max)
  | .ffmaF64 o => some ⟨s.effMask o.g, [], [], o.d, fun l =>
      BitVec.ofNat 64 ((FVal.add s.rdn ((f64.decode (s.vsrc64 o.a l).toNat).mul (f64.decode (s.bF64 o.b l).toNat))
        (f64.decode (s.vsrc64 o.d l).toNat)).round f64 s.rm false)⟩
  | .fdivF64 o => some ⟨s.effMask o.g, [], [], o.d, fun l =>
      BitVec.ofNat 64 (FVal.divBits f64 s.rm (f64.decode (s.vsrc64 o.a l).toNat) (f64.decode (s.bF64 o.b l).toNat))⟩
  | .cvtS64 o => some (s.resWc o 2)
  | .cvtN64 o => some (s.resWc o 3)
  | .cvtF64 o => some (s.resWc o 4)
  | .vselB64 o => some ⟨s.topMask, [], [], o.d, fun l =>
      if (s.rd.pget o.g.toNat).getLsbD l then s.vsrc64 o.a l else s.bLane64 true o.b l⟩
  | .vmovB64 o => some ⟨s.effMask o.g, [], [], o.d, fun l => s.bLane64 true o.b l⟩
  | .vmovsB64 o => some ⟨s.effMask o.g, [], [], o.d, fun _ => s.sA o⟩
  | _ => none

/-! ### Predicates (09 R202, R205, R215) -/

/-- The operations that write a predicate, but for the votes; the destination field holds the predicate's number. -/
def State.predicateResult (s : State) (i : Instr) : Option (VRes Bool) :=
  let cmp := fun (o : A3) (sx : Bool) (f : Lane → Lane → Bool) =>
    (⟨s.effMask o.g, o.a :: bRegs o.b, [], o.d, fun l => f (s.vsrc o.a l) (s.bLane sx o.b l)⟩ : VRes Bool)
  let cmpW := fun (o : A3) (sx : Bool) (f : Word → Word → Bool) =>
    (⟨s.effMask o.g, [], [], o.d, fun l => f (s.vsrc64 o.a l) (s.bLane64 sx o.b l)⟩ : VRes Bool)
  let cmpF := fun (o : A3) (r : FRel) =>
    (⟨s.effMask o.g, o.a :: bRegs o.b, [], o.d, fun l =>
      r.holds (f32.decode (s.vsrc o.a l).toNat) (f32.decode (s.bF32 o.b l).toNat)⟩ : VRes Bool)
  let cmpFW := fun (o : A3) (r : FRel) =>
    (⟨s.effMask o.g, [], [], o.d, fun l =>
      r.holds (f64.decode (s.vsrc64 o.a l).toNat) (f64.decode (s.bF64 o.b l).toNat)⟩ : VRes Bool)
  let preds := fun (o : A3) (f : Bool → Bool → Bool) =>
    let b := match o.b with
      | .reg x => s.rd.pget x.toNat
      | _ => 0
    (⟨s.effMask o.g, [], [], o.d, fun l => f ((s.rd.pget o.a.toNat).getLsbD l) (b.getLsbD l)⟩ : VRes Bool)
  match i with
  | .vcmpeqI32 o => some (cmp o true (Rel.eq.of true))
  | .vcmpneI32 o => some (cmp o true (Rel.ne.of true))
  | .vcmpltS32 o => some (cmp o true (Rel.lt.of true))
  | .vcmpltN32 o => some (cmp o false (Rel.lt.of false))
  | .vcmpleS32 o => some (cmp o true (Rel.le.of true))
  | .vcmpleN32 o => some (cmp o false (Rel.le.of false))
  | .vcmpeqI64 o => some (cmpW o true (Rel.eq.of true))
  | .vcmpneI64 o => some (cmpW o true (Rel.ne.of true))
  | .vcmpltS64 o => some (cmpW o true (Rel.lt.of true))
  | .vcmpltN64 o => some (cmpW o false (Rel.lt.of false))
  | .vcmpleS64 o => some (cmpW o true (Rel.le.of true))
  | .vcmpleN64 o => some (cmpW o false (Rel.le.of false))
  | .fcmpeqF32 o => some (cmpF o .eq)
  | .fcmpltF32 o => some (cmpF o .lt)
  | .fcmpleF32 o => some (cmpF o .le)
  | .fcmpunF32 o => some (cmpF o .un)
  | .fcmpeqF64 o => some (cmpFW o .eq)
  | .fcmpltF64 o => some (cmpFW o .lt)
  | .fcmpleF64 o => some (cmpFW o .le)
  | .fcmpunF64 o => some (cmpFW o .un)
  | .pand o => some (preds o fun x y => x && y)
  | .por o => some (preds o fun x y => x || y)
  | .pxor o => some (preds o fun x y => x != y)
  | .pandn o => some (preds o fun x y => x && !y)
  | .pmovv o => some ⟨s.effMask o.g, [], [], o.d, fun l => s.rd.vget o.a.toNat l != 0⟩
  | _ => none

/-! ### Several registers at once -/

/-- A result for consecutive registers. -/
structure RunRes where
  mask : LaneMask
  reads : List (BitVec 8)
  d : Nat
  n : Nat
  val : Nat → Nat → Lane

/-- The registers a reservoir operation writes (17 R369). -/
def State.resRsv (s : State) (o : A3) (merge : Bool) : RunRes :=
  let v := fun (i l : Nat) => s.rd.vget i l
  let d := o.d.toNat
  let a := o.a.toNat
  let out := fun (l : Nat) => reservoir (v d l) (v (d + 1) l) (v (d + 2) l) (v (d + 3) l) (cleanWeight (v a l)) (v (a + 1) l)
    (v (if merge then a + 3 else a + 2) l) (if merge then (v (a + 2) l).toNat % 65536 else 1)
    (unitRandom (v (regOr0 o.b).toNat l))
  ⟨s.effMask o.g, [], d, 4, fun j l => (out l).getD j 0⟩

/-- The operations that write consecutive registers, and VSTIX, which writes the indexed one (09 R212, R214). -/
def State.runResult (s : State) (i : Instr) : Option RunRes :=
  match i with
  | .vunpkB8x4 o => some ⟨s.effMask o.g, [o.a], o.d.toNat, 4, fun j l =>
      code32 ((b8Elem (fmtSrc s.fmtSeen) (s.vsrc o.a l) j).round f32 .rne false)⟩
  | .vunpkH2 o => some ⟨s.effMask o.g, [o.a], o.d.toNat, 2, fun j l =>
      code32 ((packElem f16 (s.vsrc o.a l) j).round f32 .rne false)⟩
  | .vunpkBh2 o => some ⟨s.effMask o.g, [o.a], o.d.toNat, 2, fun j l =>
      code32 ((packElem bf16 (s.vsrc o.a l) j).round f32 .rne false)⟩
  | .vstix o =>
    if s.indexed o < s.me.vregs then
      some ⟨s.effMask o.g, [], s.indexed o, 1, fun _ l => s.rd.vget o.d.toNat l⟩
    else none
  | .rsvupd o => some (s.resRsv o false)
  | .rsvmrg o => some (s.resRsv o true)
  | _ => none

/-! ### Cross-lane groups (09 R216-R220, 07 R168) -/

/-- The lanes of a group's tree that a lane's result takes: all of a reduction's, up to itself of a scan's. -/
def groupPart (scan : Bool) (g : List Nat) (l : Nat) : List Nat := if scan then g.filter fun i => decide (i ≤ l) else g

/-- What a masked cross-lane operation gives lane l of group g. -/
inductive CrossRes where
  | lane (f : List Nat → Nat → Lane)
  | vote (f : List Nat → Bool)

/-- The masked cross-lane operations. -/
def State.crossResult (s : State) (i : Instr) : Option (A3 × CrossRes) :=
  let tree := fun (o : A3) (scan : Bool) (comb : Lane → Lane → Lane) =>
    (o, CrossRes.lane fun g l => s.treeSum comb o.a (groupPart scan g l))
  let treeF := fun (o : A3) (scan : Bool) (comb : Lane → Lane → Lane) =>
    (o, CrossRes.lane fun g l => canonF (s.treeSum comb o.a (groupPart scan g l)))
  match i with
  | .xperm o => some (o, .lane fun g l =>
      if g.contains (s.rd.vget o.d.toNat l).toNat then s.rd.vget o.a.toNat (s.rd.vget o.d.toNat l).toNat else 0)
  | .xbcast o => some (o, .lane fun g _ => s.rd.vget o.a.toNat (g.headD 0))
  | .xballot o => some (o, .lane fun g l => BitVec.ofNat 32
      (((g.filter fun i => i / 32 == l % 32 && s.predA o i).map fun i => 2 ^ (i % 32)).sum))
  | .xany o => some (o, .vote fun g => g.any (s.predA o))
  | .xall o => some (o, .vote fun g => g.all (s.predA o))
  | .xredI32 o => some (tree o false (fun a b => a + b))
  | .xredF32 o => some (treeF o false (s.addF))
  | .xredminS32 o => some (tree o false ((minOf true)))
  | .xredminN32 o => some (tree o false ((minOf false)))
  | .xredminF32 o => some (treeF o false ((pickF FVal.min)))
  | .xredmaxS32 o => some (tree o false ((maxOf true)))
  | .xredmaxN32 o => some (tree o false ((maxOf false)))
  | .xredmaxF32 o => some (treeF o false ((pickF FVal.max)))
  | .xscanI32 o => some (tree o true (fun a b => a + b))
  | .xscanF32 o => some (treeF o true (s.addF))
  | _ => none

/-- The membership mask of every participating word satisfies conditions (a) to (c) of 09 R217, or the mask is a code. -/
def State.MembersOk (s : State) (o : A3) : Prop :=
  match o.b with
  | .reg x => s.mismatch (s.effMask o.g) x = 0
  | _ => True

/-! ### Control flow of the S slot (08 R176-R192) -/

/-- What a branch does: whether it is taken, its target, and what it writes to s63. -/
structure BranchRes where
  taken : Bool
  target : Nat
  link : Option Word

/-- The direct and register branches (08 R176). -/
def State.branchResult (s : State) (i : Instr) : Option BranchRes :=
  let dest := fun (o : J19) => (BitVec.ofInt 64 (s.me.pc + o.off.toInt)).toNat
  match i with
  | .br o => some ⟨s.sGuard o.g, dest o, none⟩
  | .brnot o => some ⟨!s.sGuard o.g, dest o, none⟩
  | .call o => some ⟨s.sGuard o.g, dest o, some (BitVec.ofNat 64 (s.me.pc + 1))⟩
  | .ret o => some ⟨s.sGuard o.g, (s.sA o).toNat, none⟩
  | .mbez o => some ⟨s.sGuard o.g && s.topMask == 0, dest o, none⟩
  | _ => none

/-- The S operations that a false guard turns into a NOP and that name no packet of trace then. -/
def guardedS (i : Instr) : Option (BitVec 3) :=
  match i with
  | .mread o => some o.g
  | .tfork o => some o.g
  | .tjoin o => some o.g
  | .endOp o => some o.g
  | .wnext o => some o.g
  | .yield o => some o.g
  | .trap o => some o.g
  | .tret o => some o.g
  | .bkpt o => some o.g
  | .setf o => some o.g
  | .movc o => some o.g
  | .setc o => some o.g
  | .movtc o => some o.g
  | .movbd o => some o.g
  | _ => none

/-- The S operations that only leave a packet under a false guard (21 R423). -/
def guardedFlow (i : Instr) : Option (BitVec 3) :=
  match i with
  | .jidx o => some o.g
  | .vjidx o => some o.g
  | .djoin o => some o.g
  | .lbrk o => some o.g
  | .mpush o => some o.g
  | .minv o => some o.g
  | .mpop o => some o.g
  | _ => none

/-- What a mask operation leaves on the stack, where it does not fault (08 R183, 06 R140). -/
def State.maskResult (s : State) (i : Instr) : Option (A3 × List MaskEntry) :=
  match i with
  | .mpush o =>
    if s.rd.masks.length < (if s.me.handler.isSome then 8 else 32) then
      some (o, ⟨s.topMask &&& s.rd.pget o.a.toNat, false, false, 0, 0⟩ :: s.rd.masks) else none
  | .minv o =>
    match s.rd.masks with
    | top :: below :: r =>
      if top.group = false ∧ top.disp = false then some (o, { top with mask := below.mask &&& ~~~top.mask } :: below :: r)
      else none
    | _ => none
  | .mpop o =>
    match s.rd.masks with
    | top :: below :: r => if top.group = false ∧ top.disp = false then some (o, below :: r) else none
    | _ => none
  | _ => none

/-- The S operations that write FMT, RCPDEPTH (08 R194) where the value is allowed: what they leave. -/
def State.setResult (s : State) (i : Instr) : Option (BitVec 3 × Regs) :=
  let fmt := fun (v : Word) =>
    if fmtOk (v.extractLsb' 0 32) then
      some { s.me.regs with fmtPend := s.me.regs.fmtPend ++ [(5, v.extractLsb' 0 32)] } else none
  match i with
  | .setf o => (fmt (s.sA o)).map fun r => (o.g, r)
  | .setc o =>
    let n := ctlNumber s.rd o.d o.b
    let depth := (s.sA o).extractLsb' 0 4
    if n = 0 then (fmt (s.sA o)).map fun r => (o.g, r)
    else if n = 0x00E ∧ 1 ≤ depth.toNat ∧ depth.toNat ≤ 8 then some (o.g, { s.me.regs with rcpDepth := depth })
    else none
  | _ => none

end Sys2Proof.Machine
end

