-- ==== Sys2Proof/Safety/Effects.lean ====
section
/-!
DEFINITION. What operations of the M slot do beyond the team's registers, in the terms claims use: the frames of memory
accesses, of operations on the team's gang and of committing operations, and the tables of loads and stores.
-/

namespace Sys2Proof.Machine

/-! ### Frames -/

/-- The machine stays as it was but for the executing team, cached translations and lines, and the times at which recipe
tiles were read (13 R297); every byte of memory reads as before. -/
structure State.OnlyMeRead (s t : State) : Prop where
  whole : t = { s with
    teams := tset s.teams s.issue.team t.me
    parts := t.parts
    ms := { s.ms with
      l0 := t.ms.l0, l1 := t.ms.l1, walks := t.ms.walks, l2 := t.ms.l2, sampler := t.ms.sampler } }
  parts : ∀ p, t.part p = { s.part p with rtiles := (t.part p).rtiles }
  tiles : ∀ p n, (t.part p).rtile n = { (s.part p).rtile n with readAt := ((t.part p).rtile n).readAt }
  memory : s.SameMemory t

/-- The machine stays as it was but for the executing team and its gang; every byte of memory reads as before. -/
structure State.OnlyMyGang (s t : State) : Prop where
  whole : t = { s with
    teams := tset s.teams s.issue.team t.me
    gangs := tset s.gangs s.me.gang (t.gang s.me.gang) }
  memory : s.SameMemory t

/-- As `OnlyMyGang`, with numbers drawn for new objects. -/
structure State.OnlyMyGangNew (s t : State) : Prop where
  whole : t = { s with
    teams := tset s.teams s.issue.team t.me
    gangs := tset s.gangs s.me.gang (t.gang s.me.gang)
    uids := t.uids }
  memory : s.SameMemory t

/-! ### Places and their bytes -/

/-- A load of n bytes at a place has them at once: a tile the team may read now (13 Table 13-3), memory of this device
or the gang store; without poison (10 R228). -/
def State.ReadsAtOnce (s : State) (l : Loc) (n : Nat) : Prop :=
  match s.homeLoc l with
  | .recipe t _ => s.tileReadable (s.teamCtx s.issue.team) t = .ok true ∧
    s.badAt s.myGang.part s.me.gang (s.homeLoc l) n = false
  | .phys pa _ => s.isRemote l = false ∧ s.poisonIn pa n = none
  | .gang _ => s.badAt s.myGang.part s.me.gang (s.homeLoc l) n = false

/-- The bytes a load sees at a place: the team's own latest store to each byte, else what the place holds (11 R244). -/
def State.seenAt (s : State) (l : Loc) (n : Nat) : List Byte :=
  forward s.ownStores (s.homeLoc l) 0 (s.readFor (s.teamCtx s.issue.team) s.me.gang (s.homeLoc l) n)

/-- A store to a place is withheld: the place is neither in host memory nor another device's (11 R244, 18 R374). -/
def State.Withholds (s : State) (l : Loc) : Prop := s.isHost l = false ∧ s.isDomain l = false

/-- The latest byte of a list of stores, oldest first, at a place. -/
def latest (l : List HeldStore) (x : Loc) : Option Byte := l.reverse.findSome? fun h => h.byteAt x

/-- The record an operation reads has the given bytes: virtual memory with the team's own stores in it, or the gang store
(11 R259). -/
def State.RecordIs (s : State) (sp : Nat) (va : Word) (n : Nat) (b : List Byte) : Prop :=
  if sp = 1 then ∃ l, s.bankAt va n 1 = .ok l ∧ b = s.seeLoc l n
  else s.gotVa (s.teamCtx s.issue.team) .load s.ownStores s.me.remote va (n / 128 + 2) n = .ok b

/-- The machine once an operation has read a record: the recipe tiles it lies in have been read (13 R297). -/
def State.recordRead (s : State) (sp : Nat) (va : Word) (n : Nat) : State :=
  if sp = 1 then s else s.noteRange (s.teamCtx s.issue.team) va n

/-- A write of n bytes at pa under a key ID leaves byte a its value: every line written was under that key ID, or a lies in
none of them (02 R65; log 76). -/
def State.UnderKey (s : State) (key : BitVec 12) (pa n a : Nat) : Prop :=
  s.keyed key pa n = true ∨ lineOf a ∉ linesOf pa n

/-! ### Tables -/

/-- Operands, bytes a lane and checked place of each per-lane load (11 R241-R243). -/
def State.loadRule (s : State) (i : Instr) : Option (A3 × Nat × (Nat → Except Failure LaneAt)) :=
  let ld := fun (o : A3) (n : Nat) => some (o, n, fun l =>
    s.laneVirtual .load (s.vsrc64 o.a l + s.offS o.b n) n)
  let ldv := fun (o : A3) (n : Nat) => some (o, n, fun l =>
    s.laneVirtual .load (s.sA o + s.offS o.b n + BitVec.ofNat 64 (l * n)) n)
  let ldgs := fun (o : A3) (n : Nat) => some (o, n, fun l => s.laneGang (s.addrGang o n l) n)
  match i with
  | .ldB8 o => ld o 1
  | .ldB16 o => ld o 2
  | .ldB32 o => ld o 4
  | .ldB64 o => ld o 8
  | .ldB128 o => ld o 16
  | .ldvB32 o => ldv o 4
  | .ldvB64 o => ldv o 8
  | .ldvB128 o => ldv o 16
  | .ldgsB32 o => ldgs o 4
  | .ldgsB64 o => ldgs o 8
  | .ldgsB128 o => ldgs o 16
  | _ => none

/-- Operands, bytes a lane and checked place of each per-lane store. -/
def State.storeRule (s : State) (i : Instr) : Option (A3 × Nat × (Nat → Except Failure LaneAt)) :=
  let st := fun (o : A3) (n : Nat) => some (o, n, fun l =>
    s.laneVirtual .store (s.vsrc64 o.a l + s.offS o.b n) n)
  let stv := fun (o : A3) (n : Nat) => some (o, n, fun l =>
    s.laneVirtual .store (s.sA o + s.offS o.b n + BitVec.ofNat 64 (l * n)) n)
  let stgs := fun (o : A3) (n : Nat) => some (o, n, fun l => s.laneGang (s.addrGang o n l) n)
  match i with
  | .stB8 o => st o 1
  | .stB16 o => st o 2
  | .stB32 o => st o 4
  | .stB64 o => st o 8
  | .stB128 o => st o 16
  | .stvB32 o => stv o 4
  | .stvB64 o => stv o 8
  | .stvB128 o => stv o 16
  | .stgsB32 o => stgs o 4
  | .stgsB64 o => stgs o 8
  | .stgsB128 o => stgs o 16
  | _ => none

/-- Guard, destination, bytes and checked place of each scalar load (11 R246, R247). -/
def State.scalarLoadRule (s : State) (i : Instr) : Option (BitVec 3 × BitVec 8 × Nat × Except Failure LaneAt × (Loc → Bool)) :=
  match i with
  | .sldB32 o => some (o.g, o.d, 4, s.scalarAt .load (s.addrS o 4) 4, fun _ => true)
  | .sldB64 o => some (o.g, o.d, 8, s.scalarAt .load (s.addrS o 8) 8, fun _ => true)
  | .ldaB32 o => some (o.g, o.d, 4, s.laneVirtual .load (s.rd.sget o.a.toNat) 4, s.scopeReaches o.scope)
  | .ldaB64 o => some (o.g, o.d, 8, s.laneVirtual .load (s.rd.sget o.a.toNat) 8, s.scopeReaches o.scope)
  | _ => none

/-- Guard, source, bytes and checked place of each scalar store, and when its scope lets it go on. -/
def State.scalarStoreRule (s : State) (i : Instr) : Option (BitVec 3 × BitVec 8 × Nat × Except Failure LaneAt × Bool) :=
  let acked := fun (o : AtomOp) => decide (o.scope.toNat < 4) || s.me.unacked.isEmpty
  match i with
  | .sstB32 o => some (o.g, o.d, 4, s.scalarAt .store (s.addrS o 4) 4, true)
  | .sstB64 o => some (o.g, o.d, 8, s.scalarAt .store (s.addrS o 8) 8, true)
  | .stlB32 o => some (o.g, o.d, 4, s.laneVirtual .store (s.rd.sget o.a.toNat) 4, acked o)
  | .stlB64 o => some (o.g, o.d, 8, s.laneVirtual .store (s.rd.sget o.a.toNat) 8, acked o)
  | _ => none

/-- The lanes of a mask of a destination take loaded bytes (11 R241): types of at most 4 bytes zero-extended into one
register or ring entry, longer ones into consecutive registers, lowest bytes first. -/
def State.TakesData (s t : State) (d : BitVec 8) (size : Nat) (m : LaneMask) (f : Nat → List Byte) : Prop :=
  if size ≤ 4 ∧ isPort d = true then
    t.me.regs = s.me.regs ∧ t.me.held = s.me.held ++ s.portStores d m fun l => BitVec.ofNat 32 (bytesNat (f l))
  else
    t.me.held = s.me.held ∧ s.me.regs.OnlyV t.me.regs ((List.range (regsOf size)).map (d.toNat + ·)) ∧
      ∀ j, j < regsOf size → s.LanesTake t (d.toNat + j) m fun l => BitVec.ofNat 32 (fieldAt (f l) (4 * j) 4)

/-! ### Committing operations of the M slot -/

/-- A committing operation's stores of earlier bundles have been performed and none has failed (13 R478, 18 R374). -/
def State.Settled (s : State) : Prop := s.me.storeQ = [] ∧ s.me.storeFails = []

/-- As `Settled`, and at domain and system scope every remote store has been acknowledged (18 R374). -/
def State.Released (s : State) (scope : Nat) : Prop := s.Settled ∧ (4 ≤ scope → s.me.unacked = [])

/-- The operation commits and does nothing else. -/
def State.CommitsOnly (s t : State) : Prop := s.OnlyMe t ∧ t.me = s.me.committed s.issue.slot

/-! ### Trellis commands (12 R271-R290) -/

/-- A command that a Trellis operation enters: its guard, the machine once the operation has read its records, its
operation, the tiles it reads and writes, the gang's bindings as the command captures them, and the checks it has passed. -/
structure TrellisRule where
  g : BitVec 3
  base : State
  op : TrellisOp
  reads : List Nat
  writes : List Nat
  gang : Gang
  ok : Prop

/-- The capacity of each half of a chain's tiles in elements (12 R291). -/
def State.chainCap (s : State) (d0 h half : Nat) : Nat :=
  (((((List.range (2 * h)).map (· + d0)).drop (half * h)).take h).map fun n => tcRows (s.tcSeen n) * tcCols (s.tcSeen n)).sum

/-- The checks of TCHAIN on its header and step records (12 R290). -/
def State.chainOk (s : State) (d0 h : Nat) (hd : List Byte) (recs : List (List Byte)) : Prop :=
  let d := bitsOf (fieldAt hd 0 4) 6 4 + 1
  let batch := fieldAt hd 2 2 + 1
  let steps := recs.map parseStep
  let bds := s.captureBds
  (∀ n, d0 ≤ n → n < d0 + 2 * h → tcFormat (s.tcSeen n) = 1 ∧ tcScale (s.tcSeen n) = 0) ∧
    chainHeaderOk hd bds = true ∧ (∀ i, i < recs.length → chainStepOk d bds recs i = true) ∧
    (∀ x ∈ steps, x.cfmt = 4 → tget 0 s.myGang.cbs x.cb ≠ 0) ∧
    batch * prodOf (steps.take d) (·.n) ≤ s.chainCap d0 h 0 ∧
    ∀ i, i < recs.length → stepSize d batch bds steps i ≤ s.chainCap d0 h ((i + 1) % 2)

/-- What each Trellis operation enters, given the bytes r of the record it reads and b of TCHAIN's steps. -/
def State.trellisRule (s : State) (r b : List Byte) (i : Instr) : Option TrellisRule :=
  let g := s.myGang
  let fmt := fun (n : Nat) => tcFormat (s.tcSeen n) ≠ 0
  let record := fun (o : A3) => (s.sA o).toNat % 32 = 0 ∧ s.RecordIs o.b.code (s.sA o) 32 r ∧ fmt o.d.toNat ∧
    transferOk (s.tcSeen o.d.toNat) r = true ∧ transferAlign (s.tcSeen o.d.toNat) r = none
  let product := fun (o : A3) (kind : Nat) => some (⟨o.g, s, .tmma kind o.d.toNat o.a.toNat o.b.code, [o.a.toNat, o.b.code],
    [o.d.toNat], g, fmt o.d.toNat ∧ fmt o.a.toNat ∧ fmt o.b.code ∧
      productFormats kind (s.tcSeen o.a.toNat) (s.tcSeen o.b.code) = true ∧
      (tcFormat (s.tcSeen o.d.toNat) = 1 ∨ tcFormat (s.tcSeen o.d.toNat) = 2) ∧
      productShape kind (s.tcSeen o.d.toNat) (s.tcSeen o.a.toNat) (s.tcSeen o.b.code) = none ∧
      (kind = 2 → tget 0 g.cbs (tcCb (s.tcSeen o.b.code)) ≠ 0)⟩ : TrellisRule)
  match i with
  | .tld o => some ⟨o.g, s.recordRead o.b.code (s.sA o) 32, .tld o.d.toNat r, [], [o.d.toNat], g, record o⟩
  | .tst o => some ⟨o.g, s.recordRead o.b.code (s.sA o) 32, .tst o.d.toNat r, [o.d.toNat], [], g, record o⟩
  | .tzero o => some ⟨o.g, s, .tzero o.d.toNat, [], [o.d.toNat], g, fmt o.d.toNat⟩
  | .tmma o => product o 0
  | .tmmaq o => product o 1
  | .tmmav o => product o 2
  | .tcvt o => some ⟨o.g, s, .tcvt o.d.toNat o.a.toNat, [o.a.toNat], [o.d.toNat], g,
      fmt o.d.toNat ∧ fmt o.a.toNat ∧ convertOk (s.tcSeen o.a.toNat) (s.tcSeen o.d.toNat) = true ∧
      tcRows (s.tcSeen o.a.toNat) = tcRows (s.tcSeen o.d.toNat) ∧ tcCols (s.tcSeen o.a.toNat) = tcCols (s.tcSeen o.d.toNat)⟩
  | .cbload o =>
    let n := (sB s.rd false o.b).toNat
    some ⟨o.g, s.refill (s.sA o), .cbload n (s.sA o), [], [], { g with cbs := tset g.cbs n (s.sA o) },
      n ≤ 63 ∧ (s.sA o = 0 ∨ (∃ x, s.check (s.teamCtx s.issue.team) .load (s.sA o) 2048 2048 = .ok x) ∨
        s.check (s.teamCtx s.issue.team) .load (s.sA o) 2048 2048 = .error .keyInvalid)⟩
  | .tchain o =>
    let n := bitsOf (fieldAt r 0 4) 3 0 + 1
    let v := s.recordRead 0 (s.sA o) 32
    some ⟨o.g, v.recordRead 0 (s.sA o + 32) (32 * n), .tchain o.d.toNat o.b.code (fieldAt r 2 2 + 1) (bitsOf (fieldAt r 0 4) 6 4 + 1) ((pieces 32 n b).map parseStep),
      [], (List.range (2 * o.b.code)).map (· + o.d.toNat), g,
      o.d.toNat + 2 * o.b.code ≤ g.ntile ∧ (s.sA o).toNat % 32 = 0 ∧ s.RecordIs 0 (s.sA o) 32 r ∧
      v.RecordIs 0 (s.sA o + 32) (32 * n) b ∧ s.chainOk o.d.toNat o.b.code r (pieces 32 n b)⟩
  | _ => none

/-! ### Tiles of the Churn (13) -/

/-- What a recipe operation does to tile n in state st: the machine after it, and whether anything changed. -/
def State.recipeRule (s : State) (n : Nat) (st : TileState) (i : Instr) : Option (A3 × State × Bool) :=
  let p := s.myGang.part
  let pins := ((s.part p).rtile n).pins
  match i with
  | .seal o => some (o, if st = .opened then
      (s.setTileState p n .sealed false).modTile p n fun t => { t with resident := true, readAt := s.cycle } else s,
      st = .opened)
  | .rpin o => if st = .dropped then none else
      if st = .free ∨ pins = 0xFFFF then some (o, s, false)
      else some (o, s.modTile p n fun t => { t with pins := t.pins + 1 }, true)
  | .runpin o => if st = .free ∨ pins = 0 then some (o, s, false)
      else some (o, s.modTile p n fun t => { t with pins := t.pins - 1 }, true)
  | .rdrop o =>
    if o.b.code = 0 then
      if st = .sealed ∧ pins = 0 ∧ s.hpin p n = false then some (o, s.dropTile p n, true) else some (o, s, false)
    else if st = .recompute ∨ ((st = .sealed ∨ st = .dropped) ∧ s.hpin p n = true) then some (o, s, false)
    else some (o, if st = .free then s else s.freeTile p n, true)
  | _ => none

/-! ### Atomics (15 R324-R326) -/

/-- The atomics: map-0 opcode and bytes. -/
def atomRule (i : Instr) : Option (AtomOp × Nat × Nat) :=
  match i with
  | .atomaddI32 o => some (o, 0x2E0, 4)
  | .atomaddI64 o => some (o, 0x2E1, 8)
  | .atomaddF32 o => some (o, 0x2E2, 4)
  | .atomminS32 o => some (o, 0x2E3, 4)
  | .atomminN32 o => some (o, 0x2E4, 4)
  | .atommaxS32 o => some (o, 0x2E5, 4)
  | .atommaxN32 o => some (o, 0x2E6, 4)
  | .atomandB32 o => some (o, 0x2E7, 4)
  | .atomorB32 o => some (o, 0x2E8, 4)
  | .atomxorB32 o => some (o, 0x2E9, 4)
  | .atomxchgB32 o => some (o, 0x2EA, 4)
  | .atomxchgB64 o => some (o, 0x2EB, 8)
  | .atomcasB32 o => some (o, 0x2EC, 4)
  | .atomcasB64 o => some (o, 0x2ED, 8)
  | _ => none

/-- The effective lanes of an atomic that have not yet performed their step (19 R391). -/
def State.atomMask (s : State) (o : AtomOp) : LaneMask :=
  s.effMask o.g &&& ~~~((s.me.flight.map (·.performed)).getD 0)

/-- The machine in which an atomic's lanes have used their translations. -/
def State.atomNoted (s : State) (o : AtomOp) (l : List (Nat × LaneAt)) : State :=
  if o.scope.toNat ≤ 1 then s else s.noteLanes l

/-- The team once lane l's step has been performed: the lane joins MLANES, and with NR = 0 lane l of D holds the old
value, low word first. -/
def Team.stepped (t : Team) (o : AtomOp) (size l : Nat) (old : Word) : Team :=
  let t1 : Team := { t with
    flight := t.flight.map fun f => { f with performed := f.performed ||| (1#1024 <<< l) }
    ckpt := { t.ckpt with mlanes := t.ckpt.mlanes ||| (1#1024 <<< l) } }
  if o.nr then t1
  else t1.both fun r =>
    let r1 := r.vput t.lanes o.d.toNat (1#1024 <<< l) fun _ => old.extractLsb' 0 32
    if size = 4 then r1 else r1.vput t.lanes (o.d.toNat + 1) (1#1024 <<< l) fun _ => old.extractLsb' 32 32

end Sys2Proof.Machine
end

