-- ==== Sys2Proof/Safety/Lines.lean ====
section
/-!
DEFINITION. What Belvedere's line cores do, in the terms claims use: the frame of a slot operation and the table of the
registers each operation writes (23 R451-R462).
-/

namespace Sys2Proof.Machine

/-- The machine stays as it was but for the executing line core; every byte of memory reads as before. -/
structure State.OnlyLine (s t : State) : Prop where
  whole : t = { s with lineCores := tset s.lineCores s.issue.core t.lc }
  memory : s.SameMemory t

/-- A result for a line core's registers: its number and values; for lanes and flags, the mask as well. -/
inductive LineRes where
  | g (d : Nat) (v : Lane)
  | k (d n : Nat) (m : BitVec 64) (f : Nat → Nat → Lane)
  | f (d : Nat) (m : BitVec 64) (f : Nat → Bool)
  | m (d : Nat) (f : Nat → Lane)

/-- No register differs but those of the result, and these hold its values: g0 reads 0 and f0 all ones, and both discard
writes (23 Table 23-2). -/
def BRegs.Takes (r q : BRegs) : LineRes → Prop
  | .g d v => q = { r with g := q.g } ∧ q.gget d = (if d = 0 then 0 else v) ∧ ∀ j, j ≠ d → q.gget j = r.gget j
  | .k d n m f => q = { r with k := q.k } ∧
      (∀ j l, j < n → l < 64 → q.kget (d + j) l = if m.getLsbD l then f j l else r.kget (d + j) l) ∧
      ∀ x l, (x < d ∨ d + n ≤ x) → q.kget x l = r.kget x l
  | .f d m f => q = { r with f := q.f } ∧ (∀ j, j ≠ d → q.fget j = r.fget j) ∧
      ∀ l, l < 64 → (q.fget d).getLsbD l =
        if d = 0 then true else if m.getLsbD l then f l else (r.fget d).getLsbD l
  | .m d f => q = { r with m := q.m } ∧ (∀ i j, i < 64 → j < 64 → q.mget d i j = f (64 * i + j)) ∧
      ∀ x i j, x ≠ d → q.mget x i j = r.mget x i j

/-- The operation writes its result to the core's registers and changes nothing else. -/
def State.LineTakes (s t : State) (x : LineRes) : Prop :=
  s.OnlyLine t ∧ t.lc = { s.lc with regs := t.lc.regs } ∧ s.lc.regs.Takes t.lc.regs x

/-- The line core's matrix operation, if any, has completed (23 R462). -/
def State.MatrixDone (s : State) : Prop := s.lc.matrix = none

/-- The flagged lanes' places are aligned and in line memory (23 R460). -/
def State.InLines (s : State) (o : BrOp) (at_ : Nat → Nat) : Prop :=
  ∀ l, l < 64 → (s.br.fget o.g.toNat).getLsbD l = true → at_ l % 4 = 0 ∧ at_ l + 4 ≤ lineMemory

/-- No flagged lane's place lies in a poisoned line (10 R228). -/
def State.LinesClean (s : State) (o : BrOp) (at_ : Nat → Nat) : Prop :=
  ∀ l, l < 64 → (s.br.fget o.g.toNat).getLsbD l = true → badLine s.lc.bad (at_ l) 4 = none

/-- What each operation writes to the core's registers, and when it does. -/
def State.lineRule (s : State) (i : Instr) : Option (Prop × LineRes) :=
  let g := fun (o : BrOp) (f : Lane → Lane → Lane) => some (True, LineRes.g o.d.toNat (f (s.br.gget o.a.toNat) (s.gB o)))
  let k := fun (o : BrOp) (f : Nat → Nat) =>
    some (True, LineRes.k o.d.toNat 1 (s.br.fget o.g.toNat) fun _ l => BitVec.ofNat 32 (f l))
  let a := fun (o : BrOp) (l : Nat) => laneAs (opType o) (s.br.kget o.a.toNat l)
  let p := fun (o : BrOp) (f : FVal → FVal → FVal → FVal) => k o fun l =>
    (f (a o l) (laneAs (opType o) (s.pB o l)) (laneAs (opType o) (s.br.kget o.d.toNat l))).round (opType o) .rne false
  let ld := fun (o : BrOp) (at_ : Nat → Nat) => some (s.InLines o at_ ∧ s.LinesClean o at_,
    LineRes.k o.d.toNat 1 (s.br.fget o.g.toNat) fun _ l => BitVec.ofNat 32 (bytesNat (Memory.readBytes s.lc.lmem (at_ l) 4)))
  let fx := fun (o : BrOp) (n : Nat) (f : Nat → Except Failure (List Nat)) =>
    some (∀ l, l < 64 → (s.br.fget o.g.toNat).getLsbD l = true → ∃ v, f l = .ok v,
      LineRes.k o.d.toNat n (s.br.fget o.g.toNat) fun j l => BitVec.ofNat 32 (match f l with
        | .ok v => v.getD j 0
        | .error _ => 0))
  let now := s.bandHead.ltc - s.bandRun.start
  match i with
  | .gadd o => g o fun a b => a + b
  | .gsub o => g o fun a b => a - b
  | .gmul o => g o fun a b => a * b
  | .gand o => g o fun a b => a &&& b
  | .gor o => g o fun a b => a ||| b
  | .gxor o => g o fun a b => a ^^^ b
  | .gshl o => g o fun a b => a <<< (b.toNat % 32)
  | .gshr o => g o fun a b => a >>> (b.toNat % 32)
  | .gcmplt o => g o fun a b => if (if o.m.getLsbD 1 then a.ult b else a.slt b) then 1 else 0
  | .gcmpeq o => g o fun a b => if a = b then 1 else 0
  | .gmovi o => some (True, .g o.d.toNat (o.i.signExtend 32))
  | .pose o => some (True, .g o.d.toNat (s.poseItem o.b.toNat))
  | .waittk o => some ((s.br.gget o.a.toNat + s.gB o).toNat ≤ now.toNat, .g o.d.toNat (now.extractLsb' 0 32))
  | .padd o => p o fun a b _ => FVal.add false a b
  | .psub o => p o fun a b _ => FVal.add false a b.neg
  | .pmul o => p o fun a b _ => FVal.mul a b
  | .pfma o => p o fun a b d => FVal.add false (FVal.mul a b) d
  | .pmin o => p o fun a b _ => FVal.min a b
  | .pmax o => p o fun a b _ => FVal.max a b
  | .plerp o => p o fun a b t => FVal.add false a (FVal.mul t (FVal.add false b a.neg))
  | .pcmplt o => some (True, .f o.d.toNat (s.br.fget o.g.toNat) fun l =>
      (a o l).cmp (laneAs (opType o) (s.pB o l)) == some .lt)
  | .psel o => some (True, .k o.d.toNat 1 (BitVec.allOnes 64) fun _ l =>
      BitVec.ofNat 32 ((if (s.br.fget o.g.toNat).getLsbD l then s.br.kget o.a.toNat l else s.pB o l).toNat %
        2 ^ (opType o).width))
  | .pcvt o => k o fun l => pcvt o.m.toNat (s.br.kget o.a.toNat l)
  | .prcp o => k o fun l => FVal.rcpBits (opType o) .rne (a o l)
  | .prsq o => k o fun l => FVal.rsqBits (opType o) .rne (a o l)
  | .plane o => k o fun l => (FVal.fin false l 0).round (opType o) .rne false
  | .pmovg o => k o fun _ => (s.br.gget o.a.toNat).toNat
  | .pxform o => some (s.MatrixDone, .k o.d.toNat 3 (s.br.fget o.g.toNat) fun r l =>
      let term := fun (k : Nat) =>
        FVal.mul (f32.decode (s.br.mget o.b.toNat r k).toNat) (f32.decode (s.br.kget (o.a.toNat + k) l).toNat)
      BitVec.ofNat 32 (rd32 (FVal.add false (FVal.add false (term 0) (term 1)) (term 2))))
  | .lld o => ld o (s.lineAddr o)
  | .gather o => ld o fun l => (s.br.gget o.b.toNat).toNat + (s.br.kget o.a.toNat l).toNat
  | .xfetch o => fx o ([4, 1, 2].getD o.m.toNat 1) fun l => s.fetchLane o.m.toNat (s.coordsAt o l).1 (s.coordsAt o l).2
  | .warps o => fx o 4 fun l => s.warpLane o.m.toNat (s.coordsAt o l).1 (s.coordsAt o l).2
  | .mld o =>
    let at_ := (s.br.gget o.a.toNat).toNat
    some (s.MatrixDone ∧ at_ % 4 = 0 ∧ at_ + mTileBytes ≤ lineMemory ∧ badLine s.lc.bad at_ mTileBytes = none, .m o.d.toNat fun e =>
      BitVec.ofNat 32 (bytesNat (Memory.readBytes s.lc.lmem (at_ + 4 * e) 4)))
  | _ => none

end Sys2Proof.Machine
end

