-- ==== Sys2Proof/Safety/Events.lean ====
section
/-!
DEFINITION. What the claims about events say in common: what an event leaves as it was, and when nothing else follows
from it.
-/

namespace Sys2Proof.Machine

/-- Where sequential flow goes that leaves a position, and the loop records it leaves behind: the innermost loop whose body
ends there repeats, or, over, its record goes and the loop around it acts in turn (08 R180, 23 R455). -/
def afterLoops {L : Type} (last first : L → Nat) (done : L → Bool) (again : L → L) (at_ : Nat) : List L → List L × Nat
  | [] => ([], at_ + 1)
  | l :: rest =>
    if last l ≠ at_ then (l :: rest, at_ + 1)
    else if done l then afterLoops last first done again at_ rest
    else (again l :: rest, first l)

/-- The same for a team: a LOOP is over with its last pass, a LOOPW where its walker's flag of its dimension is set. -/
def State.teamLoops (s : State) (u at_ : Nat) : List LoopRec × Nat :=
  let g := s.gang (s.team u).gang
  afterLoops (fun l : LoopRec => l.last.toNat) (fun l => l.first.toNat)
    (fun l => if l.loopw then (g.walker l.walker.toNat).flag l.dim.toNat else l.remain == 1)
    (fun l => { l with remain := if l.loopw then 0 else l.remain - 1 }) at_ (s.team u).regs.loops

/-- The same for a line core. -/
def LineCore.afterBundle (c : LineCore) (at_ : Nat) : List BLoop × Nat :=
  afterLoops (fun l : BLoop => l.last) (fun l => l.first) (fun l => l.left == 1) (fun l => { l with left := l.left - 1 }) at_ c.loops

/-- The host's registers answer: the device is ready (02 R64). -/
def State.Answers (s : State) : Prop := s.mgmt.phase = 4

/-- No work queue holds a consumer launch that waits for room in a launch queue (01 R41). -/
def State.NoTakes (s : State) : Prop := ∀ x ∈ s.parts, ∀ w ∈ x.2.wqs, w.2.pending = []

/-- No open work queue of a partition closes on a timeline slot (01 R42). -/
def State.NoCloses (s : State) (p : Nat) : Prop := ∀ w ∈ (s.part p).wqs, (w.2.enable && w.2.closeEn) = false

/-- Nothing but launch queue q changes. -/
structure State.OnlyQueue (s t : State) (q : Nat) : Prop where
  whole : t = { s with queues := tset s.queues q (t.queue q) }
  memory : s.SameMemory t

/-- Nothing but partition p changes; memory reads as before. -/
structure State.OnlyPart (s t : State) (p : Nat) : Prop where
  whole : t = { s with parts := tset s.parts p (t.part p) }
  memory : s.SameMemory t

/-- Nothing but team u changes. -/
structure State.OnlyTeam (s t : State) (u : Nat) : Prop where
  whole : t = { s with teams := tset s.teams u (t.team u) }
  memory : s.SameMemory t

/-- Nothing but core n changes. -/
structure State.OnlyCore (s t : State) (n : Nat) : Prop where
  whole : t = { s with cores := tset s.cores n (t.core n) }
  memory : s.SameMemory t

/-- Nothing but head h changes. -/
structure State.OnlyHead (s t : State) (h : Nat) : Prop where
  whole : t = { s with heads := tset s.heads h (t.head h) }
  memory : s.SameMemory t

/-- The machine while an engine carries out work under the translations that work keeps (10 R238). -/
def State.keeping (s : State) (e : EngId) (m : Mapping) : State :=
  { s with issue := { s.issue with pages := m.pages, eng := e } }

/-- The machine once such work is over. -/
def State.letGo (s : State) : State := { s with issue := { s.issue with pages := [], eng := .none } }

end Sys2Proof.Machine
end

