-- ==== Sys2Proof/Certificates/Slice0/Obligations.lean ====
section
/-!
DEFINITION. The statements of this slice, for the provers.
-/

open Sys2Proof Sys2Proof.Machine

/-! ### Scalar operations -/

/-- R171, R172, R173, R175, R184, R193: the scalar operations give s[D] the value of their table and change nothing else;
under a false guard they only complete.
R174: the scalar compares and the condition operations give c[D] the relation and change nothing else. -/
def Obligations.ScalarResults : Prop :=
  (∀ (i : Instr) (s : State) (r : SRes Word), s.scalarResult i = some r →
     ∃ t, exec i s = .next t ∧ s.SetsS t r.d r.acts r.val) ∧
  (∀ (i : Instr) (s : State) (r : SRes Bool), s.conditionResult i = some r → r.d < 8 →
     ∃ t, exec i s = .next t ∧ s.SetsC t r.d r.acts r.val)

/-- R173: SSEL gives s[D] the value of A where c[G] = 1, and of B otherwise; with G = 0 it always gives A. -/
def Obligations.SselSelects : Prop :=
  ∀ (o : A3) (s : State), ∃ t, exec (.ssel o) s = .next t ∧
    s.SetsS t o.d.toNat true (if o.g = 0 ∨ s.rd.cget o.g.toNat = true then s.sA o else sB s.rd true o.b)

/-- R184: MREAD gives s[D] the item its selector chooses, zero-extended: a mask word, the summary word, the depth of the mask
stack or of the loop stack; any other selector faults OPERAND_INVALID. -/
def Obligations.MreadSelects : Prop :=
  ∀ (o : A3) (s : State), s.sGuard o.g = true →
    let k := (sB s.rd false o.b).toNat
    (k < 35 → ∃ t, exec (.mread o) s = .next t ∧
      s.SetsS t o.d.toNat true
        (if k < 32 then (maskWord s.rd.top.mask k).zeroExtend 64
        else if k = 32 then (summary s.rd.top.mask).zeroExtend 64
        else if k = 33 then BitVec.ofNat 64 s.rd.masks.length
        else BitVec.ofNat 64 s.rd.loops.length)) ∧
    (35 ≤ k → exec (.mread o) s =
      .next (s.takeFault s.issue.team ⟨.operandInvalid, s.myGang.image.bundleVa s.me.pc, s.issue.slot, s.topMask⟩))

/-! ### Vector operations -/

/-- R197, R200-R215: an operation with a 32-bit result whose ring ports are ready gives the active lanes of v[D] their
values and changes nothing else.
An operation with a 64-bit result gives the active lanes of v[D:D+1] their values and changes nothing else.
R202, R205, R215: the compares and predicate operations give the active lanes' bits of p[D] the relation, and change nothing
else.
R212, R214, R369: the operations with a run of registers as their result give the active lanes of each register of it their
values, and change nothing else. -/
def Obligations.VectorResults : Prop :=
  (∀ (i : Instr) (s : State) (r : VRes Lane), s.vectorResult i = some r →
     (∀ x ∈ r.reads, s.SourceReady x) → (∀ x ∈ r.writes, s.DestReady x) →
     ∃ t, exec i s = .next t ∧ s.SetsV t r.d r.mask r.val) ∧
  (∀ (i : Instr) (s : State) (r : VRes Word), s.wideResult i = some r →
     (∀ x ∈ r.reads, s.SourceReady x) → ∃ t, exec i s = .next t ∧ s.SetsV64 t r.d r.mask r.val) ∧
  (∀ (i : Instr) (s : State) (r : VRes Bool), s.predicateResult i = some r →
     s.me.lanes ≤ 1024 → (∀ x ∈ r.reads, s.SourceReady x) → ∃ t, exec i s = .next t ∧ s.SetsP t r.d.toNat r.mask r.val) ∧
  (∀ (i : Instr) (s : State) (r : RunRes), s.runResult i = some r →
     (∀ x ∈ r.reads, s.SourceReady x) → ∃ t, exec i s = .next t ∧ s.SetsRun t r.d r.n r.mask r.val)

/-- R216-R220: a cross-lane operation whose membership masks pass their checks gives each lane of its groups, in v[D] or as a
bit of p[D], the value its table forms over the lanes of that lane's group, and changes nothing else. -/
def Obligations.CrossLaneResults : Prop :=
  ∀ (i : Instr) (s : State) (o : A3) (f : CrossRes), s.crossResult i = some (o, f) → s.me.lanes ≤ 1024 →
    s.MembersOk o →
    let gs := s.groups (s.effMask o.g) o.b
    ∃ t, exec i s = .next t ∧
      match f with
      | .lane f => s.SetsV t o.d (members gs) fun l => f (groupOf gs l) l
      | .vote f => s.SetsP t o.d.toNat (members gs) fun l => f (groupOf gs l)

/-! ### Control -/

/-- R170: a false guard makes the operation a NOP.
NOP and CKPT complete and do nothing else; the checkpoint of CKPT is taken at dispatch (R192).
R139, R240: an operation of the M slot whose effective mask is empty makes no access and has no effect; a committing one
leaves its slot in the checkpoint that it took. -/
def Obligations.FalseGuardIsNop : Prop :=
  (∀ (i : Instr) (s : State),
     (∀ g, guardedS i = some g → s.sGuard g = false → ∃ t, exec i s = .next t ∧ s.NoEffect t) ∧
     (∀ g, guardedFlow i = some g → s.sGuard g = false →
       ∃ t, exec i s = .next t ∧ s.OnlyMeTraced t ∧ t.me = s.me.marked s.issue.slot)) ∧
  (∀ (i : Instr) (s : State), (∃ x, i = .nop x) ∨ (∃ o, i = .ckpt o) → ∃ t, exec i s = .next t ∧ s.NoEffect t) ∧
  (∀ (i : Instr) (s : State), 0x280 ≤ i.opNum → s.effMask i.guard = 0 → ∃ t, exec i s = .next t ∧ s.OnlyMe t ∧
     t.me = if i.commits s.rd then s.me.committed s.issue.slot else s.me.marked s.issue.slot)

/-- R176: a branch that is taken leads the bundle's flow to its target, CALL writes s63, and nothing else changes but
trace. -/
def Obligations.BranchResults : Prop :=
  ∀ (i : Instr) (s : State) (b : BranchRes), s.branchResult i = some b →
    ∃ t, exec i s = .next t ∧ s.OnlyMeTraced t ∧
      t.me = (if b.taken then
          { (s.me.flowing (.jump b.target)).marked s.issue.slot with
            regs := match b.link with
              | some v => s.me.regs.sset 63 v
              | none => s.me.regs }
        else s.me.marked s.issue.slot)

/-- R177, R25: JIDX with an index inside the table continues at the entry that the team's translation reads at DTBASE +
4 × index; at or past DTLEN it faults DISPATCH_RANGE with the index as FADDR (R403), and a failure of that read faults
with its own code.
R235, R372, R373 (the model's choice, log 13): the team itself reads its dispatch table; an entry on another device is
asked of its owner and awaited as a load is. -/
def Obligations.JidxBranches : Prop :=
  ∀ (o : A3) (s : State) (k : Nat), s.sGuard o.g = true →
    ((s.sA o).toNat < s.myGang.image.dtLen → s.dispatchEntry (s.sA o).toNat = .ok k →
      ∃ t, exec (.jidx o) s = .next t ∧ s.OnlyMeCached t ∧ t.me = (s.me.flowing (.jump k)).marked s.issue.slot) ∧
    (s.myGang.image.dtLen ≤ (s.sA o).toNat →
      exec (.jidx o) s = .next (s.takeFault s.issue.team ⟨.dispatchRange, s.sA o, s.issue.slot, s.topMask⟩)) ∧
    (∀ f, (s.sA o).toNat < s.myGang.image.dtLen → s.entryGot (s.sA o).toNat = .fail f →
      exec (.jidx o) s = .next (s.takeFault s.issue.team ⟨f.code, f.addr, s.issue.slot, s.topMask⟩)) ∧
    (∀ d q a, (s.sA o).toNat < s.myGang.image.dtLen → s.entryGot (s.sA o).toNat = .remote d q a →
      ∃ t, exec (.jidx o) s = .next t ∧ s.OnlyMe t ∧ t.me.waits = s.me.waits ++ [.remote] ∧ t.me.regs = s.me.regs ∧
        (t.me.asked d q a).isSome = true)

/-- R178: VJIDX pushes the lanes not served and, above them, the lanes whose index is the least, and continues at that
index's entry.
R179: DJOIN serves the next group of the remainder, or pops both entries and continues after VJIDX when none is left.
R178, R179, R407: with no active lane VJIDX does nothing; indices past the table fault DISPATCH_RANGE with the set of their
lanes and the index of the lowest; no room for two entries, or no group entry on top, faults MASK_STACK. -/
def Obligations.VjidxServesLeast : Prop :=
  (∀ (o : A3) (s : State) (i k : Nat), s.sGuard o.g = true →
     (∃ l ∈ s.active s.topMask, (s.rd.vget o.a.toNat l).toNat = i) →
     (∀ l ∈ s.active s.topMask, i ≤ (s.rd.vget o.a.toNat l).toNat ∧ (s.rd.vget o.a.toNat l).toNat < s.myGang.image.dtLen) →
     s.dispatchEntry i = .ok k → s.rd.masks.length + 2 ≤ (if s.me.handler.isSome then 8 else 32) →
     let g := maskOf ((s.active s.topMask).filter fun l => (s.rd.vget o.a.toNat l).toNat == i)
     ∃ t, exec (.vjidx o) s = .next t ∧ s.OnlyMeCached t ∧
       t.me = { (s.me.flowing (.jump k)).marked s.issue.slot with
         regs := { s.me.regs with masks :=
           ⟨g, false, true, 0, 0⟩ ::
             ⟨s.topMask &&& ~~~g, true, false, o.a.extractLsb' 0 6, BitVec.ofNat 32 (s.me.pc + 1)⟩ :: s.me.regs.masks } }) ∧
  (∀ (o : A3) (s : State) (top rem : MaskEntry) (below : List MaskEntry), s.sGuard o.g = true →
     s.rd.masks = top :: rem :: below → s.me.regs.masks = s.rd.masks → top.group = true →
     (s.active rem.mask = [] →
       ∃ t, exec (.djoin o) s = .next t ∧ s.OnlyMeTraced t ∧
         t.me = { (s.me.flowing (.jump rem.join.toNat)).marked s.issue.slot with regs := { s.me.regs with masks := below } }) ∧
     (∀ i k, (∃ l ∈ s.active rem.mask, (s.rd.vget rem.idxReg.toNat l).toNat = i) →
       (∀ l ∈ s.active rem.mask,
         i ≤ (s.rd.vget rem.idxReg.toNat l).toNat ∧ (s.rd.vget rem.idxReg.toNat l).toNat < s.myGang.image.dtLen) →
       s.dispatchEntry i = .ok k →
       let g := maskOf ((s.active rem.mask).filter fun l => (s.rd.vget rem.idxReg.toNat l).toNat == i)
       ∃ t, exec (.djoin o) s = .next t ∧ s.OnlyMeCached t ∧
         t.me = { (s.me.flowing (.jump k)).marked s.issue.slot with
           regs := { s.me.regs with
             masks := { top with mask := g } :: { rem with mask := rem.mask &&& ~~~g } :: below } })) ∧
  (∀ (o : A3) (s : State), s.sGuard o.g = true → s.active s.topMask = [] →
     ∃ t, exec (.vjidx o) s = .next t ∧ s.OnlyMeTraced t ∧ t.me = s.me.marked s.issue.slot) ∧
  (∀ (o : A3) (s : State), s.sGuard o.g = true → s.me.lanes ≤ 1024 →
     let past := fun (r : Nat) (m : LaneMask) =>
       (s.active m).filter fun l => decide (s.myGang.image.dtLen ≤ (s.rd.vget r l).toNat)
     let refused := fun (r : Nat) (m : LaneMask) (l : Nat) => s.takeFault s.issue.team
       ⟨.dispatchRange, (s.rd.vget r l).setWidth 64, s.issue.slot, maskOf (past r m)⟩
     let stackFault := s.takeFault s.issue.team
       ⟨.maskStack, s.myGang.image.bundleVa s.me.pc, s.issue.slot, s.topMask⟩
     (∀ l ls, past o.a.toNat s.topMask = l :: ls → exec (.vjidx o) s = .next (refused o.a.toNat s.topMask l)) ∧
     (∀ top rem below l ls, s.rd.masks = top :: rem :: below → top.group = true →
       past rem.idxReg.toNat rem.mask = l :: ls →
       exec (.djoin o) s = .next (refused rem.idxReg.toNat rem.mask l)) ∧
     (s.active s.topMask ≠ [] → past o.a.toNat s.topMask = [] →
       (if s.me.handler.isSome then 8 else 32) < s.rd.masks.length + 2 → exec (.vjidx o) s = .next stackFault) ∧
     ((∀ top rem below, s.rd.masks = top :: rem :: below → top.group = false) → exec (.djoin o) s = .next stackFault))

/-- R180, R181: LOOP pushes its record, or leaves its body at a count of 0; LOOPW pushes its record; LBRK pops the
innermost record and leaves that loop's body.
A push at depth 4, and LBRK at depth 0, fault LOOP_NEST. -/
def Obligations.LoopResults : Prop :=
  ∀ (s : State),
    (∀ o : LpOp, s.rd.sget o.n.toNat = 0 →
      ∃ t, exec (.loopOp o) s = .next t ∧ s.OnlyMeTraced t ∧
        t.me = (s.me.flowing (.leave (s.me.pc + o.len.toNat))).marked s.issue.slot) ∧
    (∀ o : LpOp, s.rd.sget o.n.toNat ≠ 0 → s.rd.loops.length < 4 →
      ∃ t, exec (.loopOp o) s = .next t ∧ s.OnlyMeTraced t ∧ s.me.LevelRestarts t.me ∧
        t.me = { s.me.marked s.issue.slot with
          counters := t.me.counters
          regs := { s.me.regs with loops :=
            ⟨BitVec.ofNat 32 (s.me.pc + 1), BitVec.ofNat 32 (s.me.pc + o.len.toNat), s.rd.sget o.n.toNat, 0, 0, false,
              s.me.pc⟩ :: s.me.regs.loops } }) ∧
    (∀ o : LpOp, s.rd.loops.length < 4 →
      ∃ t, exec (.loopw o) s = .next t ∧ s.OnlyMe t ∧ s.me.LevelRestarts t.me ∧
        t.me = { s.me.marked s.issue.slot with
          counters := t.me.counters
          regs := { s.me.regs with loops :=
            ⟨BitVec.ofNat 32 (s.me.pc + 1), BitVec.ofNat 32 (s.me.pc + o.len.toNat), 0, o.n.extractLsb' 0 3,
              o.n.extractLsb' 3 2, true, s.me.pc⟩ :: s.me.regs.loops } }) ∧
    (∀ (o : A3) l r, s.sGuard o.g = true → s.rd.loops = l :: r → s.me.regs.loops = s.rd.loops →
      ∃ t, exec (.lbrk o) s = .next t ∧ s.OnlyMeTraced t ∧
        t.me = { (s.me.flowing (.leave l.last.toNat)).marked s.issue.slot with regs := { s.me.regs with loops := r } }) ∧
    (let nest := s.takeFault s.issue.team ⟨.loopNest, s.myGang.image.bundleVa s.me.pc, s.issue.slot, s.topMask⟩
     (∀ o : LpOp, 4 ≤ s.rd.loops.length →
       (s.rd.sget o.n.toNat ≠ 0 → exec (.loopOp o) s = .next nest) ∧ exec (.loopw o) s = .next nest) ∧
     (∀ o : A3, s.sGuard o.g = true → s.rd.loops = [] → exec (.lbrk o) s = .next nest))

/-- R183: MPUSH, MINV and MPOP replace the mask stack and nothing else.
R140, R179, R183: a push onto a full mask stack faults MASK_STACK; so do MINV and MPOP at depth 1 and on a group or
remainder entry. -/
def Obligations.MaskResults : Prop :=
  (∀ (i : Instr) (s : State) (o : A3) (l : List MaskEntry), s.maskResult i = some (o, l) → s.sGuard o.g = true →
     ∃ t, exec i s = .next t ∧ s.OnlyMeTraced t ∧
       t.me = { s.me.marked s.issue.slot with regs := { s.me.regs with masks := l } }) ∧
  (∀ (i : Instr) (s : State) (o : A3), i = .mpush o ∨ i = .minv o ∨ i = .mpop o → s.sGuard o.g = true →
     s.maskResult i = none → exec i s =
       .next (s.takeFault s.issue.team ⟨.maskStack, s.myGang.image.bundleVa s.me.pc, s.issue.slot, s.topMask⟩))

/-- R194: SETF and SETC leave an allowed FMT pending for the fifth bundle on, and SETC an allowed RCPDEPTH in force: bits
3:0 of s[A], and at once, which are the model's (log 20: the rule names no bits, and R132 admits the old value for a while).
R196: MOVBD writes a bond dimension from 1 to 256 and keeps what the bundle's other slots read. -/
def Obligations.SetResults : Prop :=
  (∀ (i : Instr) (s : State) (g : BitVec 3) (r : Regs), s.setResult i = some (g, r) → s.sGuard g = true →
     ∃ t, exec i s = .next t ∧ s.RegStep t ∧ t.me.regs = r) ∧
  (∀ (o : A3) (s : State), s.sGuard o.g = true → 1 ≤ (s.sA o).toNat → (s.sA o).toNat ≤ 256 →
     ∃ t, exec (.movbd o) s = .next t ∧
       (t.gang s.me.gang) = { s.myGang with bd := tset s.myGang.bd o.d.toNat (s.sA o) } ∧
       t = { s with teams := tset s.teams s.issue.team t.me, gangs := tset s.gangs s.me.gang (t.gang s.me.gang) } ∧
       t.me = { s.me with flight := s.me.flight.map fun f =>
         { f.marked s.issue.slot with olds := { f.olds with bd := some (o.d.toNat, tget 1 s.myGang.bd o.d.toNat) } } } ∧
       s.SameMemory t)

/-- R186: TJOIN goes on with the join counter at 0, and then acquires what the children it counted have copied; it waits on
the counter otherwise.
R187, R191, R189: END and TRET choose their flow, END as a committing operation; YIELD counts its team as chosen in
its core's rotation. -/
def Obligations.FlowChosen : Prop :=
  (∀ (o : A3) (s : State), s.sGuard o.g = true →
     (s.me.joinCnt = 0 → ∃ t, exec (.tjoin o) s = .next t ∧ s.OnlyMyGang t ∧ t.me = s.me.marked s.issue.slot ∧
       t.gang s.me.gang = { s.myGang with unseen := s.myGang.unseen.filter fun x => !(x.team == s.issue.team && x.join) }) ∧
     (s.me.joinCnt ≠ 0 →
       ∃ t, exec (.tjoin o) s = .next t ∧ s.OnlyMe t ∧ t.me = { s.me with waits := s.me.waits ++ [.join] })) ∧
  (∀ (o : A3) (s : State), s.sGuard o.g = true →
     (∃ t, exec (.endOp o) s = .next t ∧ s.OnlyMe t ∧ t.me = (s.me.flowing .ended).committed s.issue.slot) ∧
     (∀ h (m : BitVec 6), s.me.handler = some h → o.b = .imm m →
       (m = 0 ∨ m = 1 ∧ (h.frame.code = .softwareTrap ∨ h.frame.code = .breakpoint)) →
       ∃ t, exec (.tret o) s = .next t ∧ s.OnlyMe t ∧ t.me = (s.me.flowing (.tret m.toNat)).marked s.issue.slot) ∧
     (∃ t, exec (.yield o) s = .next t ∧ t.me = s.me.marked s.issue.slot ∧
       t = { s with
         teams := tset s.teams s.issue.team t.me
         cores := tset s.cores s.issue.core
           { s.core s.issue.core with rota := s.issue.team :: (s.core s.issue.core).rota } } ∧ s.SameMemory t))

/-- R33, R136, R188: WNEXT draws the launch's next work value, all ones once they are gone, and leaves it pending for
s[D] for eight bundles; it commits, so the checkpoint records the draw.
R185: TFORK outside recipe code never waits: it gives s[D] and the join counter the number m ≤ B of children created, and
commits; the first bundle of a child waits for the stores its creator made before. Creation stops where 03 R89 has no slot
or pool for a child, and, the model's choice (log 84), where no TEAMID is free. -/
def Obligations.WnextDraws : Prop :=
  (∀ (o : A3) (s : State) (l : Nat) (x : Launch), s.sGuard o.g = true → s.myGang.launch = some l →
     tfind s.launches l = some x →
     let v := if x.work.toNat < x.desc.workEnd.toNat then x.work else BitVec.allOnes 64
     ∃ t, exec (.wnext o) s = .next t ∧
       t.me = (s.me.both fun r => { r with wnextPend := r.wnextPend ++ [(8, o.d, v)] }).committed s.issue.slot ∧
       t.launch l = { x with work := if x.work.toNat < x.desc.workEnd.toNat then x.work + 1 else x.work } ∧
       (∀ k, k ≠ l → t.launch k = s.launch k) ∧
       t = { s with teams := tset s.teams s.issue.team t.me, launches := t.launches } ∧ s.SameMemory t) ∧
  (∀ (o : A3) (s : State), s.sGuard o.g = true → s.myGang.recompute = none → (sB s.rd false o.b).toNat ≤ 32 →
     (s.sA o).toNat < s.myGang.image.codeLen → s.issue.team < s.uids →
     ∃ t m, exec (.tfork o) s = .next t ∧ m ≤ (sB s.rd false o.b).toNat ∧
       t.me = { (s.me.both fun r => r.sset o.d.toNat (BitVec.ofNat 64 m)).committed s.issue.slot with
         joinCnt := s.me.joinCnt + BitVec.ofNat 32 m } ∧
       (∀ w, w < s.uids → w ≠ s.issue.team → t.team w = s.team w) ∧
       t.uids = s.uids + m ∧ t.ms = s.ms ∧ t.gangs = s.gangs ∧
       (m < (sB s.rd false o.b).toNat →
         (t.freeSlots s.me.core).length ≤ t.claims s.me.core ∨ t.childId s.me.gang = none ∨
           (t.part s.myGang.part).takePool (teamImageBytes s.me.vregs s.me.lanes) = none) ∧
       ∀ k, k < m → (t.team (s.uids + k)).parent = some s.issue.team ∧ (t.team (s.uids + k)).pc = (s.sA o).toNat ∧
         (t.team (s.uids + k)).regs.sget 3 = BitVec.ofNat 64 k ∧
         (t.team (s.uids + k)).birth = some (s.me.ckptCnt.toNat, s.tick)) ∧
  (∀ (s : State) (c p n k : Nat), (s.team c).birth = some (n, k) → (s.team c).parent = some p →
     (∃ h ∈ (s.team p).storeQ, let back := (BitVec.ofNat 32 n - BitVec.ofNat 32 h.region).toNat; 0 < back ∧ back < 2 ^ 31) ∨
       (∃ x ∈ (s.team p).unacked, x.sentAt ≤ k) →
     s.mayFetch c = false)

/-- R190, R395: TRAP, and BKPT with no debugger, take the fault of their code with FADDR the value of B, and a team with a
trap vector stands at its handler.
R392, R400: a fault with no handler to enter, or in the handler, rolls its team back and ends it, counts as the launch's
unhandled fault and fences the gang: a RUNNABLE team of it ends at its next boundary, every other one at once. No other
gang is fenced, unless the launch set ABORT1: then all of its gangs are. -/
def Obligations.FaultsTaken : Prop :=
  (∀ (o : A3) (s : State) (vec : Nat), s.sGuard o.g = true → s.me.handler = none → s.myGang.recompute = none →
     s.myGang.hndEn = true → s.myGang.image.trapVec = some vec →
     (∃ t, exec (.trap o) s = .next t ∧
       s.EntersHandler t s.issue.team vec ⟨.softwareTrap, sB s.rd false o.b, s.issue.slot, s.topMask⟩) ∧
     ((s.part s.myGang.part).dbgEn = false → ∃ t, exec (.bkpt o) s = .next t ∧
       s.EntersHandler t s.issue.team vec ⟨.breakpoint, sB s.rd false o.b, s.issue.slot, s.topMask⟩)) ∧
  (∀ (o : A3) (s : State) (l : Nat), s.sGuard o.g = true → s.myGang.recompute = none → s.myGang.launch = some l →
     s.me.handler.isSome = true ∨ s.trapVec s.issue.team = none → (∀ w, s.pausedRays w = []) →
     let u := s.issue.team
     let x := s.launch l
     ∃ t, exec (.trap o) s = .next t ∧
       (t.me.ended = true ∧ t.me.st = .draining ∧ t.me.flight = none ∧ t.me.held = [] ∧ t.me.pc = s.me.ckpt.n ∧
         t.me.regs.s = s.me.ckpt.regs.s) ∧
       (t.gang s.me.gang).fenced = true ∧
       (t.launch l).nfault = x.nfault + 1 ∧ (t.launch l).faulted = true ∧
       (∀ v y, tfind s.teams v = some y → y.gang = s.me.gang → v ≠ u → y.ended = false →
         if y.st = .runnable then (t.team v).fenced = true else (t.team v).ended = true) ∧
       (x.desc.abort1 = false → ∀ g, g ≠ s.me.gang → (t.gang g).fenced = (s.gang g).fenced) ∧
       (x.desc.abort1 = true → x.aborted = false →
         (t.launch l).aborted = true ∧ ∀ g, g ∈ s.gangsOf l → (t.gang g).fenced = true))

/-! ### Memory accesses -/

/-- R241-R245: a per-lane load whose active lanes pass their checks and have their bytes at once gives each of them the
bytes it sees, and changes nothing else but cached translations and lines.
R231, R248, R249: LDRO gives the lanes the bytes of the lines its cluster's sampler cache holds, filled from memory
where it holds none, and the team's own stores are not seen; PREF only fills lines. -/
def Obligations.LoadResults : Prop :=
  (∀ (i : Instr) (s : State) (o : A3) (n : Nat) (chk : Nat → Except Failure LaneAt) (a : Nat → LaneAt),
     s.loadRule i = some (o, n, chk) → s.effMask o.g ≠ 0 → s.DestReady o.d →
     (∀ l ∈ s.active (s.effMask o.g), chk l = .ok (a l) ∧ s.ReadsAtOnce (a l).loc n) →
     ∃ t, exec i s = .next t ∧ s.OnlyMeRead t ∧ t.ms.sampler = s.ms.sampler ∧
       t.me = { s.me.marked s.issue.slot with regs := t.me.regs, held := t.me.held } ∧
       s.TakesData t o.d n (s.effMask o.g) fun l => s.seenAt (a l).loc n) ∧
  (∀ (o : A3) (s : State), s.effMask o.g ≠ 0 →
     (∀ (i : Instr) (n : Nat) (a : Nat → LaneAt),
       (i, n) ∈ [(.ldroB32 o, 4), (.ldroB64 o, 8), (.ldroB128 o, 16)] → s.DestReady o.d →
       (∀ l ∈ s.active (s.effMask o.g),
         s.laneVirtual .readOnly (s.addrV o n l) n = .ok (a l) ∧ s.ReadsAtOnce (a l).loc n) →
       ∃ t, exec i s = .next t ∧ s.OnlyMeRead t ∧
         (∀ c, c ≠ s.cluster → tget [] t.ms.sampler c = tget [] s.ms.sampler c) ∧
         t.me = { s.me.marked s.issue.slot with regs := t.me.regs, held := t.me.held } ∧
         s.TakesData t o.d n (s.effMask o.g) fun l =>
           s.samplerBytes s.cluster s.myGang.part (a l).loc n) ∧
     (∃ t, exec (.pref o) s = .next t ∧ s.OnlyMeRead t ∧
       (∀ c, c ≠ s.cluster → tget [] t.ms.sampler c = tget [] s.ms.sampler c) ∧ t.me = s.me.marked s.issue.slot))

/-- R241-R245, R387: a per-lane store whose active lanes pass their checks, none of them to host memory or another
device, is withheld: at every place the team's latest store is then that of the highest lane that writes it, and no
memory changes.
R225, R228, R386: a store that leaves the release buffer for memory of this device writes its bytes, makes
its lines dirty in the L2 and clears the poison of a line it writes whole; where its lines were under its key ID already, no
other byte changes (R65: HBM is encrypted line by line under the key ID of the store; the reading is the model's, log 76). -/
def Obligations.StoreResults : Prop :=
  (∀ (i : Instr) (s : State) (o : A3) (n : Nat) (chk : Nat → Except Failure LaneAt) (a : Nat → LaneAt),
     s.storeRule i = some (o, n, chk) → s.effMask o.g ≠ 0 → s.SourceReady o.d →
     (∀ l ∈ s.active (s.effMask o.g), chk l = .ok (a l) ∧ s.Withholds (a l).loc) →
     ∃ t, exec i s = .next t ∧ s.OnlyMeRead t ∧ t.ms.sampler = s.ms.sampler ∧
       t.me = { s.me.marked s.issue.slot with held := t.me.held } ∧
       ∀ x, latest t.me.held x =
         ((s.active (s.effMask o.g)).reverse.findSome? fun l =>
           (⟨(a l).loc, (a l).va, s.laneData o.d n l, false, (a l).key, 0⟩ : HeldStore).byteAt x).or (latest s.me.held x)) ∧
  (∀ (s : State) (u pa : Nat) (key : BitVec 12) (h : HeldStore), h.loc = .phys pa key → (s.target pa == .remote) = false →
     s.memOk → tsorted s.ms.lineKeys = true →
     let t := s.performStore u h
     t.memOk ∧ (∀ k (hk : k < h.data.length), t.byte (pa + k) = h.data[k]) ∧
       (∀ a, (a < pa ∨ pa + h.data.length ≤ a) →
         s.UnderKey key pa h.data.length a → t.byte a = s.byte a) ∧
       (∀ l ∈ linesOf pa h.data.length, s.target l = .hbm → tget 0 t.ms.lineKeys l = key.toNat) ∧
       (∀ l ∈ linesOf pa h.data.length, tfind t.ms.l2 l = some true) ∧
       (∀ l ∈ linesOf pa h.data.length, pa ≤ l → l + 128 ≤ pa + h.data.length → ¬ t.ms.poisoned.contains l) ∧
       t = { s with ms := t.ms } ∧ t.ms.sampler = s.ms.sampler)

/-- R243: where lanes of a load or store fail their checks nothing is accessed and the team takes the lowest failing
lane's fault, for every lane that fails with its code. -/
def Obligations.AccessFaults : Prop :=
  ∀ (i : Instr) (s : State) (o : A3) (n : Nat) (chk : Nat → Except Failure LaneAt) (l : Nat) (f : Failure),
    (s.loadRule i = some (o, n, chk) ∧ s.DestReady o.d ∨ s.storeRule i = some (o, n, chk) ∧ s.SourceReady o.d) →
    l ∈ s.active (s.effMask o.g) → chk l = .error f →
    (∀ k ∈ s.active (s.effMask o.g), k < l → ∃ a, chk k = .ok a) →
    (∀ k ∈ s.active (s.effMask o.g), ∀ a, chk k = .ok a → s.ReadsAtOnce a.loc n) →
    exec i s = .next (s.takeFault s.issue.team ⟨f.code, f.addr, s.issue.slot,
      maskOf ((s.active (s.effMask o.g)).filter fun k => match chk k with
        | .error e => e.code == f.code
        | .ok _ => false)⟩)

/-- R246, R247: a scalar load gives s[D] the bytes it sees, zero-extended; one with a scope needs its scope to reach the
place.
R246, R247: a scalar store of the low bytes of s[D] to memory of this device is withheld, and no memory changes. -/
def Obligations.ScalarAccesses : Prop :=
  (∀ (i : Instr) (s : State) (g : BitVec 3) (d : BitVec 8) (n : Nat) (chk : Except Failure LaneAt) (fits : Loc → Bool)
     (a : LaneAt), s.scalarLoadRule i = some (g, d, n, chk, fits) → s.effMask g ≠ 0 → chk = .ok a → fits a.loc = true →
     s.ReadsAtOnce a.loc n →
     ∃ t, exec i s = .next t ∧ s.OnlyMeRead t ∧ t.ms.sampler = s.ms.sampler ∧
       t.me = { s.me.marked s.issue.slot with regs := t.me.regs } ∧ s.me.regs.OnlyS t.me.regs d.toNat ∧
       t.me.regs.sget d.toNat = if d.toNat = 0 then 0 else BitVec.ofNat 64 (bytesNat (s.seenAt a.loc n))) ∧
  (∀ (i : Instr) (s : State) (g : BitVec 3) (d : BitVec 8) (n : Nat) (chk : Except Failure LaneAt) (acked : Bool)
     (a : LaneAt), s.scalarStoreRule i = some (g, d, n, chk, acked) → s.effMask g ≠ 0 → chk = .ok a →
     s.Withholds a.loc → acked = true →
     ∃ t, exec i s = .next t ∧ s.OnlyMeRead t ∧ t.ms.sampler = s.ms.sampler ∧
       t.me = { s.me.marked s.issue.slot with
         held := s.me.held ++ [⟨a.loc, a.va, natBytes (s.rd.sget d.toNat).toNat n, false, a.key, 0⟩] })

/-! ### Rings and walkers -/

/-- R251: QINIT makes ring D empty over the range that s[A] and B give, and takes it off the walker it was bound to.
R252, R253: with room in the ring QCOMMIT releases the team's withheld stores, adds n entries behind the ring's tail
and commits; the other slots of its bundle go on seeing the ring as it stood.
R252, R257: with n entries filled QPOP moves the ring's head past them, says in c[D] whether the last of them is the
final entry of its walker's walk, and commits; an entry committed before the walk's WSTART is none of it, which is the
model's choice (log 89). -/
def Obligations.Rings : Prop :=
  (∀ (o : A3) (s : State), s.effMask o.g ≠ 0 →
     let base := (s.sA o).toNat
     let cfg := (sB s.rd false o.b).toNat
     let old := s.myGang.ring o.d.toNat
     base % 128 = 0 → cfg < 2 ^ 13 → base < 2 ^ 22 → bitsOf base 21 20 < s.myGang.span →
     base % 2 ^ 20 + (cfg % 256 + 1) * ((cfg / 256 + 1) * 128) ≤ s.myGang.gstore * 4096 →
     (old.bound && (s.myGang.walker old.walker).run) = false →
     ∃ t, exec (.qinit o) s = .next t ∧ s.OnlyMyGang t ∧ t.me = s.me.marked s.issue.slot ∧
       t.myGang = { s.myGang with
         rings := tset s.myGang.rings o.d.toNat ⟨base, cfg % 256, cfg / 256, true, false, 0, 0, 0, none⟩
         walkers := if old.bound then
             tset s.myGang.walkers old.walker { s.myGang.walker old.walker with bound := false }
           else s.myGang.walkers }) ∧
  (∀ (o : A3) (s : State), s.effMask o.g ≠ 0 → s.me.storeQ = [] → s.me.storeFails = [] →
     let q := o.d.toNat
     let n := (sB s.rd false o.b).toNat
     let r := s.myGang.ring q
     r.init = true → r.bound = false → 0 < n → r.filled + n ≤ r.size →
     let w := (s.keepRing q).release s.issue.team s.me.held.length
     ∃ t, exec (.qcommit o) s = .next t ∧ t.me = w.me.committed s.issue.slot ∧
       t.gang w.me.gang = w.myGang.setRing q { w.myGang.ring q with tail := (w.myGang.ring q).tail + BitVec.ofNat 32 n } ∧
       t = { w with
         teams := tset w.teams s.issue.team t.me
         gangs := tset w.gangs w.me.gang (t.gang w.me.gang) }) ∧
  (∀ (o : A3) (s : State), s.effMask o.g ≠ 0 → o.d.toNat < 8 →
     let q := o.a.toNat
     let n := (sB s.rd false o.b).toNat
     let r := s.myGang.ring q
     let w := s.myGang.walker r.walker
     let e := (r.head + BitVec.ofNat 32 n - 1 - w.start).toNat
     let mine := r.bound && decide (e < w.produced)
     r.init = true → 0 < n → n ≤ r.size → n ≤ r.filled →
     ∃ t, exec (.qpop o) s = .next t ∧ s.OnlyMyGang t ∧
       t.myGang = { s.myGang with
         rings := tset s.myGang.rings q { r with head := r.head + BitVec.ofNat 32 n }
         walkers := if mine then tset s.myGang.walkers r.walker { w with lastE := some e } else s.myGang.walkers } ∧
       t.me.regs.cget o.d.toNat = (decide (o.d.toNat = 0) || mine && { w with lastE := some e }.flag 3) ∧
       t.me = (({ s.me with
         flight := s.me.flight.map fun f => { f with olds := { f.olds with ring := some (q, r.head, r.tail) } } } : Team).both
           fun x => x.cset o.d.toNat (mine && { w with lastE := some e }.flag 3)).committed s.issue.slot)

/-- R254, R256: WBIND binds walker D to ring A with the descriptor read, WSTART starts it at its ring's tail and WSTOP
stops and unbinds it; each commits. The model's choice (log 87): WBIND unbinds the ring the walker was bound to before, and
WSTART and WSTOP drop what the earlier reads of the walker have asked for.
R259, R260, R264: CPY and CPYY queue the checked record with the team's next copy number, give s[D] that number and
commit; CPYY's bundle goes on to wait for it at the record's continuation. -/
def Obligations.CopyQueued : Prop :=
  (∀ (o : A3) (s : State), s.effMask o.g ≠ 0 →
     let n := o.d.toNat
     let x := s.myGang.walker n
     (∀ d, s.me.storeQ = [] → s.me.storeFails = [] → (sB s.rd false o.b).toNat % 64 = 0 →
       s.RecordIs 0 (sB s.rd false o.b) 64 d → walkOk d = true → walkAligned d = true → x.run = false →
       let r := s.myGang.ring o.a.toNat
       r.init = true → (r.bound = true → r.walker = n) →
       ∃ t, exec (.wbind o) s = .next t ∧ (s.recordRead 0 (sB s.rd false o.b) 64).OnlyMyGang t ∧
         t.me = s.me.committed s.issue.slot ∧
         let g := if x.bound then s.myGang.setRing x.ring { s.myGang.ring x.ring with bound := false } else s.myGang
         t.myGang = (g.setRing o.a.toNat { g.ring o.a.toNat with bound := true, walker := n }).setWalker n
           ⟨d, o.a.toNat, true, false, false, 0, 0, 0, .xlate, 0, none⟩) ∧
     (s.me.storeQ = [] → s.me.storeFails = [] → x.bound = true → x.run = false →
       ∃ t, exec (.wstart o) s = .next t ∧ (s.walkerOver s.me.gang n).OnlyMyGang t ∧
         t.me = (s.walkerOver s.me.gang n).me.committed s.issue.slot ∧
         t.myGang = s.myGang.setWalker n { x with
           start := (s.myGang.ring x.ring).tail, produced := 0, fault := false, run := true, team := s.issue.team
           lastE := none }) ∧
     (∃ t, exec (.wstop o) s = .next t ∧ (s.walkerOver s.me.gang n).OnlyMyGang t ∧
       t.me = (s.walkerOver s.me.gang n).me.committed s.issue.slot ∧
       t.myGang = (if x.bound then s.myGang.setRing x.ring { s.myGang.ring x.ring with bound := false } else s.myGang).setWalker
         n { x with run := false, bound := false })) ∧
  (∀ (o : A3) (s : State) (r : List Byte) (yields : Bool), s.effMask o.g ≠ 0 → s.me.storeQ = [] → s.me.storeFails = [] →
     (s.sA o).toNat % 64 = 0 → s.RecordIs o.b.code (s.sA o) 64 r → s.copyCheck r = none → s.me.copyQ.length < 32 →
     ∃ (t : State) (old : Mapping), exec (if yields then .cpyy o else .cpy o) s = .next t ∧
       (s.recordRead o.b.code (s.sA o) 64).OnlyMe t ∧
       let cmd : CopyCmd := ⟨s.me.copyNum + 1, r, s.rd.fmt, if yields then some (fieldAt r 0x34 4) else none, false, false, old, 0, []⟩
       let put := ({ s.me with copyNum := s.me.copyNum + 1, copyQ := s.me.copyQ ++ [cmd] } : Team).both
         fun x => x.sset o.d.toNat (s.me.copyNum + 1)
       t.me = (if yields then put.flowing (.cont (s.me.copyNum + 1) (fieldAt r 0x34 4)) else put).committed s.issue.slot)

/-! ### Copies, locks and cache control -/

/-- R225, R239, R265, R266: LOCK locks its lines for the gang and gives 0, or changes nothing and gives 1 where a quota or
the slices' limit would be passed; where the lines find no room, sealed tiles leave the L2, and it waits while every line
there is pinned (the model's choice which tiles leave, log 71). UNLOCK gives its lines up; CFLUSH leaves no line of its range dirty but for those of the
frame exchange; CINVRO with 0 empties
the cluster's sampler cache, and with n the lines of its range leave it, every other one and every other cluster's
staying. -/
def Obligations.LinesControlled : Prop :=
  ∀ (o : A3) (s : State), s.effMask o.g ≠ 0 →
    let n := (sB s.rd false o.b).toNat
    n ≤ 65536 → (s.sA o).toNat % 128 = 0 →
    let places := (s.rangeLines .load (s.sA o) n).filterMap fun x => match x.2 with
      | .ok (.phys pa _, _) => some pa
      | _ => none
    let keys := (s.rangeLines .load (s.sA o) n).filterMap fun x => match x.2 with
      | .ok (loc, _) => some (State.lineKey s.myGang.part loc)
      | _ => none
    (∀ l, lockPlaces (s.rangeLines .lock (s.sA o) n) = .ok l →
      let new := (l.filter fun x => !s.myGang.locks.contains x).eraseDups
      let fits := decide (s.charged s.me.gang + new.length ≤ (s.part s.myGang.part).lockQuota.toNat) &&
        slicesHold ((s.lockedLines ++ new).eraseDups) (s.generalWays * 512)
      let g : Gang := { s.myGang with locks := s.myGang.locks ++ new }
      let held : State := { s with gangs := tset s.gangs s.me.gang g }
      ((new.isEmpty || fits) = false → ∃ t, exec (.lock o) s = .next t ∧ s.OnlyMe t ∧
        t.me = { s.me.marked s.issue.slot with regs := s.me.regs.sset o.d.toNat 1 }) ∧
      ((new.isEmpty || fits) = true →
        (held.crowded true new ≠ [] → ∃ t, exec (.lock o) s = .next t ∧ s.OnlyMe t ∧
          t.me = { s.me with waits := s.me.waits ++ [.frames] }) ∧
        (held.crowded true new = [] → ∃ t, exec (.lock o) s = .next t ∧
          t.me = { s.me.marked s.issue.slot with regs := s.me.regs.sset o.d.toNat 0 } ∧ t.myGang = g ∧
          (held.crowded false new = [] →
            t = { held with teams := tset s.teams s.issue.team t.me, ms := { s.ms with l2 := t.ms.l2 } } ∧
              s.SameMemory t)))) ∧
    (∃ t, exec (.unlock o) s = .next t ∧ s.OnlyMyGang t ∧ t.me = s.me.marked s.issue.slot ∧
      t.myGang = { s.myGang with locks := s.myGang.locks.filter fun x => !places.contains x }) ∧
    (∃ t, exec (.cflush o) s = .next t ∧ t.me = s.me.marked s.issue.slot ∧
      t = { s with teams := tset s.teams s.issue.team t.me, ms := { s.ms with l2 := t.ms.l2 } } ∧
      (tsorted s.ms.l2 = true → ∀ pa ∈ places, s.target pa ≠ .fx → tfind t.ms.l2 pa ≠ some true) ∧ s.SameMemory t) ∧
    (∃ t, exec (.cinvro o) s = .next t ∧ t.me = s.me.marked s.issue.slot ∧
      t = { s with teams := tset s.teams s.issue.team t.me, ms := { s.ms with sampler := t.ms.sampler } } ∧
      (∀ c, c ≠ s.cluster → tget [] t.ms.sampler c = tget [] s.ms.sampler c) ∧
      (sB s.rd false o.b = 0 → tget [] t.ms.sampler s.cluster = []) ∧
      (sB s.rd false o.b ≠ 0 → tsorted (tget [] s.ms.sampler s.cluster) = true →
        ∀ k, tfind (tget [] t.ms.sampler s.cluster) k =
          if k ∈ keys then none else tfind (tget [] s.ms.sampler s.cluster) k) ∧ s.SameMemory t)

/-! ### Trellis -/

/-- R271, R272, R275, R277-R290: a Trellis operation whose checks pass and whose tiles are idle enters the reservation
table while that has room: with the gang's next number and what it captures, its tiles marked busy; it commits. The sizes of TCHAIN
are those of R290, against the last sentence of 14 R315 (the model's reading, log 92). -/
def Obligations.TrellisCommandsEnter : Prop :=
  ∀ (i : Instr) (s : State) (r b : List Byte) (x : TrellisRule), s.trellisRule r b i = some x → x.ok →
    s.effMask x.g ≠ 0 → s.Settled → s.myGang.tileWait x.reads x.writes = none →
    (s.table s.myGang.cluster_).length < 64 →
    ∃ (t : State) (old : Mapping), exec i s = .next t ∧ x.base.OnlyMyGangNew t ∧ t.uids = s.uids + 1 ∧
      t.me = s.me.committed s.issue.slot ∧
      t.myGang = { x.gang.markBusy x.reads x.writes with
        trellisNum := s.myGang.trellisNum + 1
        trellis := s.myGang.trellis ++ [⟨s.myGang.trellisNum + 1, s.issue.team, x.op, s.captureTcs (x.reads ++ x.writes),
          x.gang.cbs, s.captureBds, s.rd.fmt, s.uids, 0, false, false, none, old⟩] }

/-- R280: TTOV gives the lanes the elements from row B of tile A on, and 0 past its end; VTOT puts the lanes' elements
into tile D, no byte of it outside them changing, and commits.
R195, R268-R270: MOVTC of the value the register holds does nothing else; another allowed value that fits the tile
budget is written, the tile begins afresh, the slots of the bundle go on seeing the old value, and it commits. -/
def Obligations.TileRows : Prop :=
  (∀ (o : A3) (s : State), s.effMask o.g ≠ 0 →
     let r := (sB s.rd false o.b).toNat
     (let w := s.tcSeen o.a.toNat;
       tcFormat w ≠ 0 → r < tcRows w → s.myGang.tileWait [o.a.toNat] [] = none →
       (∀ l ∈ s.active (s.effMask o.g), r * tcCols w + l < tcRows w * tcCols w →
         badLine (s.myGang.tile o.a.toNat).bad ((r * tcCols w + l) * tcElem w) (tcElem w) = none) →
       ∃ t, exec (.ttov o) s = .next t ∧ s.SetsV t o.d (s.effMask o.g) fun l =>
         let e := r * tcCols w + l
         if e < tcRows w * tcCols w then
           BitVec.ofNat 32 (bytesNat (Memory.readBytes (s.myGang.tile o.a.toNat).bytes (e * tcElem w) (tcElem w)))
         else 0) ∧
     (let w := s.tcSeen o.d.toNat;
       tcFormat w ≠ 0 → r < tcRows w → s.myGang.tileWait [] [o.d.toNat] = none →
       Memory.wf (s.myGang.tile o.d.toNat).bytes = true →
       ∃ t, exec (.vtot o) s = .next t ∧ s.OnlyMyGang t ∧ t.me = s.me.committed s.issue.slot ∧
         t.myGang = { s.myGang with tiles := tset s.myGang.tiles o.d.toNat (t.myGang.tile o.d.toNat) } ∧
         t.myGang.tile o.d.toNat = { s.myGang.tile o.d.toNat with
           bytes := (t.myGang.tile o.d.toNat).bytes, bad := (t.myGang.tile o.d.toNat).bad } ∧
         (∀ x, x ∈ (t.myGang.tile o.d.toNat).bad → x ∈ (s.myGang.tile o.d.toNat).bad) ∧
         (∀ l ∈ s.active (s.effMask o.g), r * tcCols w + l < tcRows w * tcCols w →
           Memory.readBytes (t.myGang.tile o.d.toNat).bytes ((r * tcCols w + l) * tcElem w) (tcElem w) =
             natBytes (s.vsrc o.a l).toNat (tcElem w)) ∧
         ∀ a, (∀ l ∈ s.active (s.effMask o.g), r * tcCols w + l < tcRows w * tcCols w →
             a < (r * tcCols w + l) * tcElem w ∨ (r * tcCols w + l + 1) * tcElem w ≤ a) →
           Memory.read (t.myGang.tile o.d.toNat).bytes a = Memory.read (s.myGang.tile o.d.toNat).bytes a)) ∧
  (∀ (o : A3) (s : State), s.sGuard o.g = true → s.me.storeFails = [] → s.myGang.tileWait [] [o.d.toNat] = none →
     tcOk (s.sA o) = true →
     ((List.range s.myGang.ntile).map fun k => tcFootprint (if k = o.d.toNat then s.sA o else tget 0 s.myGang.tc k)).sum ≤
       s.myGang.tileKb * 65536 →
     (s.sA o = tget 0 s.myGang.tc o.d.toNat → ∃ t, exec (.movtc o) s = .next t ∧ s.NoEffect t) ∧
     (s.sA o ≠ tget 0 s.myGang.tc o.d.toNat → ∀ f, s.me.flight = some f → f.committing = true →
       ∃ t, exec (.movtc o) s = .next t ∧ s.OnlyMyGang t ∧
         t.me = ({ s.me with
           flight := some { f with olds := { f.olds with tc := some (o.d.toNat, tget 0 s.myGang.tc o.d.toNat) } } } :
             Team).committed s.issue.slot ∧
         t.myGang = { s.myGang with
           tc := tset s.myGang.tc o.d.toNat (s.sA o)
           tiles := tset s.myGang.tiles o.d.toNat ({ s.myGang.tile o.d.toNat with bytes := freshBytes (s.sA o), bad := [] }) }))

/-! ### Recipe tiles -/

/-- R296, R309: SEAL, RPIN, RUNPIN and RDROP make their change to the tile s[A] names in the states Table 13-3 admits,
give s[D] 0, or 1 where nothing changed, and commit; RPIN's own start of a recompute is the second clause.
R301, R309: RPIN of a dropped tile whose start passes its checks starts its recompute and pins the tile; one whose
start does not pass them faults.
R310, R311: RSTAT gives s[D] the tile's state, HPIN, whether teams are parked on it (teams alone is the model's reading, log
91), PINS and GEN; RDONE seals the tile its
gang rebuilds once the gang's engines are idle, and ends the recompute. -/
def Obligations.RecipeOps : Prop :=
  (∀ (i : Instr) (s : State) (n : Nat) (st : TileState) (o : A3) (w : State) (changed : Bool),
     s.recipeRule n st i = some (o, w, changed) → s.effMask o.g ≠ 0 → s.myGang.recompute = none → s.Settled →
     s.tileNamed (s.sA o) = .ok n → s.tileState s.myGang.part n = .ok st →
     (i = .seal o → ∃ r, s.recipeOf s.myGang.part n = .ok r) →
     ∃ t, exec i s = .next t ∧ t = { w with teams := tset s.teams s.issue.team t.me } ∧
       t.me = (s.me.both fun r => r.sset o.d.toNat (if changed then 0 else 1)).committed s.issue.slot ∧
       (changed = false → s.SameMemory t)) ∧
  (∀ (o : A3) (s : State) (n : Nat), s.effMask o.g ≠ 0 → s.myGang.recompute = none →
     s.tileNamed (s.sA o) = .ok n → s.tileState s.myGang.part n = .ok .dropped →
     ((s.part s.myGang.part).rtile n).pins ≠ 0xFFFF →
     (∀ f, s.startCheck s.issue.team s.myGang.part n = .error f →
       exec (.rpin o) s = .next (s.takeFault s.issue.team ⟨f.code, f.addr, s.issue.slot, s.effMask o.g⟩)) ∧
     (∀ r w, s.startCheck s.issue.team s.myGang.part n = .ok r → s.startTile s.issue.team s.myGang.part n false = (w, none) →
       ∃ t, exec (.rpin o) s = .next t ∧
         t = { w.modTile s.myGang.part n fun x => { x with pins := x.pins + 1 } with
           teams := tset w.teams s.issue.team t.me } ∧
         t.me = (w.me.both fun r => r.sset o.d.toNat 0).committed s.issue.slot)) ∧
  (∀ (o : A3) (s : State), s.effMask o.g ≠ 0 →
     (∀ n st r, s.tileNamed (s.sA o) = .ok n → s.tileState s.myGang.part n = .ok st → s.record s.myGang.part n = .ok r →
       ∃ t, exec (.rstat o) s = .next t ∧ s.SetsS t o.d.toNat true (BitVec.ofNat 64
         (st.num + (if s.hpin s.myGang.part n then 16 else 0) + (if s.requesters s.myGang.part n = [] then 0 else 32) +
           ((s.part s.myGang.part).rtile n).pins.toNat * 2 ^ 16 + fieldAt r 4 4 * 2 ^ 32))) ∧
     (∀ r, s.myGang.recompute = some r → r.live = true → s.enginesIdle s.me.gang = true → s.Settled →
       let p := s.myGang.part
       let v := (s.setTileState p r.tile .sealed false).modTile p r.tile fun t => { t with resident := true, readAt := s.cycle }
       let w := v.give p r.tile r.engines
       ∃ t, exec (.rdone o) s = .next t ∧
         t.me = ({ w.me with rdone := true } : Team).committed s.issue.slot ∧
         t.myGang = { s.myGang with recompute := some { r with live := false } } ∧
         (∀ u m pc, (s.gang (s.team u).gang).part = p → .recompute r.tile m pc ∈ (s.team u).waits →
           tfind s.teams u = some (s.team u) → tsorted s.teams = true → u ≠ s.issue.team →
           ⟨.none, r.tile, ((v.part p).rtile r.tile).bytes, pc⟩ ∈ (t.team u).given) ∧
         t = { w with
           teams := tset w.teams s.issue.team t.me
           gangs := tset s.gangs s.me.gang t.myGang }))

/-! ### Synchronisation -/

/-- R324-R326: an atomic's lanes perform their steps one after another in ascending order and the operation commits; a
single lane's step leaves at its place the value Table 15-5 gives and in D the old one, and changes nothing else; the
other bytes of a line of HBM stay where the line was under the access's key ID already (log 76). A turn that performs at
most q lanes performs the first q and the operation waits, so that others' accesses fall between. -/
def Obligations.AtomicResults : Prop :=
  ∀ (i : Instr) (s : State) (o : AtomOp) (op n : Nat) (a : Nat → LaneAt), atomRule i = some (o, op, n) →
    s.effMask o.g ≠ 0 → s.myGang.recompute = none → s.Released o.scope.toNat →
    (∀ l ∈ s.active (s.atomMask o), s.atomAt o n l = .ok (a l) ∧ s.isRemote (a l).loc = false) →
    let lanes := (s.active (s.atomMask o)).map fun l => (l, a l)
    let w := s.atomNoted o lanes
    (∀ q, s.issue.quota = some q → exec i s = .next (
      let x := (lanes.take q).foldl (fun x p => x.useLane.atomHere o op n p.1 p.2) w
      if q < lanes.length then (x.holdWalk (walked (lanes.drop q) n)).wait .lanes else x.finC)) ∧
    (s.issue.quota = none → exec i s = .next (lanes.foldl (fun x p => x.atomHere o op n p.1 p.2) w).finC) ∧
    ∀ l, s.issue.quota = none → s.active (s.atomMask o) = [l] →
      let loc := s.homeLoc (a l).loc
      let old := BitVec.ofNat 64 (bytesNat (s.readLoc s.myGang.part s.me.gang loc n))
      let new := natBytes (atomNew op old (s.atomArgs o op n l).1 (s.atomArgs o op n l).2).toNat n
      let x := w.writeLoc s.myGang.part s.me.gang loc new
      ∃ t, exec i s = .next t ∧ t = { x with teams := tset s.teams s.issue.team t.me } ∧
        t.me = (s.me.stepped o n l old).committed s.issue.slot ∧
        (∀ pa key, loc = .phys pa key → s.memOk → tsorted s.ms.lineKeys = true → t.physRead key pa n = new ∧
          ∀ b, (b < pa ∨ pa + n ≤ b) → s.UnderKey key pa n b → t.byte b = s.byte b)

/-- R327, R328: with every earlier store performed, and acknowledged where the scope reaches other devices, FENCE only
commits and FENCERO empties the cluster's sampler cache as well.
R327: a fence waits while a store of its team is still queued. -/
def Obligations.Fences : Prop :=
  (∀ (o : AtomOp) (s : State), s.effMask o.g ≠ 0 → s.Released o.scope.toNat →
     (∃ t, exec (.fence o) s = .next t ∧ s.CommitsOnly t) ∧
     (o.scope.toNat ≤ 3 → ∃ t, exec (.fencero o) s = .next t ∧ t.me = s.me.committed s.issue.slot ∧
       t = { s with
         teams := tset s.teams s.issue.team t.me
         ms := { s.ms with sampler := tset s.ms.sampler s.cluster [] } } ∧ s.SameMemory t)) ∧
  (∀ (o : AtomOp) (s : State), s.effMask o.g ≠ 0 → s.me.storeQ ≠ [] →
     ∃ t, exec (.fence o) s = .next t ∧ s.OnlyMe t ∧ t.me = { s.me with waits := s.me.waits ++ [.storeQueue] })

/-- R54, R329-R332: TLSIG raises a timeline to s[D] and commits; TLWAIT gives s[D] a timeline's value once it has reached
s[D] and waits until then, a wait for the team's copies at device scope and wider acquiring them; TLREAD gives s[D] the
value as it stands. The other bytes of a memory timeline's line stay where the line was under its key ID already (log 76). -/
def Obligations.TimelineResults : Prop :=
  ∀ (s : State) (tl : Timeline),
    (∀ o : AtomOp, s.effMask o.g ≠ 0 → s.myGang.recompute = none → s.Released o.scope.toNat →
      let des := s.rd.sget o.a.toNat
      let v := s.rd.sget o.d.toNat
      desOk des = true → scopeFits (desKind des) o.scope.toNat = true → s.timelineOf des = .ok tl →
      ∃ t, exec (.tlsig o) s = .next t ∧ t.me = s.me.committed s.issue.slot ∧
        t = { s.signalTimeline tl v with teams := tset s.teams s.issue.team t.me } ∧
        (∀ n, tl = .slot n → t.slotVal s.myGang.part n =
          if (s.slotVal s.myGang.part n).toNat < v.toNat then v else s.slotVal s.myGang.part n) ∧
        (∀ pa key, tl = .mem pa key → s.memOk → tsorted s.ms.lineKeys = true →
          t.physRead key pa 8 = natBytes (max (bytesNat (s.physRead key pa 8)) v.toNat) 8 ∧
          ∀ b, (b < pa ∨ pa + 8 ≤ b) → s.UnderKey key pa 8 b → t.byte b = s.byte b)) ∧
    (∀ o : AtomOp, s.effMask o.g ≠ 0 →
      let des := s.rd.sget o.a.toNat
      let want := s.rd.sget o.d.toNat
      (s.myGang.recompute ≠ none → desKind des = 2) → desOk des = true →
      (desKind des = 2 ∨ scopeFits (desKind des) o.scope.toNat = true) → s.timelineOf des = .ok tl →
      (tl = .engine 0 → want.toNat ≤ s.me.copyNum.toNat) →
      (want.toNat ≤ (s.timelineVal tl).toNat →
        (∀ n, tl = .engine n → dueFail (s.failsOf n) s.issue.team (s.timelineVal tl) = none) →
        let v := if tl = .engine 0 ∧ 3 ≤ o.scope.toNat then
          s.acquireCopies s.issue.team (s.timelineVal tl).toNat else s
        ∃ t, exec (.tlwait o) s = .next t ∧ v.SetsS t o.d.toNat true (s.timelineVal tl)) ∧
      ((s.timelineVal tl).toNat < want.toNat →
        ∃ t, exec (.tlwait o) s = .next t ∧ s.OnlyMe t ∧
          t.me = { s.me with waits := s.me.waits ++ [.timeline des want] })) ∧
    (∀ o : A3, s.effMask o.g ≠ 0 → desOk (s.sA o) = true → s.timelineOf (s.sA o) = .ok tl →
      ∃ t, exec (.tlread o) s = .next t ∧ s.SetsS t o.d.toNat true (s.timelineVal tl))

/-- R333-R338: BARARV counts arrivals in the barrier word and gives s[D] its phase and whether it flipped; BARWT goes on
once the phase differs and waits until then; BUFACQ gives s[D] the next free buffer's address and BUFREL releases buffers:
each writes its word of the gang store only. -/
def Obligations.BarrierResults : Prop :=
  ∀ (o : A3) (s : State) (a : Nat), s.effMask o.g ≠ 0 → s.myGang.recompute = none →
    (s.bankAt (s.sA o) 4 4 = .ok (.gang a) →
      (∀ w r, s.Settled → barArrive (s.bankWord (.gang a) 4) (sB s.rd false o.b).toNat = some (w, r) →
        ∃ t, exec (.bararv o) s = .next t ∧
          t.me = (s.me.both fun x => x.sset o.d.toNat (BitVec.ofNat 64 r)).committed s.issue.slot ∧
          t.myGang = s.myGang.write a (natBytes w 4) ∧
          t = { s with teams := tset s.teams s.issue.team t.me, gangs := tset s.gangs s.me.gang t.myGang }) ∧
      (bitsOf (s.bankWord (.gang a) 4) 31 31 ≠ (sB s.rd false o.b).toNat % 2 →
        ∃ t, exec (.barwt o) s = .next t ∧ s.NoEffect t) ∧
      (bitsOf (s.bankWord (.gang a) 4) 31 31 = (sB s.rd false o.b).toNat % 2 →
        ∃ t, exec (.barwt o) s = .next t ∧ s.OnlyMe t ∧ t.me = { s.me with
          waits := s.me.waits ++ [.barrier (s.sA o).toNat ((sB s.rd false o.b).toNat % 2 == 1)] })) ∧
    (∀ b, s.Settled → s.bufTab (s.sA o) = .ok b → b.loc = .gang a →
      ((b.acq - b.rel).toNat < b.nbuf →
        ∃ t, exec (.bufacq o) s = .next t ∧
          t.me = (s.me.both fun x => x.sset o.d.toNat
            (BitVec.ofNat 64 (b.base + b.acq.toNat % b.nbuf * b.bsize))).committed s.issue.slot ∧
          t.myGang = s.myGang.write (a + 8) (natBytes (b.acq + 1).toNat 4) ∧
          t = { s with teams := tset s.teams s.issue.team t.me, gangs := tset s.gangs s.me.gang t.myGang }) ∧
      (let n := (sB s.rd false o.b).toNat;
        n ≠ 0 → n ≤ (b.acq - b.rel).toNat →
        ∃ t, exec (.bufrel o) s = .next t ∧ t.me = s.me.committed s.issue.slot ∧
          t.myGang = s.myGang.write (a + 12) (natBytes (b.rel + BitVec.ofNat 32 n).toNat 4) ∧
          t = { s with teams := tset s.teams s.issue.team t.me, gangs := tset s.gangs s.me.gang t.myGang })) ∧
    ∀ (at_ k : Nat) (d : List Byte), Memory.wf s.myGang.store = true → d.length < 128 →
      (s.myGang.write at_ d).bad = s.myGang.bad ∧ Memory.readBytes (s.myGang.write at_ d).store at_ d.length = d ∧
        ((k < at_ ∨ at_ + d.length ≤ k) →
          Memory.read (s.myGang.write at_ d).store k = Memory.read s.myGang.store k)

/-- R339, R340: WQPUSH appends its records at the tail of an open work queue with room and gives s[D] the number of the
first; LAUNCH puts its entry at the tail of a launch queue of its partition and gives s[D] its number; a closed queue, or
a full launch queue, takes nothing and gives all ones. That a slot which was never bound answers as a closed queue does is
the model's choice (log 27: R339 speaks of a queue that is not open). -/
def Obligations.QueuesTake : Prop :=
  ∀ (o : A3) (s : State), s.effMask o.g ≠ 0 → s.myGang.recompute = none → s.Released 5 →
    (let p := s.myGang.part;
      let x := pushArgs s.rd o.b;
      let q := s.wq p x.1;
      let size := (q.rsize + 1) * 16;
      x.2.2 = true → x.2.1 ≠ 0 → x.2.1 ≤ 2 ^ q.capLog → (s.sA o).toNat % 16 = 0 →
      let v := if q.rpg = 0 then s else s.recordRead 0 (s.sA o) (x.2.1 * size)
      ∀ data, s.RecordIs 0 (s.sA o) (x.2.1 * size) data →
      (q.rpg = 0 ∨ q.enable = false → ∃ t, exec (.wqpush o) s = .next t ∧ v.OnlyMe t ∧
        t.me = (s.me.both fun r => r.sset o.d.toNat (BitVec.allOnes 64)).committed s.issue.slot) ∧
      (∀ w, q.rpg ≠ 0 → q.enable = true → q.used + x.2.1 ≤ 2 ^ q.capLog →
        (List.range x.2.1).foldl (fun (y : State × Option Failure) i => match y with
          | (z, none) => z.writeMem (sysCtx p)
              (q.store + BitVec.ofNat 64 ((q.tail.toNat + i) % 2 ^ q.capLog * size)) ((data.drop (i * size)).take size)
          | y => y) (v, none) = (w, none) →
        ∃ t, exec (.wqpush o) s = .next t ∧
          t.me = (w.me.both fun r => r.sset o.d.toNat q.tail).committed s.issue.slot ∧
          (t.wq p x.1).tail = (w.wq p x.1).tail + BitVec.ofNat 64 x.2.1 ∧ t.ms = w.ms)) ∧
    (let k := (sB s.rd false o.b).toNat;
      let q := s.queue k;
      let v := s.recordRead 0 (s.sA o) 32
      k < 1024 → (s.sA o).toNat % 32 = 0 → q.part = s.myGang.part → q.device = true →
      ∀ e, s.RecordIs 0 (s.sA o) 32 e →
      (q.hasRoom = false → ∃ t, exec (.launch o) s = .next t ∧ v.OnlyMe t ∧
        t.me = (s.me.both fun r => r.sset o.d.toNat (BitVec.allOnes 64)).committed s.issue.slot) ∧
      (∀ w, q.hasRoom = true →
        v.writeAll (sysCtx q.part) (q.base + BitVec.ofNat 64 (q.tail.toNat % 2 ^ q.sizeLog * 32)) e = (w, none) →
        ∃ t, exec (.launch o) s = .next t ∧
          t.me = (w.me.both fun r => r.sset o.d.toNat (q.tail.zeroExtend 64)).committed s.issue.slot ∧
          t.queue k = { w.queue k with tail := (w.queue k).tail + 1, built := tdel (w.queue k).built (w.queue k).tail.toNat } ∧
          t = { w with
            teams := tset w.teams s.issue.team t.me
            queues := tset w.queues k (t.queue k) }))

/-! ### Rays, splats, samples and collectives -/

/-- R354-R356: RAYQ and RAYQD put one ray for each active lane into free slots of the cluster's ray unit, as the gang's next
job, give s[D] its number and commit; with an empty mask they only commit. That they take the lowest free slots is the
model's choice (log 86: R355 only waits until enough are free). -/
def Obligations.RaysQueued : Prop :=
  (∀ (o : A3) (s : State), s.effMask o.g = 0 →
    (∃ t, exec (.rayq o) s = .next t ∧ s.CommitsOnly t) ∧ ∃ t, exec (.rayqd o) s = .next t ∧ s.CommitsOnly t) ∧
  ∀ (o : A3) (s : State) (wide : Bool) (a : Nat → Word), s.effMask o.g ≠ 0 → s.myGang.recompute = none → s.Settled →
    let lanes := s.active (s.effMask o.g)
    let unit := tget [] s.rays s.cluster
    (∀ l ∈ lanes, s.rayAt o.a lanes l = .ok (a l)) → unit.length + lanes.length ≤ 4096 →
    let num := s.myGang.rayNum + 1
    let ray : Word → Ray := fun x =>
      ⟨s.me.gang, s.issue.team, num.toNat, x, wide, o.b.code % 2 == 1, o.b.code / 2 % 2 == 1, o.b.code / 4 % 2 == 1, none, [], 0,
        none, 0, 0, false, false, none, 0, s.rayMapping x o.b.code, none⟩
    ∃ t, (wide = false → exec (.rayq o) s = .next t) ∧ (wide = true → exec (.rayqd o) s = .next t) ∧
      t.me = (s.me.both fun r => r.sset o.d.toNat num).committed s.issue.slot ∧
      t.myGang = { s.myGang with rayNum := num, rayJobs := s.myGang.rayJobs ++ [⟨num, s.issue.team, lanes.length⟩] } ∧
      t = { s with
        teams := tset s.teams s.issue.team t.me
        gangs := tset s.gangs s.me.gang t.myGang
        rays := tset s.rays s.cluster (((freeSlots unit lanes.length).zip lanes).foldl
          (fun u x => tset u x.1 (ray (a x.2))) unit) }

/-- R357: RAYCAND gives the active lanes, in ascending order, the team's oldest candidates in the six registers from D
on, zeros to the lanes past them, removes what it gave and commits.
R358, R359: RAYACC gives each paused ray its lanes name the program's decision, its candidates going, and RAYFIN ends
the rays its lanes name with CODE 0x02, their candidates going; both commit. -/
def Obligations.RayDecisions : Prop :=
  (∀ (o : A3) (s : State), s.effMask o.g ≠ 0 → s.myGang.recompute = none → s.Settled →
     (s.me.cands ≠ [] ∨ s.raysOf s.issue.team = []) →
     let lanes := s.active (s.effMask o.g)
     ∃ t, exec (.raycand o) s = .next t ∧ s.OnlyMe t ∧ t.me.cands = s.me.cands.drop lanes.length ∧
       t.me = { s.me.committed s.issue.slot with
         cands := t.me.cands, regs := t.me.regs, ckpt := { (s.me.committed s.issue.slot).ckpt with regs := t.me.ckpt.regs } } ∧
       s.me.regs.OnlyV t.me.regs ((List.range 6).map (o.d.toNat + ·)) ∧
       (∀ k, k < 6 → ∀ (j l : Nat), lanes[j]? = some l →
         t.me.regs.vget (o.d.toNat + k) l = Cand.field s.me.cands[j]? k ∧
         t.me.ckpt.regs.vget (o.d.toNat + k) l = Cand.field s.me.cands[j]? k) ∧
       ∀ k, k < 6 → ∀ l, l < s.me.lanes → l ∉ lanes → t.me.regs.vget (o.d.toNat + k) l = s.me.regs.vget (o.d.toNat + k) l) ∧
  (∀ (o : A3) (s : State), s.effMask o.g ≠ 0 → s.myGang.recompute = none → s.Settled →
     (∀ (l cl k : Nat) (r : Ray), s.active (s.effMask o.g) = [l] →
       (s.raysOf s.issue.team).find? (fun r => r.2.2.addr == s.rayAddr o.a l && r.2.2.paused.isSome) = some (cl, k, r) →
       tfind (tget [] s.rays cl) k = some r →
       let y := r.acted (s.vsrc64 o.d l) o.b.code
       let w := (s.modRay cl k fun _ => y.1).modMe fun t => { t with cands := t.cands.filter fun c => c.record != r.addr }
       exec (.rayacc o) s = .next (if y.2 then w.endRay cl k y.1.endCode else w).finC) ∧
     (∀ l, l ∈ s.active (s.effMask o.g) →
       (∀ r ∈ s.raysOf s.issue.team, r.2.2.addr ≠ s.rayAddr o.a l ∨ r.2.2.paused = none) →
       (∀ k, k ∈ s.active (s.effMask o.g) → k < l → ∃ r ∈ s.raysOf s.issue.team, r.2.2.addr = s.rayAddr o.a k ∧
         r.2.2.paused.isSome = true) →
       ∃ m, exec (.rayacc o) s = .next (s.takeFault s.issue.team ⟨.rayRecord, s.rayAddr o.a l, s.issue.slot, m⟩)) ∧
     exec (.rayfin o) s = .next ((s.active (s.effMask o.g)).foldl (fun x l =>
       match (x.raysOf s.issue.team).find? fun r => r.2.2.addr == s.rayAddr o.a l with
       | some r => (x.endRay r.1 r.2.1 0x02).modMe fun t => { t with cands := t.cands.filter fun c => c.record != r.2.2.addr }
       | none => x) s).finC)

/-- R361, R363: SPLATQ appends a list for the next job and gives s[D] 0, or 1 with 64 lists waiting; SPLATRUN makes a job
of the waiting lists with the gang's next number, gives s[D] that number and commits.
R365-R367: SAMPLE, SAMPLEG and SAMPLEL give the four registers from D on the channels of each lane's filtered texels,
read through the sampler cache. -/
def Obligations.SplatResults : Prop :=
  (∀ (o : A3) (s : State), s.effMask o.g ≠ 0 → s.myGang.recompute = none →
     (let n := (sB s.rd false o.b).toNat;
       1 ≤ n → n ≤ 16777215 → (s.sA o).toNat % 32 = 0 →
       ∃ t, exec (.splatq o) s = .next t ∧ s.RegStep t ∧
         t.me.regs = if 64 ≤ s.me.regs.splats.length then s.me.regs.sset o.d.toNat 1
           else ({ s.me.regs with splats := s.me.regs.splats ++ [⟨s.sA o, n⟩] } : Regs).sset o.d.toNat 0) ∧
     (∀ b, s.Settled → (s.sA o).toNat % 64 = 0 → s.RecordIs 0 (s.sA o) 64 b → frameCheck b = none →
       let num := s.myGang.splatNum + 1
       let die := s.issue.core / 96
       let v := s.recordRead 0 (s.sA o) 64
       ∃ t, exec (.splatrun o) s = .next t ∧
         t.me = (s.me.both fun r => ({ r with splats := [] } : Regs).sset o.d.toNat num).committed s.issue.slot ∧
         t.myGang = { s.myGang with splatNum := num, splatJobs := s.myGang.splatJobs ++ [⟨num, s.issue.team, 1⟩] } ∧
         t = { v with
           teams := tset s.teams s.issue.team t.me
           gangs := tset s.gangs s.me.gang t.myGang
           splats := tset s.splats die (tget [] s.splats die ++
             [⟨s.me.gang, s.issue.team, num, s.sA o, b, s.rd.splats, false, v.splatMapping b s.rd.splats, none⟩]) })) ∧
  (∀ (o : A3) (s : State) (kind : Nat) (i : Instr) (da : LaneAt) (x : Tex) (at_ : Nat → List LaneAt),
     (kind, i) ∈ [(0, .sample o), (1, .sampleg o), (2, .samplel o)] → s.effMask o.g ≠ 0 →
     s.laneVirtual .readOnly (sB s.rd false o.b) 32 = .ok da → s.ReadsAtOnce da.loc 32 →
     parseTex (s.samplerBytes s.cluster s.myGang.part da.loc 32) = some x → x.base % 128 = 0 →
     let lanes := s.active (s.effMask o.g)
     let plan := fun (l : Nat) => (x.plan kind ((List.range (match kind with | 0 => 2 | 1 => 6 | _ => 3)).map fun k =>
       f32.decode (s.rd.vget (o.a.toNat + k) l).toNat)).getD []
     (∀ l ∈ lanes, s.texelsAt x.texel (plan l) = .ok (at_ l) ∧ ∀ a ∈ at_ l, s.ReadsAtOnce a.loc x.texel) →
     ∃ t, exec i s = .next t ∧ s.OnlyMeRead t ∧
       (∀ c, c ≠ s.cluster → tget [] t.ms.sampler c = tget [] s.ms.sampler c) ∧
       t.me = { s.me.marked s.issue.slot with regs := t.me.regs } ∧
       s.me.regs.OnlyV t.me.regs ((List.range 4).map (o.d.toNat + ·)) ∧
       ∀ k, k < 4 → s.LanesTake t (o.d.toNat + k) (s.effMask o.g) fun l =>
         x.result (((at_ l).map fun a => s.samplerBytes s.cluster s.myGang.part a.loc x.texel).zip ((plan l).map (·.2))) k)

/-- R376, R378: COLL on a group that has not failed enters the gang's queue with the next number, gives s[D] that number
and commits.
R368: with one entry on the mask stack TREORD sorts the lanes by the keys of v[A], the lanes outside the mask last,
lanes of one key keeping their order, and moves v[A], the registers from D on, p1 to p7 and the mask with them: bit j of
the new mask is bit pi(j) of the old one; every other register and all else of the team stays, and a lane that the M slot of
the bundle has written keeps its value (R129). -/
def Obligations.CollectiveEnters : Prop :=
  (∀ (o : A3) (s : State) (b r l : List Byte), s.effMask o.g ≠ 0 → s.myGang.recompute = none → s.Settled →
     let tab := (s.part s.myGang.part).collGrp
     let at_ := BitVec.ofNat 64 (bitsOf tab.toNat 63 16 * 65536 + 16 * collGroup b)
     let k := groupKey s.myGang.part (collGroup (b ++ r ++ l))
     let grp := tget (0, none) s.dev.groups k
     let num := s.myGang.collNum + 1
     let list := BitVec.ofNat 64 (fieldAt r 8 8)
     let size := 2 * (bitsOf (fieldAt r 0 4) 11 0 + 1)
     let v1 := s.recordRead 0 (s.sA o) 64
     let v2 := v1.recordRead 0 at_ 16
     let v := v2.recordRead 0 list size
     (s.sA o).toNat % 64 = 0 → s.RecordIs 0 (s.sA o) 64 b → collFields b = true → collGroup b < bitsOf tab.toNat 15 0 →
     at_.toNat % 16 = 0 → v1.RecordIs 0 at_ 16 r → v2.recordUsable (b ++ r) = true → fieldAt r 8 8 % 2 = 0 →
     v2.RecordIs 0 list size l → v.collCheck (b ++ r ++ l) = none → grp.2 = none →
     ∃ (t : State) (old : Mapping), exec (.coll o) s = .next t ∧
       t.me = (s.me.both fun x => x.sset o.d.toNat num).committed s.issue.slot ∧
       t.myGang = { s.myGang with
         collNum := num
         colls := s.myGang.colls ++ [⟨num, s.issue.team, b ++ r ++ l, s.sA o, grp.1 + 1, 0, none, false, old, none⟩] } ∧
       t = { v with
         teams := tset s.teams s.issue.team t.me
         gangs := tset s.gangs s.me.gang t.myGang
         dev := { s.dev with groups := tset s.dev.groups k (grp.1 + 1, grp.2) } } ∧ s.SameMemory t) ∧
  (∀ (o : A3) (s : State), s.rd.masks.length = 1 → s.me.lanes ≤ 1024 →
     let w := s.me.lanes
     let key := fun (l : Nat) => if s.topMask.getLsbD l then (s.rd.vget o.a.toNat l).toNat % 2 ^ 24 else 2 ^ 24
     ∃ (t : State) (pi : List Nat) (m : LaneMask), exec (.treord o) s = .next t ∧ s.OnlyMeTraced t ∧
       pi.Perm (List.range w) ∧
       pi.Pairwise (fun a b => key a < key b ∨ key a = key b ∧ a < b) ∧
       t.me = { s.me.marked s.issue.slot with regs := t.me.regs } ∧
       (∀ x, x = o.a.toNat ∨ o.d.toNat ≤ x ∧ x ≤ o.d.toNat + o.b.code → ∀ j, j < w →
         t.me.regs.vget x j =
           if (s.keptLanes x).getLsbD j then s.me.regs.vget x j else s.rd.vget x (pi.getD j 0)) ∧
       (∀ x, x ≠ o.a.toNat → ¬ (o.d.toNat ≤ x ∧ x ≤ o.d.toNat + o.b.code) → t.me.regs.vreg x = s.me.regs.vreg x) ∧
       (∀ k, 1 ≤ k → k ≤ 7 → ∀ j, j < w →
         (t.me.regs.pget k).getLsbD j = (s.rd.pget k).getLsbD (pi.getD j 0)) ∧
       (∀ k, k = 0 ∨ 7 < k → t.me.regs.pget k = s.me.regs.pget k) ∧
       (∀ j, j < 1024 → m.getLsbD j = (decide (j < w) && s.topMask.getLsbD (pi.getD j 0))) ∧
       t.me.regs = { s.me.regs with
         v := t.me.regs.v, p := t.me.regs.p
         masks := s.me.regs.masks.dropLast ++ (s.me.regs.masks.getLast?.toList.map fun e => { e with mask := m }) } ∧
       (s.me.regs.masks = s.rd.masks → t.me.regs.top.mask = m))

/-! ### Belvedere's line cores -/

/-- R451-R462: an operation of a band program that can go on writes its result to its core's registers, which its bundle's
other slots do not see, and changes nothing else. The model's choices in it: PMOVG writes flagged lanes only (log 81), and
the sum of GATHER's base and index does not wrap (log 63). -/
def Obligations.LineResults : Prop :=
  ∀ (i : Instr) (s : State) (ok : Prop) (x : LineRes), s.lineRule i = some (ok, x) → ok →
    ∃ t, exec i s = .next t ∧ s.LineTakes t x

/-- R452: GMOVI gives g[D] its 18-bit immediate, sign-extended, and changes nothing else; g0 discards it. -/
def Obligations.GmoviWrites : Prop :=
  ∀ (o : BiOp) (s : State), ∃ t, exec (.gmovi o) s = .next t ∧ s.OnlyLine t ∧
    (∀ j, t.lc.regs.gget j = if j = o.d.toNat ∧ j ≠ 0 then o.i.signExtend 32 else s.lc.regs.gget j) ∧
    t.lc = { s.lc with regs := { s.lc.regs with g := t.lc.regs.g } }

/-- R448, R449, R453, R454, R456, R464: NOP does nothing; BR and BRF that are taken lead the bundle's flow to their target;
LOOP pushes its record, leaves its body at a count of 0 and is an error at the fifth level; BEND ends the run; BEND and
FBWAIT wait for the matrix operation, WAITTK for its line tick. The model's choices in it: a target outside the program is
an error only where the branch is taken (log 63), and FALLBK, MMUL, MCONV, MLD, MST and PXFORM wait for a matrix operation
whatever its tile (log 60; R448 names the same m tile). -/
def Obligations.LineFlow : Prop :=
  ∀ (s : State),
    let c := s.lc
    let goes := fun (i : Instr) (x : LineCore) => ∃ t, exec i s = .next t ∧ s.OnlyLine t ∧ t.lc = x
    let fails := fun (i : Instr) (code : FaultCode) =>
      goes i { c with failed := c.failed.or (some (s.issue.slot, ⟨code, 0⟩)) }
    let takes := fun (o : BiOp) (f : BitVec 64) => match o.d.toNat % 8 with
      | 0 => f ≠ 0
      | 1 => f = 0
      | _ => f = BitVec.allOnes 64
    let branches := fun (i : Instr) (o : BiOp) (taken : Prop) =>
      (¬ taken → exec i s = .next s) ∧
      (∀ k : Nat, taken → (c.pc : Int) + o.i.toInt = k → k < s.progLen → goes i { c with flow := .jump k }) ∧
      (taken → ((c.pc : Int) + o.i.toInt < 0 ∨ (s.progLen : Int) ≤ c.pc + o.i.toInt) → fails i .permission)
    (∀ x, exec (.belvNop x) s = .next s) ∧
    (∀ o, branches (.belvBr o) o (o.d = 0 ∨ s.br.gget o.d.toNat ≠ 0)) ∧
    (∀ o, branches (.brf o) o (takes o (s.br.fget (o.d.toNat / 8)))) ∧
    (∀ o : BlOp, let n := s.br.gget o.d.toNat
      (n = 0 → goes (.belvLoop o) { c with flow := .leave (c.pc + o.len.toNat) }) ∧
      (n ≠ 0 → 4 ≤ c.loops.length → fails (.belvLoop o) .loopNest) ∧
      (n ≠ 0 → c.loops.length < 4 →
        goes (.belvLoop o) { c with loops := ⟨c.pc + 1, c.pc + o.len.toNat, n.toNat⟩ :: c.loops })) ∧
    (∀ o : BrOp,
      (s.MatrixDone → goes (.bend o) { c with flow := .ended }) ∧ (s.MatrixDone → exec (.fbwait o) s = .next s) ∧
      (¬ s.MatrixDone → ∀ i ∈ [Instr.bend o, .fbwait o, .fallbk o, .mmul o, .mconv o, .mld o, .mst o, .pxform o],
        goes i { c with waiting := true }) ∧
      ((s.bandHead.ltc - s.bandRun.start).toNat < (s.br.gget o.a.toNat + s.gB o).toNat →
        goes (.waittk o) { c with waiting := true }) ∧
      (¬ s.InLines o (s.lineAddr o) → fails (.lld o) .operandInvalid ∧ fails (.lst o) .operandInvalid) ∧
      (¬ s.InLines o (fun l => (s.br.gget o.b.toNat).toNat + (s.br.kget o.a.toNat l).toNat) →
        fails (.gather o) .operandInvalid))

/-- R460, R462: LST and MST write exactly their lanes' or tile's bytes of line memory; MMUL and MCONV go to the display
matrix engine, which serves the request with the earliest deadline and writes its tile.
R426: of two requests with one deadline the lower core's is served first.
R440, R463, R464: EMIT puts its flagged pixels into line g[D] of its band, which takes a buffer and is complete with
the last EMIT, and waits while all eight buffers are taken; FALLBK ends the run and leaves the band's lines from g[A] on
to the fallback path. That the pixel number g[B] + L does not wrap is the model's reading (log 63). -/
def Obligations.LineStores : Prop :=
  (∀ (s : State),
     (∀ o : BrOp, s.InLines o (s.lineAddr o) → Memory.wf s.lc.lmem = true →
       ∃ t, exec (.lst o) s = .next t ∧ s.OnlyLine t ∧ t.lc = { s.lc with lmem := t.lc.lmem, bad := t.lc.bad } ∧
         Memory.wf t.lc.lmem = true ∧ (∀ x, x ∈ t.lc.bad → x ∈ s.lc.bad) ∧
         (∀ l, l < 64 → (s.br.fget o.g.toNat).getLsbD l = true →
           Memory.readBytes t.lc.lmem (s.lineAddr o l) 4 = natBytes (s.br.kget o.d.toNat l).toNat 4) ∧
         ∀ a, (∀ l, l < 64 → (s.br.fget o.g.toNat).getLsbD l = true → a < s.lineAddr o l ∨ s.lineAddr o l + 4 ≤ a) →
           Memory.read t.lc.lmem a = Memory.read s.lc.lmem a) ∧
     (∀ o : BrOp, let at_ := (s.br.gget o.a.toNat).toNat
       s.MatrixDone → at_ % 4 = 0 → at_ + mTileBytes ≤ lineMemory → Memory.wf s.lc.lmem = true →
       ∃ t, exec (.mst o) s = .next t ∧ s.OnlyLine t ∧ t.lc = { s.lc with lmem := t.lc.lmem, bad := t.lc.bad } ∧
         Memory.wf t.lc.lmem = true ∧ (∀ x, x ∈ t.lc.bad ↔ x ∈ s.lc.bad ∧ (x < at_ ∨ at_ + mTileBytes < x + 128)) ∧
         (∀ i j, i < 64 → j < 64 →
           Memory.readBytes t.lc.lmem (at_ + 4 * (64 * i + j)) 4 = natBytes (s.br.mget o.d.toNat i j).toNat 4) ∧
         ∀ a, (a < at_ ∨ at_ + mTileBytes ≤ a) → Memory.read t.lc.lmem a = Memory.read s.lc.lmem a) ∧
     (∀ o : BrOp, s.MatrixDone →
       (∃ t, exec (.mmul o) s = .next t ∧ s.OnlyLine t ∧ t.lc = { s.lc with matrix := some (false, o) }) ∧
       ∃ t, exec (.mconv o) s = .next t ∧ s.OnlyLine t ∧ t.lc = { s.lc with matrix := some (true, o) }) ∧
     (∀ (n : Nat) (conv : Bool) (o : BrOp), n < 16 → (s.lineCore n).matrix = some (conv, o) →
       (∀ k, k < 16 → (s.lineCore k).matrix ≠ none → (k < n → earlier (s.bandDeadline n) (s.bandDeadline k) = true) ∧
         (n < k → earlier (s.bandDeadline k) (s.bandDeadline n) = false)) →
       ∃ t, exec .matrixEngineServe s = .next t ∧ t = { s with lineCores := tset s.lineCores n (t.lineCore n) } ∧
         t.lineCore n = { s.lineCore n with matrix := none, regs := (t.lineCore n).regs } ∧
         (s.lineCore n).regs.Takes (t.lineCore n).regs (.m o.d.toNat fun e => BitVec.ofNat 32
           (if conv then (s.lineCore n).regs.mconvElem o (e / 64) (e % 64)
             else (s.lineCore n).regs.mmulElem o (e / 64) (e % 64))))) ∧
  (∀ (s : State) (o : BrOp),
     let x := s.bandHead
     let h := s.bandRun.head
     let band := x.bandLines s.bandRun.band
     s.bandRun.frame = x.frame →
     (let l := (s.br.gget o.d.toNat).toNat;
       let first := (s.br.gget o.b.toNat).toNat;
       band.1 ≤ l → l < band.2 → (x.line l).complete = false →
       ((x.line l).buffer = true ∨ x.buffers < 8 →
         ∃ t, exec (.emit o) s = .next t ∧ t = { s with heads := tset s.heads h (t.head h) } ∧
           t.head h = { x with fifo := tset x.fifo l ⟨((t.head h).line l).px, o.m.getLsbD 0, true, (x.line l).owed⟩ } ∧
           ∀ p, p < x.width → tget x.border ((t.head h).line l).px p =
             if first ≤ p ∧ p < first + 64 ∧ (s.br.fget o.g.toNat).getLsbD (p - first) = true then s.emitPixel o (p - first)
             else tget x.border (x.line l).px p) ∧
       ((x.line l).buffer = false → 8 ≤ x.buffers →
         ∃ t, exec (.emit o) s = .next t ∧ s.OnlyLine t ∧ t.lc = { s.lc with waiting := true })) ∧
     (let l := (s.br.gget o.a.toNat).toNat;
       s.MatrixDone → band.1 ≤ l → l < band.2 →
       ∃ t, exec (.fallbk o) s = .next t ∧
         t = { s with
           heads := tset s.heads h (t.head h)
           lineCores := tset s.lineCores s.issue.core { s.lc with flow := .ended } } ∧
         t.head h = { x with fifo := (t.head h).fifo } ∧
         ∀ k, (t.head h).line k =
           if l ≤ k ∧ k < band.2 ∧ (x.line k).complete = false then { x.line k with owed := true } else x.line k))

/-! ### Queues and launches -/

/-- R47, R49, R50, R53: enabling a launch queue sets its fields, EN, and HEAD, TAIL and ERRCNT to 0, with SIZELOG outside
4 to 16 leaves it disabled, and does nothing to an enabled queue; disabling clears EN; a TAIL write is taken where it
neither overfills the ring nor goes back, and counted as an error otherwise.
R37, R38, R40: a work queue opens on a valid descriptor and sets ERR on another; a write without ENABLE closes it; a
closed queue that has drained writes its numbers back and is no longer busy; AGEMAX ticks after its oldest unlaunched
record came all of them, below the threshold, are launched. The model's choices in it: an enable refused for its SIZELOG
stores the other fields, and an enable with the head's descriptor read marks that head stale (log 33); a valid bind keeps
ERR unless the write clears it (log 14); the entry of a consumer launch is built in the queue itself, not in its ring
(log 26). -/
def Obligations.WorkQueues : Prop :=
  (∀ (s : State) (q : Nat), s.Answers → q < 1024 →
     let x := s.queue q
     (∀ (v : BitVec 64) (bar0 : Bool), let y : Queue := { x with
         sizeLog := bitsOf v.toNat 12 8, device := v.getLsbD 1
         part := if bar0 then bitsOf v.toNat 28 26 else x.part
         pcap := if bar0 then min (bitsOf v.toNat 25 19) 119 else x.pcap }
       (x.en = true → exec (.lqcfgEnable q bar0 v) s = .next s) ∧
       (x.en = false → (bitsOf v.toNat 12 8 < 4 ∨ 16 < bitsOf v.toNat 12 8) →
         ∃ t, exec (.lqcfgEnable q bar0 v) s = .next t ∧ s.OnlyQueue t q ∧ t.queue q = y) ∧
       (x.en = false → 4 ≤ bitsOf v.toNat 12 8 → bitsOf v.toNat 12 8 ≤ 16 → x.built = [] → s.NoTakes →
         ∃ t, exec (.lqcfgEnable q bar0 v) s = .next t ∧ s.OnlyQueue t q ∧
           t.queue q = { y with en := true, head := 0, tail := 0, errCnt := 0, stale := x.phase.launch?.isSome })) ∧
     (x.en = true → ∃ t, exec (.lqcfgDisable q) s = .next t ∧ s.OnlyQueue t q ∧
       t.queue q = { x with en := false, phase := (t.queue q).phase } ∧
       ((∃ e, x.phase = .waiting e) → (t.queue q).phase = .idle) ∧
       ((∀ e, x.phase ≠ .waiting e) → (t.queue q).phase = x.phase)) ∧
     (∀ v : BitVec 32, x.device = false →
       ((v - x.head).toNat ≤ 2 ^ x.sizeLog → (x.tail - x.head).toNat ≤ (v - x.head).toNat →
         ∃ t, exec (.lqtailWrite q v) s = .next t ∧ s.OnlyQueue t q ∧ t.queue q = { x with tail := v }) ∧
       ((2 ^ x.sizeLog < (v - x.head).toNat ∨ (v - x.head).toNat < (x.tail - x.head).toNat) →
         ∃ t, exec (.lqtailWrite q v) s = .next t ∧ s.OnlyQueue t q ∧ t.queue q = { x with errCnt := x.errCnt + 1 }))) ∧
  (∀ (s : State) (p n : Nat), p < 8 → n < 256 →
     let w := s.wq p n
     (∀ v : BitVec 64, s.Answers → w.enable = false → w.bound = false →
       (∀ b x, s.readMem (sysCtx p) .load (bindAddr v) 64 = .ok b → parseWq (bindAddr v) b = some x → s.NoCloses p →
         x.closeEn = false →
         ∃ t, exec (.wqbindEnable p n v) s = .next t ∧ s.OnlyPart t p ∧
           t.part p = { s.part p with wqs := tset (s.part p).wqs n (t.wq p n) } ∧
           t.wq p n = { x with err := w.err && !v.getLsbD 1 }) ∧
       ((∃ f, s.readMem (sysCtx p) .load (bindAddr v) 64 = .error f) ∨
           (∃ b, s.readMem (sysCtx p) .load (bindAddr v) 64 = .ok b ∧ parseWq (bindAddr v) b = none) →
         ∃ t, exec (.wqbindEnable p n v) s = .next t ∧ s.OnlyPart t p ∧ t.wq p n = { w with addr := bindAddr v, err := true })) ∧
     (∀ v : BitVec 64, s.Answers → w.enable = true → w.unlaunched = 0 →
       ∃ t, exec (.wqbindDisable p n v) s = .next t ∧ s.OnlyPart t p ∧
         t.wq p n = { w with addr := bindAddr v, enable := false, err := w.err && !v.getLsbD 1 }) ∧
     (∀ u : State, w.enable = false → w.bound = true → w.unlaunched = 0 → w.covers = [] → w.pending = [] →
       s.writeAll (sysCtx p) (w.desc + 0x28) (natBytes w.freed.toNat 8 ++ natBytes w.launched.toNat 8 ++ natBytes w.tail.toNat 8) =
         (u, none) →
       ∃ t, exec (.wqCloseWriteback p n) s = .next t ∧ t.wq p n = { w with bound := false } ∧
         t = { u with parts := tset u.parts p (t.part p) }) ∧
     (∀ k r, w.ticks = k :: r → k + w.ageMax ≤ s.tick → w.unlaunched ≠ 0 → w.unlaunched < w.thresh → w.pending = [] →
       w.rpg ≠ 0 →
       (s.queue w.lq).hasRoom = true →
       ∃ t, exec (.wqAgeExpiry p n) s = .next t ∧ s.SameMemory t ∧
         t = { s with parts := tset s.parts p (t.part p), queues := tset s.queues w.lq (t.queue w.lq) } ∧
         (t.wq p n).launched = w.launched + BitVec.ofNat 64 w.unlaunched ∧ (t.wq p n).pending = [] ∧
         (t.queue w.lq).tail = (s.queue w.lq).tail + 1 ∧
         tfind (t.queue w.lq).built (s.queue w.lq).tail.toNat =
           some ⟨w.template, 0, false, false, 0, some ⟨p * 256 + n, w.launched, w.unlaunched, w.rpg, w.desc⟩⟩))

/-- R27-R29, R34, R35, R51: the entry at the head of an enabled queue of a running partition is read; once its waits hold
a descriptor, read at one instant (the model's, log 4), that passes its checks makes the queue's next launch; its arguments take contiguous free pages; and it then
offers its gangs. That these are the lowest free pages is the model's choice (log 73: R35 asks for contiguous ones).
R30: the launch of a descriptor that fails a check is not made: its entry leaves the queue and DONESLOT is
signalled, in the slots of the queue's partition (the model's choice, log 32: R30 does not say whose slot where PART is
another one); a head from before the queue was enabled anew leaves HEAD as it is (the model's choice, log 33). -/
def Obligations.LaunchBegins : Prop :=
  (∀ (s : State) (q : Nat), q < 1024 →
     let x := s.queue q
     let va := x.base + BitVec.ofNat 64 (x.head.toNat % 2 ^ x.sizeLog * 32)
     (∀ b, x.en = true → x.phase = .idle → x.head ≠ x.tail → (s.part x.part).st = .running →
       tfind x.built x.head.toNat = none → s.readMem (sysCtx x.part) .load va 32 = .ok b →
       fieldAt b 0 8 % 64 = 0 → fieldAt b 8 4 < 2 ^ 18 → fieldAt b 0x0C 4 = 0 → fieldAt b 0x18 8 = 0 →
       ∃ t, exec (.lqEntryRead q) s = .next t ∧ s.OnlyQueue t q ∧
         t.queue q = { x with phase := .waiting ⟨BitVec.ofNat 64 (fieldAt b 0 8), fieldAt b 8 4 % 65536,
           bitsOf (fieldAt b 8 4) 16 16 == 1, bitsOf (fieldAt b 8 4) 17 17 == 1, BitVec.ofNat 64 (fieldAt b 0x10 8), none⟩ }) ∧
     (∀ e b img, x.phase = .waiting e → (s.part x.part).st = .running →
       (e.serial = true → ∀ l ∈ s.launches, l.2.queue ≠ q) →
       (e.waitEn = true → e.waitVal.toNat ≤ (s.slotVal x.part e.waitSlot).toNat) →
       s.readMem (sysCtx x.part) .load e.desc 256 = .ok b → s.checkDesc x.part e.desc b = .ok img →
       let d := parseDesc b
       ∃ t, exec (.launchDescriptorCheck q) s = .next t ∧ t.uids = s.uids + 1 ∧
         t = { s with uids := t.uids, queues := tset s.queues q (t.queue q), launches := tset s.launches s.uids (t.launch s.uids) } ∧
         t.queue q = { x with phase := .checked s.uids, nextSeq := x.nextSeq + 1 } ∧
         t.launch s.uids = { Launch.absent with
           queue := q, seq := x.nextSeq, descAddr := e.desc, image := img, prio := min d.prio x.pcap, work := d.workBase
           wq := e.wq
           desc := { d with gangs := match e.wq with
             | some w => ceilDiv w.n w.rpg
             | none => d.gangs } }) ∧
     (∀ l, x.phase = .checked l → (s.part (s.launch l).desc.part).st = .running →
       ((s.launch l).desc.argLen = 0 →
         ∃ t, exec (.argCopy q) s = .next t ∧ s.OnlyQueue t q ∧ t.queue q = { x with phase := .placing l }) ∧
       (let d := (s.launch l).desc;
         let p := s.part d.part;
         let n := ceilDiv d.argLen 4096;
         ∀ (k : Nat) (b : List Byte) (w : State), d.argLen ≠ 0 → tfind s.launches l = some (s.launch l) →
           freePages p.args p.argPages n (p.args.length + 1) 0 = some k → s.keyOk d.part d.keyId = true →
           s.readMem (sysCtx d.part) .load d.args d.argLen = .ok b →
           s.writeAll (keyCtx d.part d.keyId) (p.argBase + BitVec.ofNat 64 (4096 * k))
             (b ++ List.replicate (4096 * n - d.argLen) 0) = (w, none) →
           ∃ t, exec (.argCopy q) s = .next t ∧ t.queue q = { x with phase := .placing l } ∧
             t.launch l = { s.launch l with argAddr := p.argBase + BitVec.ofNat 64 (4096 * k), argPages := n } ∧
             t.part d.part = { w.part d.part with args := p.args ++ [(k, n)] } ∧
             t = { w with
               queues := tset w.queues q (t.queue q)
               parts := tset w.parts d.part (t.part d.part)
               launches := tset w.launches l (t.launch l) }))) ∧
  (∀ (s : State) (q : Nat) (e : LqEntry) (b : List Byte) (f : Failure),
     let x := s.queue q
     let d := parseDesc b
     x.phase = .waiting e → (s.part x.part).st = .running → s.entryReady q e = true → e.wq = none →
     s.readMem (sysCtx x.part) .load e.desc 256 = .ok b → s.checkDesc x.part e.desc b = .error f →
     ∃ t, exec (.launchDescriptorCheck q) s = .next t ∧ t.launches = s.launches ∧ t.teams = s.teams ∧ t.gangs = s.gangs ∧
       (t.queue q).phase = .idle ∧ (t.queue q).head = (if x.stale then x.head else x.head + 1) ∧
       t.slotVal x.part d.doneSlot = if (s.slotVal x.part d.doneSlot).toNat < d.doneVal.toNat then d.doneVal
         else s.slotVal x.part d.doneSlot)

/-- R69-R73: the only gang on offer is placed on the target chosen for it when a target has room as it is: the launch's
next gang, with a RUNNABLE team in a slot of the target's cores for each team of its roles, in the register state of
Table 1-7; its gang record is written to its image (R76) and no other memory changes. -/
def Obligations.GangPlaced : Prop :=
  ∀ (s : State) (l k a b c e at_ : Nat) (p : Part),
    let x := s.launch l
    let d := x.desc
    s.offers = [(a, b, c, e, .fresh l)] → tfind s.launches l = some x → s.chooseTarget (s.needOf l) = some (k, s) →
    (∀ n, (s.needOf l).bytes = some n → (s.part d.part).takePool n = some (at_, p)) →
    tfind s.gangs s.uids = none →
    ∃ (t v : State), exec .gangPlacement s = .next t ∧
      (v.ms = s.ms ∧ v.parts = (s.modPart d.part fun q => { q with pool := p.pool }).parts ∧ v.issue = s.issue ∧
        v.dev = { s.dev with served := x.queue } ∧ v.mgmt = s.mgmt ∧ v.gang s.uids = t.gang s.uids ∧
        t.ms = (v.saveRecord s.uids).ms) ∧
      t.uids = s.uids + 1 + d.teamList.length ∧
      (∀ u, u < s.uids → t.team u = s.team u) ∧ (∀ g, g < s.uids → t.gang g = s.gang g) ∧
      (∀ n, n ≠ l → t.launch n = s.launch n) ∧ t.launch l = { x with nextGang := x.nextGang + 1 } ∧
      (t.part d.part).pool = p.pool ∧
      (let g := t.gang s.uids;
        g.launch = some l ∧ g.part = d.part ∧ g.index = x.nextGang ∧ g.place = k ∧ g.prio = x.prio ∧ g.image = x.image ∧
          g.img = (s.part d.part).ctxBase + BitVec.ofNat 64 at_ ∧ g.suspended = false ∧ g.store = [] ∧ g.rings = []) ∧
      ∀ j r, d.teamList[j]? = some r →
        let u := t.team (s.uids + 1 + j)
        u.gang = s.uids ∧ u.teamId = j ∧ u.role = r.1 ∧ u.lanes = r.2.1.lanes ∧ u.vregs = r.2.1.vregs ∧
          u.pc = r.2.1.entry ∧ u.st = .runnable ∧ u.core ∈ targetCores d.cluster k ∧
          u.regs = startRegs x x.nextGang r.2.2 r.1 r.2.1 ∧ u.ckpt.n = r.2.1.entry

/-! ### Teams in their slots -/

/-- R79, R81-R83, Table 3-5: a team BLOCKED for 4,096 ticks parks; a team one of whose waits holds is RUNNABLE; the ready
OUT team that comes first takes the lowest free slot of its core.
R85: the tiles of a suspended gang that no command uses go to its image; nothing but memory and the tile budgets
changes. The model's choices in it: the team takes the lowest free slot of its core (log 50), what its copies wrote before
being ordered before it (R323), and the layout of the saved tiles (log 46). -/
def Obligations.TeamsWake : Prop :=
  (∀ (s : State) (u : Nat),
     let x := s.team u
     (x.st = .blocked → x.since + 4096 ≤ s.tick →
       ∃ t, exec (.blockParkTimeout u) s = .next t ∧ s.OnlyTeam t u ∧ t.team u = { x with st := .parked, since := s.tick }) ∧
     (x.ended = false → x.stopped = false → (s.part (s.gang x.gang).part).st = .running → x.st ≠ .out → x.st ≠ .draining →
       (∃ c ∈ x.waits, s.waitHolds u c = true) →
       ∃ t, exec (.teamWake u) s = .next t ∧ s.OnlyTeam t u ∧
         t.team u = { x with waits := [], st := .runnable, since := s.tick, readySince := s.tick }) ∧
     (x.ended = false → x.stopped = false → (s.part (s.gang x.gang).part).st = .running →
       (∀ c ∈ x.waits, s.waitHolds u c = false) → exec (.teamWake u) s = .next s) ∧
     (∀ n k r, tsorted s.teams = true → s.nextReturn n = some u → s.freeSlots n = k :: r →
       ∃ t, exec (.teamSwitchIn n) s = .next t ∧
         t = { s with teams := tset s.teams u (t.team u), gangs := tset s.gangs x.gang (t.gang x.gang), trace := t.trace } ∧
         t.gang x.gang = { s.gang x.gang with unseen := (s.gang x.gang).unseen.filter fun y => y.team != u } ∧
         (t.team u).core = n ∧ (t.team u).slot = k ∧ (t.team u).st = .runnable ∧ s.SameMemory t ∧
         ((∀ h, x.handler = some h → h.fromImage x.controlArea h.frame.bytes = h ∧
             s.readMem (s.imageCtx x.gang) .load (x.img + 0x3000) 0x200 = .ok h.frame.bytes) →
           s.readMem (s.imageCtx x.gang) .load x.img 0x3000 = .ok x.controlArea →
           s.readMem (s.imageCtx x.gang) .load (x.img + 0x4000) (x.vregs * x.lanes * 4) = .ok x.lineArea →
           (t.team u).regs = x.regs ∧ (t.team u).pc = x.pc))) ∧
  (∀ (s : State) (g : Nat),
     let x := s.gang g
     let w := s.saveTiles g
     x.suspended = true → (s.part x.part).resident = true → x.imgLen ≠ 0 → x.tilesOut = false → x.trellis = [] →
     ∃ t, exec (.victimTileSave g) s = .next t ∧ t = { w with gangs := t.gangs } ∧ (t.gang g).tilesOut = true ∧
       ∀ k, t.gang k = { w.gang k with tilesOut := (t.gang k).tilesOut, newTiles := (t.gang k).newTiles } ∧
         (k ≠ g → (t.gang k).tilesOut = (w.gang k).tilesOut) ∧ ((t.gang k).newTiles = true → (w.gang k).newTiles = true))

/-- R90-R93, R141, R143: the front end puts the team it chooses next on the schedule; an idle core is gated and wakes for
work, its first fetch 40 ticks later; a fill that finds room brings its overlay's bundles, read under the mapping it keeps
(10 R238) and at one instant (log 4), into the instruction store. -/
def Obligations.FrontEnd : Prop :=
  ∀ (s : State) (n : Nat),
    let c := s.core n
    (∀ u, s.chooseTeam n = some u →
      ∃ t, exec (.bundleFetch n) s = .next t ∧ s.SameMemory t ∧
        t = { s with agenda := ⟨0, .now u⟩ :: s.agenda, cores := t.cores } ∧
        (∀ m, m ≠ n → t.core m = s.core m) ∧ t.core n = { c with rota := (t.core n).rota }) ∧
    (s.anyRunnable n = false → c.fills = [] → (∀ x ∈ c.due, x.1 < s.cycle) →
      ∃ t, exec (.coreClockGate n) s = .next t ∧ s.OnlyCore t n ∧ t.core n = { c with gated := true }) ∧
    (c.gated = true → (s.anyRunnable n = true ∨ c.fills ≠ []) →
      ∃ t, exec (.coreWake n) s = .next t ∧ s.OnlyCore t n ∧ t.core n = { c with gated := false, wakeAt := s.wakeEvent n + 40 }) ∧
    (∀ k f words, c.fills[k]? = some f →
      ({ s with issue := { s.issue with pages := f.old.pages } } : State).fillWords ⟨f.part, n, none, none⟩ f.image f.first
        f.count = .ok words →
      (c.store.map fun o => frames o.count).sum + frames f.count ≤ 64 →
      ∃ t, exec (.overlayFill n k) s = .next t ∧ s.SameMemory t ∧
        t = { s with
          cores := tset s.cores n (t.core n)
          ms := { s.ms with l0 := t.ms.l0, l1 := t.ms.l1, walks := t.ms.walks } } ∧
        t.core n = { c with
          fills := c.fills.eraseIdx k
          store := c.store ++ [⟨f.part, f.image.handle, f.image.gen, f.num, f.first, f.count, words, s.cycle,
            f.waiting.map (·.1)⟩] })

/-- R263, R264, R393, R397-R400: the failure of a copy is taken at the continuation of its CPYY, which acquires the team's
copies up to it; a fenced gang's running team ends at its bundle boundary and
one that waits ends from its checkpoint; a team asked to stop stops at its checkpoint, and DBGRES lets it go on, for one
operation with STEP; neither acts with EN = 0.
R410-R412: a DRAINING team whose work is done exists no more, its parent's join counter counts one down, what
its copies wrote waits for its parent's TJOIN (R186), and while its gang has other teams nothing else changes but the trace. -/
def Obligations.TeamsStop : Prop :=
  (∀ (s : State) (u : Nat),
     let x := s.team u
     (∀ f vec, x.contFail = some f → x.st = .runnable → x.flight = none → x.ended = false → x.handler = none →
       (s.gang x.gang).recompute = none → (s.gang x.gang).hndEn = true → (s.gang x.gang).image.trapVec = some vec →
       ∃ t, exec (.faultReport u) s = .next t ∧ (t.team u).contNum = none ∧
         (∀ n, x.contNum = some n → ∀ y ∈ (t.gang x.gang).unseen, y.team = u → y.join = false → n.toNat < y.num.toNat) ∧
         s.EntersHandler t u vec ⟨f.fail.code, f.fail.addr, 3, x.regs.top.mask⟩) ∧
     (x.fenced = true → x.ended = false → s.pausedRays u = [] → x.st = .runnable → x.flight = none → x.held = [] →
       x.storeQ = [] →
       ∃ t, exec (.gangFenceCheckpoint u) s = .next t ∧ t = { s with teams := tset s.teams u (t.team u), trace := t.trace } ∧
         s.SameMemory t ∧ (t.team u).ended = true ∧ (t.team u).st = .draining ∧ (t.team u).ckpt.n = x.pc) ∧
     (x.fenced = true → x.ended = false → s.pausedRays u = [] → x.st ≠ .runnable →
       ∃ t, exec (.gangFenceCheckpoint u) s = .next t ∧ t = { s with teams := tset s.teams u (t.team u), trace := t.trace } ∧
         s.SameMemory t ∧ (t.team u).ended = true ∧ (t.team u).st = .draining ∧ (t.team u).held = [] ∧
         (t.team u).ckpt = x.ckpt) ∧
     ((s.part (s.gang x.gang).part).dbgEn = false → exec (.debugStop u) s = .next s) ∧
     (∀ i, (s.part (s.gang x.gang).part).dbgEn = true → x.stopAsked = some i → x.flight = none → x.ended = false →
       x.stopped = false → x.dispatched = 0 →
       x.pc = x.ckpt.n →
       ∃ t, exec (.debugStop u) s = .next t ∧ (t.team u).stopped = true ∧
         (t.team u).st = (if x.st = .out then .out else .parked) ∧ (t.team u).waits = x.waits ++ [.service] ∧ (t.team u).ckpt.n = x.pc ∧ (t.team u).regs = x.regs ∧
         ∀ w, w ≠ u → t.team w = { s.team w with stopAsked := (t.team w).stopAsked }) ∧
     (∀ (p : Nat) (v : BitVec 64), s.Answers → (s.part p).dbgEn = false →
       exec (.dbgresResume p v) s = .next s ∧ exec (.dbgresStep p v) s = .next s) ∧
     (∀ (p : Nat) (v : BitVec 64), s.Answers → s.stoppedAt p v = some u → x.st ≠ .out → x.st ≠ .draining →
       x.waits = [.service] →
       ∃ t, exec (if v.getLsbD 1 then .dbgresStep p v else .dbgresResume p v) s = .next t ∧ s.OnlyTeam t u ∧
         t.team u = { x with
           stopped := false, stepOne := v.getLsbD 1, waits := [], st := .runnable, since := s.tick, readySince := s.tick })) ∧
  (∀ (s : State) (u : Nat),
     let x := s.team u
     (s.part (s.gang x.gang).part).resident = true → tfind s.teams u = some x → tsorted s.teams = true →
     s.drainedTeam u = true → s.lateFails u = [] →
     (∃ w ∈ s.teams, w.1 ≠ u ∧ w.2.gang = x.gang) →
     (x.parent = none ∨ ∃ p, x.parent = some p ∧ p ≠ u ∧ (tfind s.teams p).isSome = true ∧ (s.team p).st ≠ .out) →
     ∃ t, exec (.teamSlotFree u) s = .next t ∧ tfind t.teams u = none ∧
       (∀ w, w ≠ u → x.parent ≠ some w → t.team w = s.team w) ∧
       (∀ p, x.parent = some p → t.team p = { s.team p with joinCnt := (s.team p).joinCnt - 1 }) ∧
       t = { s with
         teams := t.teams
         gangs := tset s.gangs x.gang (t.gang x.gang)
         parts := t.parts } ∧
       t.gang x.gang = { s.gang x.gang with unseen := match x.parent with
         | some p => (s.gang x.gang).unseen.map fun y => if y.team == u then { y with team := p, join := true } else y
         | none => (s.gang x.gang).unseen } ∧
       (∀ p, t.part p = { s.part p with pool := (t.part p).pool }) ∧ s.SameMemory t)

/-! ### Partitions -/

/-- R59-R62: SHADOW changes while the partition is not resident and the sum stays within 192 MiB; a command that its state
does not allow, and START or RESTORE while another partition holds its clusters or, for START, the sum passes 192 MiB, sets
ERR and does nothing else; HALT rolls the partition's teams back to their checkpoints; SAVE, RESTORE,
RESUME and START take it to SAVING, RESTORING, RUNNING and RUNNING, and SAVING, RESTORING and HALTING end in SAVED, HALTED
and HALTED; STOP discards its work. R225: lines leave the L2 where ways pass to SHADOW. The model's choices in it: SAVE,
START and RESUME forget that a debugger's hold halted the partition, and HALT tells the domain (log 53; R383); START and
RESTORE empty the sampler caches and codebooks of the partition's clusters (log 25; R231); which lines leave with the ways
(log 71); overlays leave the cores with SAVE (log 83). -/
def Obligations.PartitionControl : Prop :=
  ∀ (s : State) (p : Nat), s.Answers → p < 8 →
    let q := s.part p
    let becomes := fun (i : Instr) (x : Part) => ∃ t, exec i s = .next t ∧ s.OnlyPart t p ∧ t.part p = x
    (∀ v : BitVec 64, let n := v.extractLsb' 32 8
      (q.resident = false → n.toNat + s.shadowOthers p ≤ 192 →
        let w : State := { s with parts := tset s.parts p { q with err := q.err && !v.getLsbD 3, shadow := n } }
        exec (.partctlShadowWrite p v) s = .next (w.yieldWays s.generalWays) ∧
          (s.generalWays ≤ w.generalWays → exec (.partctlShadowWrite p v) s = .next w) ∧
          (w.generalWays < s.generalWays → ∀ x ∈ (w.yieldWays s.generalWays).ms.l2,
            x.1 ∈ s.lockedLines ∨ s.target x.1 = .fx)) ∧
      ((q.resident = true ∨ 192 < n.toNat + s.shadowOthers p) → becomes (.partctlShadowWrite p v) { q with err := true })) ∧
    (q.st ≠ .running → becomes (.partctlHalt p) { q with err := true }) ∧
    (q.st ≠ .halted → becomes (.partctlSave p) { q with err := true } ∧ becomes (.partctlResume p) { q with err := true }) ∧
    (q.st ≠ .saved → becomes (.partctlRestore p) { q with err := true }) ∧
    (q.st ≠ .off → becomes (.partctlStart p) { q with err := true }) ∧
    (s.clustersFree p = false ∨ 192 < q.shadow.toNat + s.shadowOthers p → becomes (.partctlStart p) { q with err := true }) ∧
    (s.clustersFree p = false → becomes (.partctlRestore p) { q with err := true }) ∧
    (q.st ≠ .halted → q.st ≠ .saved → becomes (.partctlStop p) { q with err := true }) ∧
    (q.st = .halted → becomes (.partctlSave p) { q with st := .saving, heldByDebug := false }) ∧
    (q.st = .running → tsorted s.teams = true →
      ∃ t, exec (.partctlHalt p) s = .next t ∧ s.SameMemory t ∧
        t.part p = { q with st := .halting, heldByDebug := false } ∧
        t = { s with
          parts := tset s.parts p (t.part p), teams := t.teams
          dev := { s.dev with sentNotices := s.dev.sentNotices ++ [(s.dev.self.toNat, true)] } } ∧
        ∀ u x, tfind s.teams u = some x →
          if (s.gang x.gang).part = p ∧ x.ended = false ∧ x.st ≠ .out then
            (t.team u).regs = x.ckpt.regs ∧ (t.team u).pc = x.ckpt.n ∧ (t.team u).flight = none ∧ (t.team u).held = [] ∧
              (t.team u).ckpt = x.ckpt
          else t.team u = x) ∧
    (q.st = .saved → s.clustersFree p = true →
      ∃ t, exec (.partctlRestore p) s = .next t ∧ s.SameMemory t ∧ t.part p = { q with st := .restoring } ∧
        t = { s with
          parts := tset s.parts p (t.part p), ms := { s.ms with sampler := t.ms.sampler, lookup := t.ms.lookup } } ∧
        (∀ x, x ∈ t.ms.lookup ↔ x ∈ s.ms.lookup ∧ q.mask.getLsbD x.1 = false) ∧
        ∀ x, x ∈ t.ms.sampler ↔ x ∈ s.ms.sampler ∧ q.mask.getLsbD x.1 = false) ∧
    (q.st = .off → s.clustersFree p = true → q.shadow.toNat + s.shadowOthers p ≤ 192 →
      ∃ w : State, exec (.partctlStart p) s = .next (w.yieldWays s.generalWays).noteHeld ∧
        (s.generalWays ≤ w.generalWays → exec (.partctlStart p) s = .next w.noteHeld) ∧ s.SameMemory w ∧
        w.part p = { q with st := .running, heldByDebug := false } ∧
        w = { s with
          parts := tset s.parts p (w.part p), ms := { s.ms with sampler := w.ms.sampler, lookup := w.ms.lookup } } ∧
        (∀ x, x ∈ w.ms.lookup ↔ x ∈ s.ms.lookup ∧ q.mask.getLsbD x.1 = false) ∧
        ∀ x, x ∈ w.ms.sampler ↔ x ∈ s.ms.sampler ∧ q.mask.getLsbD x.1 = false) ∧
    (q.st = .halted → ∃ t, exec (.partctlResume p) s = .next t ∧ s.SameMemory t ∧
      t.part p = { q with st := .running, heldByDebug := false } ∧ t.ms = s.ms ∧ t.cores = s.cores ∧
      ∀ u x, tfind s.teams u = some x → t.team u =
        if x.st = .runnable ∧ (s.gang x.gang).part = p then { x with since := s.tick } else x) ∧
    ((q.st = .halted ∨ q.st = .saved) → tsorted s.launches = true →
      ∃ t, exec (.partctlStop p) s = .next t ∧ (t.part p).st = .off ∧ (t.part p).pool = [] ∧
        (∀ x ∈ t.gangs, x ∈ s.gangs ∧ x.2.part ≠ p) ∧
        (∀ x ∈ t.teams, x ∈ s.teams ∧ ∀ y ∈ s.gangs, y.1 = x.2.gang → y.2.part ≠ p) ∧
        ∀ x ∈ t.launches, x.2.desc.part ≠ p) ∧
    (q.st = .halting → s.inFlight p = false → (q.heldByDebug = true → s.dev.hold = true) →
      ∃ t, exec (.partitionHalted p) s = .next t ∧ s.SameMemory t ∧ t.part p = { q with st := .halted } ∧
        t = { s with parts := tset s.parts p (t.part p), dev := { s.dev with held := t.dev.held } }) ∧
    (q.st = .saving → ∃ t, exec (.partitionSaved p) s = .next t ∧ (t.part p).st = .saved ∧ t.teams = s.teams ∧
      t.gangs = s.gangs ∧ (∀ n, ∀ o ∈ (t.core n).store, o.part ≠ p) ∧
      ∀ cl, cl < 96 → ∀ x ∈ tget [] t.rays cl, (s.gang x.2.gang).part ≠ p) ∧
    (q.st = .restoring → ∃ t, exec (.partitionRestored p) s = .next t ∧ (t.part p).st = .halted ∧ t.gangs = s.gangs ∧
      t.ms = s.ms ∧ ∀ u, u ∉ s.seated p → t.team u = s.team u)

/-- R61, R383, R384: a debugger's hold halts every running partition, its teams back at their checkpoints, and tells the
domain, and its release lets those it halted run again; a member's notice counts until its release and cancels the expiry of its groups' collectives.
R237, R238: TLBICMD with GO takes its fields and removes every cached translation of its range, no other; it is
complete, and its slot signalled, once nothing of its partition stands ahead of its markers, with CODE removing the
partition's resident overlays. The model's choice in it (log 45): SLOT, CODE and TLBIVAL are those that stand when the
command completes, a write while it is under way included. -/
def Obligations.HoldsAndInvalidation : Prop :=
  (∀ (s : State),
     (s.Answers → tsorted s.parts = true →
       (∃ t, exec .dbgholdHold s = .next t ∧ s.SameMemory t ∧ t.dev.hold = true ∧
         t.dev.sentNotices = s.dev.sentNotices ++ [(s.dev.self.toNat, true)] ∧
         (∀ p q, tfind s.parts p = some q →
           t.part p = if q.st = .running then { q with st := .halting, heldByDebug := true } else q) ∧
         (tsorted s.teams = true → ∀ u x, tfind s.teams u = some x →
           if (s.part (s.gang x.gang).part).st = .running ∧ x.ended = false ∧ x.st ≠ .out then
             (t.team u).regs = x.ckpt.regs ∧ (t.team u).pc = x.ckpt.n ∧ (t.team u).flight = none ∧ (t.team u).held = [] ∧
               (t.team u).ckpt = x.ckpt
           else t.team u = x)) ∧
       ∃ t, exec .dbgholdRelease s = .next t ∧ s.SameMemory t ∧ t.dev.hold = false ∧ t.dev.held = false ∧
         t.dev.sentNotices = s.dev.sentNotices ++ [(s.dev.self.toNat, false)] ∧
         ∀ p q, tfind s.parts p = some q →
           t.part p = if q.heldByDebug = true ∧ q.st = .halted then { q with st := .running, heldByDebug := false } else q) ∧
     ∀ d : Nat,
       (∃ t, exec (.holdNoticeReceived d) s = .next t ∧ s.SameMemory t ∧
         t = { s with dev := { s.dev with notices := t.dev.notices }, gangs := t.gangs } ∧
         (∀ x, x ∈ t.dev.notices ↔ x ∈ s.dev.notices ∨ x = d) ∧
         ∀ g, t.gang g = { s.gang g with colls := (s.gang g).colls.map fun c =>
           if (collDevices c.desc).contains d then { c with due := c.due.filter fun x => decide (x + 2000 < s.tick) } else c }) ∧
       ∃ t, exec (.releaseNoticeReceived d) s = .next t ∧ s.SameMemory t ∧
         t = { s with dev := { s.dev with notices := t.dev.notices } } ∧
         ∀ x, x ∈ t.dev.notices ↔ x ∈ s.dev.notices ∧ x ≠ d) ∧
  (∀ (s : State) (p : Nat), p < 8 →
     let q := s.part p
     (∀ v : BitVec 64, s.Answers →
       (q.tlbiBusy = true → exec (.tlbiGo p v) s = .next s) ∧
       (q.tlbiBusy = false → ∃ t, exec (.tlbiGo p v) s = .next t ∧ s.SameMemory t ∧
         t.part p = { q with
           tlbiSlot := v.extractLsb' 32 16, tlbiCount := v.extractLsb' 16 16, tlbiCode := v.getLsbD 3
           tlbiAll := v.getLsbD 2, tlbiBusy := true } ∧
         t.ms = { s.ms with l0 := t.ms.l0, l1 := t.ms.l1, walks := t.ms.walks } ∧
         ∀ n e, (e ∈ tget [] t.ms.l0 n ↔ e ∈ tget [] s.ms.l0 n ∧ t.covers p e = false) ∧
           (e ∈ tget [] t.ms.l1 n ↔ e ∈ tget [] s.ms.l1 n ∧ t.covers p e = false))) ∧
     (q.tlbiBusy = true → (q.st = .running → s.anyAhead p = false) → s.NoCloses p →
       ∃ t, exec (.tlbiComplete p) s = .next t ∧ s.SameMemory t ∧
         t.part p = { q with tlbiBusy := false, slots := (t.part p).slots } ∧
         t.slotVal p q.tlbiSlot.toNat = (if (s.slotVal p q.tlbiSlot.toNat).toNat < q.tlbiVal.toNat then q.tlbiVal
           else s.slotVal p q.tlbiSlot.toNat) ∧
         (∀ n o, o ∈ (t.core n).store ↔ o ∈ (s.core n).store ∧ (q.tlbiCode = true → o.part ≠ p)) ∧ t.ms = s.ms))

/-! ### The Ulkai domain -/

/-- R370-R374: DOMCFG is taken while every partition is OFF and its indices fit, and sets ERR otherwise; a peer's request
is performed on this device's memory and answered, or answered with its failure (the other bytes of a line stay where it was
under the request's key ID already, log 76); answers and acknowledgements reach the
team that waits for them, a request unanswered for 200,000 ticks failing.
R375, R379-R381, R384: with every member's data a collective writes its result and ends; one due to expire for 2,000
ticks ends with COLLECTIVE_TIMEOUT and its group is FAILED; COLLRST clears a group that is FAILED or has no collective
in progress. -/
def Obligations.DomainTraffic : Prop :=
  (∀ (s : State),
     (∀ v : BitVec 64, s.Answers →
       let ndev := bitsOf v.toNat 44 32
       let self := bitsOf v.toNat 27 16
       ((∀ x ∈ s.parts, x.2.st = .off) → ndev ≠ 0 → ndev ≤ 2304 → self < ndev →
         ∃ t, exec (.domcfgWrite v) s = .next t ∧ t = { s with dev := { s.dev with
           ndev := BitVec.ofNat 13 ndev, self := BitVec.ofNat 12 self, domPart := v.extractLsb' 9 3
           domErr := s.dev.domErr && !v.getLsbD 1, domEn := v.getLsbD 0 } }) ∧
       ((∃ x ∈ s.parts, x.2.st ≠ .off) ∨ ndev = 0 ∨ 2304 < ndev ∨ ndev ≤ self →
         ∃ t, exec (.domcfgWrite v) s = .next t ∧ t = { s with dev := { s.dev with domErr := true } })) ∧
     (∀ (d : Nat) (q : RemoteReq),
       let a := q.offset % 2 ^ 39
       let answers := fun (t : State) (r : RemoteResp) => t.dev = { s.dev with peerAnswer := some r }
       (s.dev.domEn = false ∨ s.dev.ndev.toNat < q.ndev →
         ∃ t, exec (.remoteAccessIncoming d q) s = .next t ∧ answers t .error ∧ t.ms = s.ms ∧
           t = { s with dev := t.dev, mgmt := { s.mgmt with errLog := t.mgmt.errLog, errCnt := s.mgmt.errCnt + 1 } }) ∧
       (s.dev.domEn = true → q.ndev ≤ s.dev.ndev.toNat → s.keyOk s.dev.domPart.toNat q.keyId = false →
         ∃ t, exec (.remoteAccessIncoming d q) s = .next t ∧ answers t .keyFailed ∧ t.ms = s.ms) ∧
       (s.dev.domEn = true → q.ndev ≤ s.dev.ndev.toNat → s.keyOk s.dev.domPart.toNat q.keyId = true →
         (q.kind = .load → s.poisonIn a q.len = none →
           ∃ t, exec (.remoteAccessIncoming d q) s = .next t ∧ answers t (.ok (s.physRead q.keyId a q.len)) ∧
             t = { s with dev := t.dev }) ∧
         (∀ b, q.kind = .store b → s.memOk → tsorted s.ms.lineKeys = true →
           ∃ t, exec (.remoteAccessIncoming d q) s = .next t ∧ answers t (.ok []) ∧ t = { s with dev := t.dev, ms := t.ms } ∧
             t.memOk ∧ t.physRead q.keyId a b.length = b ∧
             ∀ x, (x < a ∨ a + b.length ≤ x) → s.UnderKey q.keyId a b.length x → t.byte x = s.byte x) ∧
         (∀ op x e, q.kind = .atomic op x e → s.poisonIn a q.len = none → s.memOk → tsorted s.ms.lineKeys = true →
           ∃ t, exec (.remoteAccessIncoming d q) s = .next t ∧ answers t (.ok (s.physRead q.keyId a q.len)) ∧
             t = { s with dev := t.dev, ms := t.ms } ∧ t.physRead q.keyId a q.len =
               natBytes (atomNew op (BitVec.ofNat 64 (bytesNat (s.physRead q.keyId a q.len))) x e).toNat q.len ∧
             ∀ y, (y < a ∨ a + q.len ≤ y) → s.UnderKey q.keyId a q.len y → t.byte y = s.byte y))) ∧
     (∀ (u : Nat) (r : RemoteResp),
       let x := s.team u
       (∀ l y k, x.remote = l ++ y :: k → (∀ z ∈ l, z.answer ≠ none) → y.answer = none →
         ∃ t, exec (.remoteResponse u r) s = .next t ∧ s.OnlyTeam t u ∧
           t.team u = { x with remote := l ++ { y with answer := some r } :: k }) ∧
       (∀ y k, x.unacked = y :: k →
         ∃ t, exec (.remoteStoreAck u r) s = .next t ∧ s.OnlyTeam t u ∧ t.team u = { x with
           unacked := k
           storeFails := match respFail r with
             | some c => x.storeFails ++ [⟨c, y.va⟩]
             | none => x.storeFails }) ∧
       (∀ y, x.unacked = [] → x.engRemote = [] → x.remote = [y] → y.answer = none → y.sentAt + 200000 ≤ s.tick →
         ∃ t, exec (.remoteTimeout u) s = .next t ∧ s.OnlyTeam t u ∧
           t.team u = { x with remote := [{ y with answer := some .error }] }))) ∧
  (∀ (s : State) (g : Nat) (c : CollCmd) (r : List CollCmd),
     let x := s.gang g
     let k := groupKey x.part (collGroup c.desc)
     x.colls = c :: r → c.done = false → (∀ y ∈ r, y.done = false ∧ y.num ≠ c.num) → (s.part x.part).st = .running →
     c.outcome = none →
     let q := s.keeping (.coll c.num) c.old
     let result := c.addr + 0x20
     (∀ peers tree own s1 w, peers.length = collMembers c.desc →
       treeOk tree (collMembers c.desc) = true → (∀ b ∈ peers, b.length = collSrcLen c.desc) →
       let src := BitVec.ofNat 64 (fieldAt c.desc 0 8)
       q.engResolve c.team (q.engGet (s.teamCtx c.team) .load src (collSrcLen c.desc)) = .ok own →
       (q.noteRange (s.teamCtx c.team) src (collSrcLen c.desc)).engWrite c.team (BitVec.ofNat 64 (fieldAt c.desc 8 8))
         (collResult c.desc (peers.set (collRank c.desc) own) tree) = .done s1 →
       s1.engWrite c.team result (natBytes 0 8) = .done w → w.gang g = x → (w.part x.part).st = .running →
       ∃ t, exec (.collectiveEnd g c.num.toNat peers tree true) s = .next t ∧
         t.gang g = { x with colls := r, collTl := c.num } ∧
         t = { w.letGo with
           gangs := tset w.gangs g (t.gang g)
           teams := tset w.teams c.team ((w.team c.team).engDone (.coll c.num)) }) ∧
     (∀ d w, c.due = some d → d + 2000 ≤ s.tick →
       (q.spoilDst c).engWrite c.team result (natBytes FaultCode.collectiveTimeout.num 8) = .done w →
       w.gang g = x → (w.part x.part).st = .running →
       ∃ t, exec (.collectiveExpiry g c.num.toNat) s = .next t ∧
       (tget (0, none) t.dev.groups k).2 = some .collectiveTimeout ∧ (t.gang g).colls = r ∧ (t.gang g).collTl = c.num) ∧
     ((c.due = none ∨ ∃ d, c.due = some d ∧ s.tick < d + 2000) → exec (.collectiveExpiry g c.num.toNat) s = .next s) ∧
     (∀ (p : Nat) (v : BitVec 64), s.Answers → v.getLsbD 16 = true →
       let k := groupKey p (bitsOf v.toNat 15 0)
       ((tget (0, none) s.dev.groups k).2 ≠ none ∨
           ∀ x ∈ s.gangs, x.2.part = p → ∀ c ∈ x.2.colls, c.done = true ∨ collGroup c.desc ≠ bitsOf v.toNat 15 0) →
       ∃ t, exec (.collrstWrite p v) s = .next t ∧
         t = { s with dev := { s.dev with groups := tset s.dev.groups k (0, none) } }))

/-! ### Engines -/

/-- R262, R263: the copy engine starts a team's oldest waiting command; one whose rows have been copied leaves the queue
and the copy timeline takes its number, also where it stops on a failure, which the team's next wait meets, or for a CPYY
its continuation.
R257, R258: a running walker with room in its ring appends its next entry and stops after the last one; where the
entry cannot be read it stops with FAULT and the failure. -/
def Obligations.CopiesRun : Prop :=
  (∀ (s : State) (u : Nat),
     let x := s.team u
     (∀ l c r, x.copyQ = l ++ c :: r → (∀ y ∈ l, y.started = true) → c.started = false → (∀ y ∈ l ++ r, y.num ≠ c.num) →
       (s.part (s.gang x.gang).part).st = .running →
       ∃ t, exec (.copyStart u) s = .next t ∧ s.OnlyTeam t u ∧
         t.team u = { x with copyQ := l ++ { c with started := true } :: r }) ∧
     (∀ c r w, x.copyQ = c :: r → c.started = true → c.done = false → (∀ y ∈ r, y.done = false ∧ y.num ≠ c.num) →
       x.st ≠ .out → (∀ n y, WaitCond.copyNumber n y ∉ x.waits) →
       ∀ y out fails, y.num = c.num → w.team u = { x with copyQ := y :: r, engRemote := out, engFails := fails } →
       let gone : Team := ({ x with copyQ := r, copyTl := c.num, engRemote := out, engFails := fails } : Team).engDone (.copy c.num)
       ((s.keeping (.copy c.num) c.old).copyRest u c = .done w →
         ∃ t, exec (.copyComplete u) s = .next t ∧ t.team u = gone ∧
           t = { w.letGo with teams := tset w.teams u (t.team u) }) ∧
       (∀ f, (s.keeping (.copy c.num) c.old).copyRest u c = .fail f w → x.ended = false →
         ∃ t, exec (.copyComplete u) s = .next t ∧
           t.team u = (if c.cont = none then { gone with copyFails := x.copyFails ++ [⟨c.num, u, f⟩] }
             else { gone with contFails := x.contFails ++ [⟨c.num, u, f⟩] }) ∧
           t = { w.letGo with teams := tset w.teams u (t.team u) }))) ∧
  (∀ (s : State) (g n : Nat),
     let x := s.gang g
     let w := x.walker n
     let r := x.ring w.ring
     let va := BitVec.ofNat 64 (fieldAt w.desc 0 8) + walkOffset w.desc (walkDims w.desc) 0 w.produced
     let q : State := { s with issue := { s.issue with eng := .walker n } }
     let u := s.walkerTeam g w
     w.run = true → x.suspended = false → (s.part x.part).st = .running → r.filled < r.size → (tfind s.teams u).isSome = true →
     (∀ b, q.engGet (s.teamCtx u) .load va r.entryBytes = .ok b →
       let v := q.noteRange (s.teamCtx u) va r.entryBytes
       ∃ t, exec (.walkerEntry g n) s = .next t ∧
         t = { v with
           issue := { s.issue with eng := .none }
           gangs := tset s.gangs g (t.gang g)
           teams := tset s.teams u ((s.team u).engDone (.walker n)) } ∧
         t.gang g = { x.write (r.entryAt r.tail) b with
           rings := tset x.rings w.ring { r with tail := r.tail + 1 }
           walkers := tset x.walkers n { w with
             produced := w.produced + 1, run := decide (w.produced + 1 ≠ walkTotal w.desc) } }) ∧
     (∀ f, q.engGet (s.teamCtx u) .load va r.entryBytes = .fail f →
       ∃ t, exec (.walkerEntry g n) s = .next t ∧ s.SameMemory t ∧
         t = { s with
           issue := { s.issue with eng := .none }
           gangs := tset s.gangs g (t.gang g)
           teams := tset s.teams u ((s.team u).engDone (.walker n)) } ∧
         t.gang g = { x with
           rings := tset x.rings w.ring { r with broken := some (f.code, f.addr) }
           walkers := (tset x.walkers n { w with run := false, fault := true, faultCode := f.code, faultAddr := f.addr }) })) ∧
  (∀ (s : State) (u : Nat) (c : CopyCmd) (r : List CopyCmd),
     let x := s.team u
     let g := s.gang x.gang
     let n := copyLen c.rec_
     let src := BitVec.ofNat 64 (fieldAt c.rec_ 0 8) + strideAt c.rec_ 0x20 * BitVec.ofNat 64 c.row
     let dst := BitVec.ofNat 64 (fieldAt c.rec_ 8 8) + strideAt c.rec_ 0x24 * BitVec.ofNat 64 c.row
     x.copyQ = c :: r → c.started = true → c.done = false → (∀ y ∈ r, y.done = false ∧ y.num ≠ c.num) →
     x.st ≠ .out → (∀ n y, WaitCond.copyNumber n y ∉ x.waits) → c.todo = [] → c.row + 1 = copyRows c.rec_ →
     copyOp c.rec_ = 0 → copySsp c.rec_ = 1 → copyDsp c.rec_ = 1 →
     g.suspended = false → g.unseen = [] → Memory.wf g.store = true →
     s.storeRead x.gang src n 1 = .ok (.gang src.toNat) → g.checkStore dst n 1 = .ok (.gang dst.toNat) →
     ∃ t, exec (.copyComplete u) s = .next t ∧ s.SameMemory t ∧ (t.team u).copyQ = r ∧ (t.team u).copyTl = c.num ∧
       Memory.readBytes (t.gang x.gang).store dst.toNat n = Memory.readBytes g.store src.toNat n ∧
       ∀ a, (a < dst.toNat ∨ dst.toNat + n ≤ a) → Memory.read (t.gang x.gang).store a = Memory.read g.store a)

/-- R271, R273-R275, R285: a free side of a cluster's engine grants the waiting command of the highest gang priority, the
oldest first, and carries it out; a command whose work is over leaves the table, its busy bits clearing and the gang's
timeline advancing; a codebook a granted command waits for is read into the SRAM. -/
def Obligations.TrellisRuns : Prop :=
  ∀ (s : State) (cl g : Nat) (c : TrellisCmd),
    let x := s.gang g
    (∀ (array : Bool) (w : State),
      let mine := fun (y : Nat × TrellisCmd) => y ∈ s.table cl ∧ y.2.op.onArray = array
      (∀ y, mine y → y.2.running = false) → mine (g, c) → (s.part x.part).st = .running →
      (∀ y, mine y → (s.part (s.gang y.1).part).st = .running → y ≠ (g, c) →
        (s.gang y.1).prio < x.prio ∨ (s.gang y.1).prio = x.prio ∧ c.order < y.2.order) → c.filled = false →
      let s1 := s.setGang g
        { x with trellis := x.trellis.map fun y => (if y.num = c.num then { y with running := true } else y : TrellisCmd) }
      s1.stalls { c with running := true } = false →
      (s1.keeping (.trellis c.num) c.old).trellisWork cl g { c with running := true } = .done w →
      ∃ t, exec (if array then .trellisArrayGrant cl else .trellisPortGrant cl) s = .next t ∧
        t = { w.letGo with gangs := tset w.gangs g (t.gang g) } ∧
        t.gang g = { w.gang g with trellis := (w.gang g).trellis.map fun y =>
          (if y.num = c.num then { y with filled := true } else y : TrellisCmd) }) ∧
    (c ∈ x.trellis → c.filled = true → c.more = false → (∀ y ∈ x.trellis, y.num = c.num → y = c) → c.fail = none →
      s.stalls c = false →
      ∃ t, exec (.trellisCommandComplete g c.num.toNat) s = .next t ∧ s.SameMemory t ∧
        t = { s with
          gangs := tset s.gangs g (t.gang g)
          teams := tset s.teams c.team ((s.team c.team).engDone (.trellis c.num)) } ∧
        (t.gang g).trellis = x.trellis.filter (fun y => y.num != c.num) ∧
        (∀ y ∈ (t.gang g).trellis, (t.gang g).trellisTl.toNat < y.num.toNat ∨ y.num = 0) ∧
        ((t.gang g).trellis = [] → (t.gang g).trellisTl = x.trellisNum) ∧
        (∀ n, n ∈ c.op.tiles.2 → ((t.gang g).tile n).wb = false) ∧
        (∀ n, n ∈ c.op.tiles.1 → n ∉ c.op.tiles.2 → ((t.gang g).tile n).rb = (x.tile n).rb - 1) ∧
        t.gang g = { x with
          trellis := (t.gang g).trellis, trellisTl := (t.gang g).trellisTl, tiles := (t.gang g).tiles } ∧
        ∀ n, n ∉ c.op.tiles.1 → n ∉ c.op.tiles.2 → (t.gang g).tile n = x.tile n) ∧
    (∀ r va l k b, s.table cl = (g, c) :: r → c.running = true → c.filled = false → c.books = va :: l →
      s.wants cl c va = some k →
      (s.keeping (.book cl) c.old).engGet (s.teamCtx c.team) .load va 2048 = .ok b →
      let v := (s.keeping (.book cl) c.old).noteRange (s.teamCtx c.team) va 2048
      ∃ t, exec (.codebookFill cl) s = .next t ∧ s.SameMemory t ∧
        t = { v.letGo with
          ms := { s.ms with lookup := tset s.ms.lookup cl (addBook (s.booksInUse cl) k b (tget [] s.ms.lookup cl)) }
          teams := tset s.teams c.team ((s.team c.team).engDone (.book cl)) }) ∧
    (x.badTile c.readsNow = none →
      let writes := fun (d : Nat) (f : Nat → Nat) => ∃ w, s.trellisWork cl g c = .done w ∧
        w = { s with gangs := tset s.gangs g (w.gang g) } ∧
        w.gang g = { x with tiles := tset x.tiles d ((w.gang g).tile d) } ∧
        (w.gang g).tile d = { x.tile d with bytes := ((w.gang g).tile d).bytes, bad := ((w.gang g).tile d).bad } ∧
        ∀ e, e < tcRows (c.tc d) * tcCols (c.tc d) →
          ((w.gang g).tile d).raw (c.tc d) e = f e % 2 ^ (8 * tcElem (c.tc d))
      (∀ d, c.op = .tzero d → writes d fun _ => 0) ∧
      (∀ kind d a b, c.op = .tmma kind d a b → kind < 2 → Memory.wf (x.tile d).bytes = true →
        let acc := if tcFormat (c.tc d) = 1 then f32 else bf16
        writes d fun e => dot acc ((x.tile d).raw (c.tc d) e) ((List.range (tcCols (c.tc a))).map fun k =>
          ((x.tile a).value (c.tc a) (e / tcCols (c.tc d)) k).mul ((x.tile b).value (c.tc b) (e % tcCols (c.tc d)) k))) ∧
      ∀ d a, c.op = .tcvt d a → tcScale (c.tc d) = 0 → tcFormat (c.tc d) = 1 ∨ tcFormat (c.tc d) = 2 →
        Memory.wf (x.tile d).bytes = true →
        writes d fun e =>
          ((x.tile a).value (c.tc a) (e / tcCols (c.tc d)) (e % tcCols (c.tc d))).round
            (if tcFormat (c.tc d) = 1 then f32 else bf16) (fmtRm c.fmt) (fmtSat c.fmt))

/-- R346, R348, R349: an item of a ray's work that lies past its nearest hit is dropped; a node gives the ray the children
its box tests admit, nearest first, before the rest of its work; the triangles of a block are tested in order; a ray with
no work left ends: its hit block is written, then its slot is free and its job advances; a paused ray stays.
R361-R364: the splat unit of a die starts its oldest waiting job, and the running job composites every pixel, writes
its counts and advances its gang's timeline. -/
def Obligations.EnginesTraverse : Prop :=
  (∀ (s : State) (cl k : Nat) (y : Ray),
     tfind (tget [] s.rays cl) k = some y → y.old = ⟨[], false⟩ → s.issue.pages = [] → s.issue.eng = .none →
     let q := s.keeping (.ray cl k) y.old
     let ctx : Ctx := ⟨(s.gang y.gang).part, cl * 4, some y.team, none⟩
     let past := fun (a : Word) => !FVal.le (f64.decode a.toNat) (f64.decode y.tcur.toNat)
     let becomes := fun (v : State) (z : Ray) => ∃ t, exec (.rayTraversal cl k) s = .next t ∧ s.SameMemory t ∧
       t = { v.letGo with rays := tset s.rays cl (tset (tget [] s.rays cl) k z) }
     (y.paused ≠ none → exec (.rayTraversal cl k) s = .next s) ∧
     (∀ code w, y.paused = none → y.geom ≠ none → y.ending = some code →
       q.engWrite y.team (y.addr + 0x20) (y.hitBlock code) = .done w →
       ∃ t, exec (.rayTraversal cl k) s = .next t ∧
         t = { w.letGo with
           rays := tset w.rays cl (tdel (tget [] w.rays cl) k)
           teams := tset w.teams y.team { (w.team y.team).engDone (.ray cl k) with
             cands := (w.team y.team).cands.filter fun c => c.record != y.addr }
           gangs := tset w.gangs y.gang { w.gang y.gang with
             rayJobs := (jobsFinish (w.gang y.gang).rayJobs (BitVec.ofNat 64 y.job) (w.gang y.gang).rayTl).1
             rayTl := (jobsFinish (w.gang y.gang).rayJobs (BitVec.ofNat 64 y.job) (w.gang y.gang).rayTl).2 } }) ∧
     (y.paused = none → y.geom ≠ none → y.ending = none →
       (∀ a d rest, (y.stack = .node a d :: rest ∨ y.stack = .block a d :: rest) → past d = true →
         becomes q { y with stack := rest }) ∧
       (∀ a d rest b, y.stack = .node a d :: rest → past d = false → y.log = false → y.replay = false →
         q.engGet ctx .load a 128 = .ok b → boxOk b = true →
         becomes (q.noteRange ctx a 128) { y with stack := (y.visits b).map (childWork b a) ++ rest }) ∧
       (∀ a d rest b, y.stack = .block a d :: rest → past d = false → y.log = false → y.replay = false →
         q.engGet ctx .load a 256 = .ok b → blockOk b = true →
         let z := ({ y with stack := rest } : Ray).testTris b (fieldAt b 0 4) 0 0
         z.2.2 = false → becomes (q.noteRange ctx a 256) z.1) ∧
       (y.stack = [] → y.replay = false → becomes q { y with ending := some y.endCode }))) ∧
  (∀ (s : State) (die : Nat) (j : SplatJob) (r : List SplatJob),
     tget [] s.splats die = j :: r → j ∉ r →
     (j.started = false → (∀ k ∈ r, k.started = false) → (s.part (s.gang j.gang).part).st = .running →
       ∃ t, exec (.splatJobStart die) s = .next t ∧ s.SameMemory t ∧
         t = { s with splats := tset s.splats die ({ j with started := true } :: r) }) ∧
     (∀ raw w v, j.started = true → j.outcome = none → (s.keeping (.splat j.num) j.old).splatRecords j.team j.lists [] = .ok raw →
       let all := (runs 32 raw).map parseSplat
       let good := all.filterMap id
       (j.lists.foldl (fun x l => x.noteRange (x.teamCtx j.team) l.addr (32 * l.count))
         (s.keeping (.splat j.num) j.old)).splatPixels j (good.foldl (fun l x => insertSplat x l) [])
         (fieldAt j.desc 0x20 2 * fieldAt j.desc 0x22 2) 0 = .done w →
       fieldAt j.desc 0x38 8 ≠ 0 →
       w.engWrite j.team (BitVec.ofNat 64 (fieldAt j.desc 0x38 8))
         (natBytes good.length 4 ++ natBytes (all.length - good.length) 4 ++ natBytes 0 4 ++ natBytes 0 4) = .done v →
       ∃ t, exec (.splatJobEnd die) s = .next t ∧
         t = { v.letGo with
           splats := tset v.splats die ((tget [] v.splats die).drop 1)
           teams := tset v.teams j.team ((v.team j.team).engDone (.splat j.num))
           gangs := tset v.gangs j.gang { v.gang j.gang with
             splatJobs := (jobsFinish (v.gang j.gang).splatJobs j.num (v.gang j.gang).splatTl).1
             splatTl := (jobsFinish (v.gang j.gang).splatJobs j.num (v.gang j.gang).splatTl).2 } })) ∧
  (∀ (s : State) (j : SplatJob) (p : Splat) (x y : Nat) (ft : List Byte),
     let at_ := fun (off size : Nat) => BitVec.ofNat 64 (fieldAt j.desc off 8 + (y * fieldAt j.desc 0x34 4 + x) * size)
     let fa := BitVec.ofNat 64 (fieldAt j.desc 0 8) + BitVec.ofNat 64 (32 * p.feat)
     let one : FVal := .fin false 1 0
     let zero : FVal := .fin false 0 0
     let add := fun (a b : FVal) => rdf (FVal.add false a b)
     let mul := fun (a b : FVal) => rdf (FVal.mul a b)
     let dx := add (.fin false (2 * x + 1) (-1)) p.cx.neg
     let dy := add (.fin false (2 * y + 1) (-1)) p.cy.neg
     let q := FVal.add false (FVal.add false (FVal.mul p.qa (FVal.mul dx dx))
       (FVal.mul (.fin false 2 0) (FVal.mul p.qb (FVal.mul dx dy)))) (FVal.mul p.qc (FVal.mul dy dy))
     let α := mul p.opacity (f32.decode (FVal.expBits .rne (FVal.mul (.fin true 1 (-1)) (rdf q))))
     let w := mul α one
     let t := mul one (add one α.neg)
     let cov := add one t.neg
     let f := fun (k : Nat) => f32.decode (fieldAt ft (4 * k) 4)
     let bg := fun (k : Nat) => f32.decode (fieldAt j.desc (0x28 + 4 * k) 4)
     let sum := fun (k : Nat) => rdf (FVal.add false zero (FVal.mul w (f k)))
     let mean := fun (k : Nat) => f32.decode (FVal.divBits f32 .rne (sum k) cov)
     FVal.lt one (f32.decode (fieldAt j.desc 0x24 4)) = false → FVal.le (f32.decode 0x3F7D70A4) α = false →
     FVal.lt α (f32.decode 0x3B808081) = false → FVal.lt zero cov = true →
     s.engGet (s.teamCtx j.team) .load fa 32 = .ok ft →
     s.splatPixel j [p] x y = (((s.noteRange (s.teamCtx j.team) (BitVec.ofNat 64 (fieldAt j.desc 0 8 + 32 * p.feat)) 32).surfWrite
         j.team (at_ 8 8)
         (([0, 1, 2].flatMap fun k => half16 (rdf (FVal.add false (sum k) (FVal.mul t (bg k))))) ++ half16 cov)).andPut fun s1 =>
       (s1.surfWrite j.team (at_ 0x10 4) (natBytes (FVal.divBits f32 .rne (sum 3) cov) 4)).andPut fun s2 =>
         s2.surfWrite j.team (at_ 0x18 4) ([4, 5].flatMap fun k => half16 (mean k))))

/-- R225, R296, R478: a line that is neither locked nor of the frame exchange leaves the L2, and a sealed tile that nothing
pins is dropped, any other staying, one whose record has a reserved STATE or cannot be read with its failure logged (log 13);
the store at the head of a team's queue is performed on its recipe tile, or refused
and raised later, or waits for a frame; the stores behind it follow up to the next to a recipe tile. Which sealed tiles leave for it is
the model's choice (log 71). -/
def Obligations.LinesLeave : Prop :=
  ∀ (s : State),
    (∀ pa, let l := lineOf pa
      (l ∈ s.lockedLines ∨ s.target l = .fx → exec (.l2LineEvict (.line pa)) s = .next s) ∧
      (l ∉ s.lockedLines → s.target l ≠ .fx →
        ∃ t, exec (.l2LineEvict (.line pa)) s = .next t ∧ s.SameMemory t ∧
          t = { s with ms := { s.ms with l2 := tdel s.ms.l2 l } })) ∧
    (∀ p n, let x := (s.part p).rtile n
      (s.tileState p n = .ok .sealed → x.pins = 0 → s.hpin p n = false →
        ∃ t, exec (.l2LineEvict (.tile p n)) s = .next t ∧ t = { s with ms := t.ms, parts := t.parts } ∧
          (t.part p).rtile n = { x with bytes := [], resident := false, holder := none, lines := [], bad := [] }) ∧
      (∀ st, s.tileState p n = .ok st → st ≠ .sealed ∨ x.pins ≠ 0 ∨ s.hpin p n = true →
        exec (.l2LineEvict (.tile p n)) s = .next s) ∧
      (∀ f, s.tileState p n = .error f →
        ∃ t, exec (.l2LineEvict (.tile p n)) s = .next t ∧ s.SameMemory t ∧
          t = { s with mgmt := { s.mgmt with errLog := t.mgmt.errLog, errCnt := s.mgmt.errCnt + 1 } })) ∧
    ∀ u h r n off,
      let x := s.team u
      let g := s.gang x.gang
      let rest := r.dropWhile fun y => match y.loc with
        | .recipe _ _ => false
        | _ => true
      x.storeQ = h :: r → h.loc = .recipe n off →
      (∀ w, s.tileStore g.part (some x.gang) n off h.va h.data = .done w →
        ∃ t, exec (.recipeStorePerform u) s = .next t ∧ (t.team u).storeQ = rest ∧
          (r = [] → t = { w with teams := tset w.teams u { w.team u with storeQ := [] } })) ∧
      (∀ m, s.tileStore g.part (some x.gang) n off h.va h.data = .wait m → exec (.recipeStorePerform u) s = .next s) ∧
      ∀ f, s.tileStore g.part (some x.gang) n off h.va h.data = .refused f →
        ∃ t, exec (.recipeStorePerform u) s = .next t ∧ (t.team u).storeQ = rest ∧ f ∈ (t.team u).storeFails ∧
          (r = [] → s.OnlyTeam t u ∧ t.team u = { x with storeQ := [], storeFails := x.storeFails ++ [f] })

/-! ### Belvedere's heads -/

/-- R427, R428, R430, R438: a HEADCTL write with EN is refused with ERR while the head is enabled or running or a check
fails, and otherwise starts frame 0 with the band program in the head's cores; one without EN disables; RUN clears once
the head has blanked and its cores have stopped; a lost sink blanks a link; the mailbox's shadow copy takes writes and
becomes the live record with a write of SEQ. That a link whose sink returns stays blank is the model's choice (log 62).
R427, R431, R433, R440, R471: a line tick advances LTC; at it a late line slips the frame before the bands of that tick
are released, those of a slipped frame as ended, and every line due at it is complete afterwards; a head that was disabled
blanks and stops its cores; a free core starts the oldest band released to it. -/
def Obligations.Heads : Prop :=
  (∀ (s : State) (h : Nat) (v : BitVec 64) (trains : Bool), h < 12 → s.Answers →
     let x := s.head h
     ((x.en = true ∨ x.run = true) →
       ∃ t, exec (.headctlEnable h v trains) s = .next t ∧ s.OnlyHead t h ∧ t.head h = { x with err := true }) ∧
     (x.en = false → x.run = false → (s.modHead h fun y => y.configure v).headRead h trains = none →
       ∃ t, exec (.headctlEnable h v trains) s = .next t ∧ s.OnlyHead t h ∧ t.head h = { x.configure v with err := true }) ∧
     (∀ y prog, x.en = false → x.run = false →
       (s.modHead h fun y => y.configure v).headRead h trains = some (y, prog) →
       ∃ t, exec (.headctlEnable h v trains) s = .next t ∧ t.teams = s.teams ∧ t.gangs = s.gangs ∧
         (let z := t.head h;
           z.en = true ∧ z.run = true ∧ z.ltc = 0 ∧ z.frame = 0 ∧ z.frames = 0 ∧ z.desc = y.desc ∧ z.tt = y.tt) ∧
         ∀ n ∈ y.coreSet, (t.lineCore n).lmem = [] ∧ (t.lineCore n).bad = [] ∧
           (t.lineCore n).imem = numbered ((pieces 12 (fieldAt y.desc 0x30 4) prog).map fun b => BitVec.ofNat 96 (bytesNat b))) ∧
     (x.en = true →
       ∃ t, exec (.headctlDisable h v) s = .next t ∧ s.OnlyHead t h ∧ t.head h = { x with en := false }) ∧
     (x.en = false →
       ∃ t, exec (.headctlDisable h v) s = .next t ∧ s.OnlyHead t h ∧ t.head h = { x with
         descVa := BitVec.ofNat 64 (v.toNat / 4096 * 4096), part := bitsOf v.toNat 7 5, err := x.err && !v.getLsbD 3 })) ∧
  (∀ (s : State) (h : Nat), h < 12 →
     let x := s.head h
     (x.en = false → x.stopping = true → (∀ c ∈ s.lineCores, ∀ r, c.2.run = some r → r.head ≠ h) →
       ∃ t, exec (.headStopped h) s = .next t ∧ s.OnlyHead t h ∧ t.head h = { x with run := false }) ∧
     (h < 4 → ∀ on : Bool,
       ∃ t, exec (.hpdChange h on) s = .next t ∧ s.OnlyHead t h ∧ t.head h = { x with hpd := on, blank := x.blank || !on })) ∧
  (∀ (s : State) (h off n : Nat) (v : BitVec 64), h < 12 → s.Answers →
     let x := s.head h
     ((n = 4 ∨ n = 8) → off % n = 0 → off + n ≤ 0x28 →
       ∃ t, exec (.poseMailboxWrite x.part h off n v) s = .next t ∧ s.OnlyHead t h ∧ t.head h =
         { x with shadow := setBytes (setBytes x.shadow off (natBytes v.toNat n)) 0x1C [0, 0, 0, 0] }) ∧
     (∃ t, exec (.poseMailboxCommit x.part h v) s = .next t ∧ s.OnlyHead t h ∧ t.head h =
       { x with live := setBytes x.shadow 0x28 (natBytes v.toNat 8) }) ∧
     ∀ p, p ≠ x.part → exec (.poseMailboxWrite p h off n v) s = .next s ∧ exec (.poseMailboxCommit p h v) s = .next s) ∧
  (∀ (s : State) (h : Nat), h < 12 →
     let x := s.head h
     let o := (x.ltc + 1 - x.start).toNat
     (x.run = false ∨ x.tickDue h s.tick = false → exec (.lineTick h) s = .next s) ∧
     (x.run = true → x.tickDue h s.tick = true → x.en = false →
       ∃ t, exec (.lineTick h) s = .next t ∧ s.SameMemory t ∧
         t.head h = { x with ltc := x.ltc + 1, stopping := true, blank := true, bands := [], fifo := [] } ∧
         t = { s with heads := tset s.heads h (t.head h), lineCores := t.lineCores } ∧
         (∀ n r, (t.lineCore n).run = some r → r.head ≠ h) ∧
         ∀ n, (∀ r, (s.lineCore n).run = some r → r.head ≠ h) → t.lineCore n = s.lineCore n) ∧
     (x.run = true → x.tickDue h s.tick = true → x.en = true → s.frameOver h o = false →
       ∃ t, exec (.lineTick h) s = .next t ∧ t.teams = s.teams ∧ t.gangs = s.gangs ∧
         (t.head h).ltc = x.ltc + 1 ∧ (t.head h).frame = x.frame ∧ (t.head h).start = x.start ∧
         (t.head h).desc = x.desc ∧
         (∀ b, b < x.bandCount → x.releaseAt b = o → ∃ bs, tfind (t.head h).bands b = some bs ∧
           ((t.head h).slipped = true → bs.ended = true)) ∧
         ∀ l, l < x.height → x.dueAt l = o → ((t.head h).line l).complete = true) ∧
     (x.run = true → x.tickDue h s.tick = true → x.en = true → s.frameOver h o = true →
       ∃ t, exec (.lineTick h) s = .next t ∧ t.teams = s.teams ∧ t.gangs = s.gangs ∧
         (t.head h).ltc = x.ltc + 1 ∧ (t.head h).frame = x.frame + 1 ∧ (t.head h).frames = x.frames + 1 ∧
         (t.head h).start = x.ltc + 1)) ∧
  (∀ (s : State) (h n b : Nat) (bs : BandState),
     let x := s.head h
     n < 16 → (s.lineCore n).run = none → tfind s.heads h = some x → tsorted s.heads = true →
     (∀ e ∈ s.heads, e.1 ≠ h → e.2.stopping = true ∨ e.2.run = false ∨ e.2.slipped = true ∨
       ∀ y ∈ e.2.bands, y.2.started = true ∨ y.2.ended = true ∨ y.2.core ≠ n) →
     x.stopping = false → x.run = true → x.slipped = false →
     tsorted x.bands = true → tfind x.bands b = some bs → bs.started = false → bs.ended = false → bs.core = n →
     (∀ e ∈ x.bands, e.2.started = false → e.2.ended = false → e.2.core = n → e.1 ≠ b → bs.order < e.2.order) →
     ∃ t, exec (.bandStart n) s = .next t ∧ s.SameMemory t ∧
       t = { s with heads := tset s.heads h (t.head h), lineCores := tset s.lineCores n (t.lineCore n) } ∧
       t.head h = { x with bands := tset x.bands b { bs with started := true } } ∧
       t.lineCore n = { s.lineCore n with
         run := some ⟨h, x.frame, x.start, b, bs.sel, bs.header⟩, line := BitVec.ofNat 32 (x.bandLines b).1
         band := BitVec.ofNat 32 b, pose := bs.pose, pc := fieldAt x.desc 0x34 4, loops := [], flow := .seq
         waiting := false, failed := none })

/-! ### The device -/

/-- R43, R65, R67, R68, R474: a device reset leaves the reset state, but for the signature counter and host memory; a power
loss the same with the rail off; bring-up goes on phase by phase to READY, phase LINK once the link has trained, or to
recovery where a firmware image fails its check, and phase MEM zeroes every memory of the device; a key blob that unwraps
installs its key; a signature advances the counter before its report leaves, which measures every image bring-up verified,
and 2²⁰ of them end the service. The reset state's registers without a reset value in the spec hold the model's own (logs 6
to 8); that the first image to fail is the one reported, and a report of fields without a layout, are its choices too (log
56).
R146, R476, R228: ILIMCFG sets the limit, at least 256, and while throttled only lowers it; a sensor at TRIP cuts the
rail, one at THROT throttles and lowers the limit by 256 to no less than 2,048, and after 1,000,000 cool ticks the limit
rises by 256 to its restore target; an uncorrectable error poisons its line and is logged. The model's choices in it: a
limit already at or below 2,048 is not lowered (log 58), and what the log holds of an error, of a gang-store line as of one
of memory (log 57). -/
def Obligations.DeviceManagement : Prop :=
  (∀ (s : State),
     let hosts := fun (a : Nat) => decide (2 ^ 48 ≤ a ∧ a < 2 ^ 49)
     let good := fun (f : Firmware) => f.signature.length = 2820 ∧ Config.xmssVerifies Config.rootHash f.code f.signature = true
     let fresh : State := { State.reset with
       agenda := s.agenda, free := s.free, mgmt := { State.reset.mgmt with attCount := s.mgmt.attCount }
       ms := { State.reset.ms with mem := s.ms.mem.filter fun c => hosts c.1, poisoned := s.ms.poisoned.filter hosts } }
     let m := s.mgmt
     let manages := fun (i : Instr) (n : Mgmt) => ∃ t, exec i s = .next t ∧ t = { s with mgmt := n } ∧ s.SameMemory t
     (∀ side, exec (.deviceReset side) s = .next fresh) ∧
     exec .powerLoss s = .next { fresh with mgmt := { fresh.mgmt with railOn := false } } ∧
     (s.memOk → fresh.memOk ∧ ∀ a, fresh.byte a = if hosts a then s.byte a else 0) ∧
     (∀ l : List Firmware,
       (m.phase = 4 ∨ m.recov = true ∨ m.phase = 3 ∧ m.linkUp = false → exec (.bringupPhaseComplete l) s = .next s) ∧
       (∀ k f, m.phase = 1 → m.recov = false → l[k]? = some f → ¬ good f → (∀ j y, j < k → l[j]? = some y → good y) →
         manages (.bringupPhaseComplete l) { m with recov := true, failedImage := some k }) ∧
       (m.phase.toNat < 4 → m.phase ≠ 2 → m.recov = false → (m.phase = 1 → ∀ f ∈ l, good f) → (m.phase = 3 → m.linkUp = true) →
         manages (.bringupPhaseComplete l)
           { m with phase := m.phase + 1, images := if m.phase = 1 then l.map (·.code) else m.images }) ∧
       (m.phase = 2 → m.recov = false → s.memOk →
         ∃ t, exec (.bringupPhaseComplete l) s = .next t ∧ t.mgmt = { m with phase := 3 } ∧ t.memOk ∧
           t.teams = s.teams ∧ t.dev = s.dev ∧ ∀ a, (t.byte a = if hosts a then s.byte a else 0) ∧
             ∀ g, t.gangByte g a = 0 ∧ ∀ n, t.tileByte g n a = 0)) ∧
     (∀ width rate, 3 ≤ m.phase.toNat → width ≤ 16 → rate ≤ 128 →
       manages (.cxlLinkTraining width rate) { m with linkWidth := width, linkRate := rate, linkUp := true }) ∧
     (∀ k : BitVec 12, s.Answers → k ≠ 0 → k.toNat ∉ m.keys →
       manages (.keyBlobInstall k true) { m with keys := m.keys ++ [k.toNat] } ∧ exec (.keyBlobInstall k false) s = .next s) ∧
     ∀ nonce, s.Answers →
       (m.attCount < 2 ^ 20 → ∃ r : AttReport, r.nonce = nonce ∧ r.index = m.attCount ∧
         r.measures = m.images.map Config.measure ∧
         r.signature = Config.signature m.attCount nonce r.measures r.config ∧
         r.config = s.parts.map (fun p => (p.1, p.2.st != .off, p.2.root, p.2.mask, p.2.keySet, p.2.shadow)) ∧
         manages (.attestationRequest nonce) { m with attCount := m.attCount + 1, attReport := some r, attError := false }) ∧
       (2 ^ 20 ≤ m.attCount → manages (.attestationRequest nonce) { m with attReport := none, attError := true })) ∧
  (∀ (s : State),
     (∀ v : BitVec 64, s.Answers →
       let n := max 256 (v.extractLsb' 0 16).toNat
       ∃ t, exec (.ilimcfgWrite v) s = .next t ∧ s.SameMemory t ∧
         t = { s with dev := { s.dev with ilim := t.dev.ilim }, mgmt := { s.mgmt with restore := BitVec.ofNat 16 n } } ∧
         t.dev.ilim.toNat = if s.mgmt.throt then min n s.dev.ilim.toNat else n) ∧
     (∀ (temps : List (BitVec 16)) (mw : BitVec 32) (mj : BitVec 64),
       let m := { s.mgmt with temps := temps, modPwr := mw, energy := mj }
       let at_ := fun (c : Int) => ∃ x ∈ temps, 16 * c ≤ x.toInt
       let rises := m.throt = true ∧ 0 < m.coolAt ∧ m.coolAt + 999999 ≤ s.tick
       ∃ t, exec (.thermalSample temps mw mj) s = .next t ∧ s.SameMemory t ∧
         t = { s with
           mgmt := { m with
             railOn := t.mgmt.railOn, linkUp := t.mgmt.linkUp, throt := t.mgmt.throt, coolAt := t.mgmt.coolAt }
           dev := { s.dev with ilim := t.dev.ilim } } ∧
         (at_ m.trip.toNat → t.mgmt.railOn = false ∧ t.mgmt.linkUp = false) ∧
         (¬ at_ m.trip.toNat → t.mgmt.railOn = m.railOn ∧ t.mgmt.linkUp = m.linkUp) ∧
         (at_ m.throtAt.toNat → t.mgmt.throt = true ∧ t.mgmt.coolAt = 0 ∧
           t.dev.ilim.toNat = if s.dev.ilim.toNat ≤ 2048 then s.dev.ilim.toNat else max 2048 (s.dev.ilim.toNat - 256)) ∧
         (¬ at_ m.throtAt.toNat → at_ (m.throtAt.toNat - 5) →
           t.mgmt.throt = m.throt ∧ t.mgmt.coolAt = 0 ∧ t.dev.ilim = s.dev.ilim) ∧
         (¬ at_ m.throtAt.toNat → ¬ at_ (m.throtAt.toNat - 5) →
           t.mgmt.coolAt = (if m.coolAt = 0 then s.tick + 1 else m.coolAt) ∧
           (rises → t.dev.ilim.toNat = min m.restore.toNat (s.dev.ilim.toNat + 256) ∧
             t.mgmt.throt = decide (t.dev.ilim ≠ m.restore)) ∧
           (¬ rises → t.dev.ilim = s.dev.ilim ∧ t.mgmt.throt = m.throt))) ∧
     ∀ (a g : Nat) (unit : BitVec 16),
       (∃ t, exec (.memoryUncorrectableError (.phys a) unit) s = .next t ∧ s.SameMemory t ∧
         t = { s with
           ms := { s.ms with poisoned := t.ms.poisoned }
           mgmt := { s.mgmt with errLog := t.mgmt.errLog, errCnt := s.mgmt.errCnt + 1 } } ∧
         ∀ l, l ∈ t.ms.poisoned ↔ l ∈ s.ms.poisoned ∨ l = lineOf a) ∧
       ((tfind s.gangs g).isSome = true → ∃ t, exec (.memoryUncorrectableError (.gang g a) unit) s = .next t ∧ s.SameMemory t ∧
         t = { s with
           gangs := tset s.gangs g (t.gang g)
           mgmt := { s.mgmt with errLog := t.mgmt.errLog, errCnt := s.mgmt.errCnt + 1 } } ∧
         t.gang g = { s.gang g with bad := (t.gang g).bad } ∧
         ∀ l, l ∈ (t.gang g).bad ↔ l ∈ (s.gang g).bad ∨ l = lineOf a))

/-- R44-R46, R54, R55, R64, R229, R401: registers take an aligned 4- or 8-byte access once the device is ready; any other
write is ignored and any other read gives 0, as every register but MGMTSTAT does while the link trains; an 8-byte write of
a timeline slot signals it and an 8-byte read gives its value, a 4-byte one is ignored and gives 0; PARTSTAT gives STATE; the frame exchange range changes while no head runs and then reads 0; host writes
reach host memory, and device memory within the exposed range under an installed key, which host reads give back; a read
outside that range ends in an error and is logged. The model's choices in it: the HDM register and the range it exposes
(the key in bits 43:32; log 16), PAGEROOT taken in every state (log 74), the lines given up with ways that pass to the
frame exchange (log 71), what a line written under a key ID reads as under another (log 76), and that while the rail is off no read is answered.
R418-R420: TRCCTL sets the trace's fields; each entity owes a SYNC once tracing is enabled, whose loss count begins at
0 (the model's choice, log 55); the link sends its training sequence and what was buffered once it is ready, a LOSS before
it at a return after drops; a lost link only stops. -/
def Obligations.HostAndTrace : Prop :=
  (∀ (s : State),
     (∀ (r : HostReg) (a : RegAccess) (v : BitVec 64), (¬ s.Answers ∨ a.aligned = false ∨ (a.size ≠ 4 ∧ a.size ≠ 8)) →
       exec (.registerWrite r a v) s = .next s) ∧
     (s.Answers → ∀ (p : Nat) (v : BitVec 64), p < 8 →
       let q := s.part p
       let becomes := fun (r : HostReg) (x : Part) =>
         ∃ t, exec (.registerWrite r ⟨8, true, false⟩ v) s = .next t ∧ s.OnlyPart t p ∧ t.part p = x
       becomes (.pageRoot p) { q with root := v } ∧ becomes (.tlbiVal p) { q with tlbiVal := v } ∧
         becomes (.lockCfg p) { q with lockQuota := v.extractLsb' 0 16 } ∧
         (q.resident = false → becomes (.collGrp p) { q with collGrp := v }) ∧
         (q.resident = true → exec (.registerWrite (.collGrp p) ⟨8, true, false⟩ v) s = .next s)) ∧
     (s.Answers → ∀ (p n : Nat) (v : Word), p < 8 → n < 65536 → s.NoCloses p →
       ∃ t, exec (.tlslotHostWrite p n v) s = .next t ∧ s.OnlyPart t p ∧
         t.part p = { s.part p with slots := (t.part p).slots } ∧
         ∀ k, t.slotVal p k = if k = n ∧ (s.slotVal p n).toNat < v.toNat then v else s.slotVal p k) ∧
     (s.Answers → ∀ (p n : Nat) (v : BitVec 64) (high : Bool), p < 8 → n < 65536 →
       exec (.registerWrite (.tlSlot p n) ⟨8, true, false⟩ v) s = exec (.tlslotHostWrite p n v) s ∧
       exec (.registerWrite (.tlSlot p n) ⟨4, true, high⟩ v) s = .next s ∧
       (s.mgmt.railOn = true → s.mgmt.linkUp = true →
         s.hostRead (.tlSlot p n) ⟨8, true, false⟩ = some (s.slotVal p n).toNat ∧
         s.hostRead (.tlSlot p n) ⟨4, true, high⟩ = some 0 ∧
         s.hostRead (.partStat p) ⟨8, true, false⟩ = some (s.part p).st.num)) ∧
     (s.Answers → s.mgmt.railOn = true → s.mgmt.linkUp = true →
       ∀ (r : HostReg) (a : RegAccess), (a.aligned = false ∨ (a.size ≠ 4 ∧ a.size ≠ 8)) → s.hostRead r a = some 0) ∧
     (s.mgmt.phase = 3 → s.mgmt.railOn = true → ∀ (r : HostReg) (a : RegAccess), r ≠ .mgmtStat → s.hostRead r a = some 0) ∧
     (s.mgmt.railOn = false ∨ s.Answers ∧ s.mgmt.linkUp = false → ∀ (r : HostReg) (a : RegAccess), s.hostRead r a = none) ∧
     (s.Answers → ∀ v : BitVec 64,
       let size := v.extractLsb' 0 4
       let part := v.extractLsb' 4 3
       (size.toNat < 10 → (∀ h ∈ s.heads, h.2.en = false ∧ h.2.run = false) → s.memOk →
         ∃ t, exec (.fxcfgWrite v) s = .next (t.yieldWays s.generalWays) ∧
           (s.generalWays ≤ t.generalWays → exec (.fxcfgWrite v) s = .next t) ∧ t = { s with
             ms := t.ms, dev := { s.dev with fxSize := size, fxPart := part, fxErr := s.dev.fxErr && !v.getLsbD 8 } } ∧
           t.memOk ∧ (size = s.dev.fxSize → t.ms = s.ms) ∧
           (∀ a, (a < 2 ^ 49 ∨ 2 ^ 50 ≤ a) → s.target a ≠ .fx → t.byte a = s.byte a) ∧
           (size ≠ s.dev.fxSize → ∀ a, 2 ^ 49 ≤ a → a < 2 ^ 50 → t.byte a = 0)) ∧
       ((10 ≤ size.toNat ∨ ((size ≠ s.dev.fxSize ∨ part ≠ s.dev.fxPart) ∧ ∃ h ∈ s.heads, h.2.en = true ∨ h.2.run = true)) →
         ∃ t, exec (.fxcfgWrite v) s = .next t ∧ t = { s with dev := { s.dev with fxErr := true } })) ∧
     (∀ (hpa : Nat) (data : List Byte), hpa + data.length ≤ 2 ^ 48 → s.memOk →
       ∃ t, exec (.hostCacheWriteSnoop hpa data) s = .next t ∧ t = { s with ms := t.ms } ∧ t.memOk ∧
         t.physRead 0 (2 ^ 48 + hpa) data.length = data ∧
         ∀ a, (a < 2 ^ 48 + hpa ∨ 2 ^ 48 + hpa + data.length ≤ a) → t.byte a = s.byte a) ∧
     (s.Answers → ∀ (pa : Nat),
       let r := s.mgmt.exposed
       let key := bitsOf s.mgmt.hdm.toNat 43 32
       (∀ data : List Byte, r.1 ≤ pa → pa + data.length ≤ r.1 + r.2 → pa + data.length ≤ 2 ^ 39 →
         (key = 0 ∨ key ∈ s.mgmt.keys) → s.memOk → tsorted s.ms.lineKeys = true →
         ∃ t, exec (.hostCxlMemAccess true pa 0 data) s = .next t ∧ t = { s with ms := t.ms } ∧ t.memOk ∧
           t.physRead (BitVec.ofNat 12 key) pa data.length = data ∧
           ∀ a, (a < pa ∨ pa + data.length ≤ a) → s.UnderKey (BitVec.ofNat 12 key) pa data.length a → t.byte a = s.byte a) ∧
       (∀ n, (pa < r.1 ∨ r.1 + r.2 < pa + n ∨ 2 ^ 39 < pa + n) →
         ∃ t, exec (.hostCxlMemAccess false pa n []) s = .next t ∧ s.SameMemory t ∧ t.ms = s.ms ∧
           t = { s with mgmt := { s.mgmt with hostRead := none, errLog := t.mgmt.errLog, errCnt := s.mgmt.errCnt + 1 } }) ∧
       (∀ n, r.1 ≤ pa → pa + n ≤ r.1 + r.2 → pa + n ≤ 2 ^ 39 →
         ((key = 0 ∨ key ∈ s.mgmt.keys) → s.poisonIn pa n = none →
           ∃ t, exec (.hostCxlMemAccess false pa n []) s = .next t ∧ s.SameMemory t ∧
             t = { s with
               ms := { s.ms with hostLines := t.ms.hostLines }
               mgmt := { s.mgmt with hostRead := some (s.physRead (BitVec.ofNat 12 key) pa n) } }) ∧
         (key ≠ 0 → key ∉ s.mgmt.keys →
           ∃ t, exec (.hostCxlMemAccess false pa n []) s = .next t ∧ s.SameMemory t ∧ t.ms = s.ms ∧
             t = { s with mgmt := { s.mgmt with
               hostRead := none, errLog := t.mgmt.errLog, errCnt := s.mgmt.errCnt + 1 } })))) ∧
  (∀ (s : State),
     let x := s.trace
     let only := fun (i : Instr) (y : Trace) => ∃ t, exec i s = .next t ∧ t = { s with trace := y } ∧ s.SameMemory t
     (∀ v : BitVec 64, s.Answers →
       let y := { x with syncPer := v.extractLsb' 48 16, parts := v.extractLsb' 8 8, hfilt := v.getLsbD 1 }
       only (.trcctlEnable v) { y with
         en := true, lost := 0, ents := x.ents.map fun e => (e.1, e.2.owe 1) } ∧
       only (.trcctlDisable v) { y with en := false }) ∧
     (x.link = true → exec .traceLinkReady s = .next s) ∧
     (x.link = false → x.everUp = false → only .traceLinkReady { x with
       link := true, everUp := true, buffer := []
       sent := x.buffer.reverse ++ (((List.range 65536).map trainingWord).reverse ++ x.sent)
       ents := x.ents.map fun e => (e.1, e.2.owe 1) }) ∧
     (x.link = false → x.everUp = true → only .traceLinkReady { x with
       link := true, buffer := [], drops := 0
       sent := x.buffer.reverse ++ (x.loss.reverse ++ (((List.range 65536).map trainingWord).reverse ++ x.sent)) }) ∧
     only .traceLinkLost { x with link := false })

/-! ### The whole machine -/

/-- R22, R23, R28, R90, R106, R126, R141, R145: a team's turn fetches the bundle at its position, starts it and runs its slots;
a slot that has not completed runs the operation decoded for it; a step of the machine itself runs its meaning.
R180, R187, R191, R264: once its slots are done flow leaves the bundle as they chose: on, or by LBRK out of a loop, through
the back edges that stand at the position left; by a branch to its target, the loop records staying; END ends the team; TRET
resumes the team it interrupted; CPYY parks at its continuation. -/
def Obligations.StepRunsDecoded : Prop :=
  (∀ (s : State) (u : Nat) (r : List Turn), s.mgmt.railOn = true → s.agenda = ⟨0, .team u⟩ :: r →
    let t := s.team u
    let g := s.gang t.gang
    let n := t.core
    let q : State := { s with agenda := r }
    ∀ (k : Nat) (e : OvlEntry) (ov : Overlay) (b : Bundle),
      let w := tget 0 ov.words t.pc
      let lit := bundleHasLiteral w
      s.mayFetch u = true → t.flight = none → t.fenced = false → t.contFail = none →
      (∀ c v, (s.core n).fetched = some (c, v) → c ≠ s.cycle) → (s.core n).acted ≠ some s.cycle →
      t.pc < g.image.codeLen → g.image.ovlOf t.pc = some (k, e) → (s.core n).resident g.part g.image k = some ov →
      (lit = true → t.pc + 1 ≠ e.first + e.count ∧ ∀ x ∈ t.regs.loops, x.last.toNat ≠ t.pc) →
      decodeBundle g.image.decMap (fun i => decide (i.vTop ≤ t.vregs) && decide (i.tTop ≤ g.ntile)) w
        (tget 0 ov.words (t.pc + 1)) = .ok b →
      let s1 := (((q.passCont u).touchOverlay u k).modCore n fun c =>
        { c with fetched := some (s.cycle, u), rota := u :: c.rota, acted := some s.cycle }).start u b lit
      (∀ f, (s1.team u).flight = some f →
        f.bundle = b ∧ step s =
          andThen (andThen (s1.runSlots exec u) fun x => .next (q.governed x n)) fun x => x.actNow exec) ∧
      (t.skipLand = false → t.stopAsked = none → t.storeFails = [] → t.held = [] → t.storeQ = [] →
        ∃ f, (s1.team u).flight = some f ∧ f.done = b.nops)) ∧
  (∀ (s : State) (u k : Nat) (f : Flight), (s.team u).flight = some f → f.done.getLsbD k = false →
    mayRun f.bundle f.done k = true → s.breakAt u k = false → (s.team u).stepOne = false → f.oversize = false →
    s.runSlot exec u k = andThen
      (exec (f.bundle.slot k) { s with issue := ⟨u, k, (s.team u).core, (s.team u).old.pages, .none, s.issue.quota⟩ })
      fun x => .next { x with issue := { x.issue with pages := [] } }) ∧
  (∀ (s t : State) (u : Nat), s.runSlots exec u = .next t → ∃ x : State, t = x.settle u) ∧
  (∀ (s : State) (u : Nat) (f : Flight), (s.team u).flight = some f →
    let t := s.team u
    let e := (s.endBundle u).team u
    let stands := fun (n : Nat) => e.held = [] ∧ e.ckptCnt = t.ckptCnt + 1 ∧ e.ckpt.n = n ∧ e.ckpt.done = 0 ∧ e.ckpt.regs = t.regs
    (f.done = 0xF → f.oversize = true → s.settle u = s.endBundle u) ∧
    (f.done = 0xF → f.oversize = false → s.settle u = (s.modTeam u fun x => x.noteShadow f).endBundle u) ∧
    (∀ (x : List LoopRec × Nat), f.flow = .seq ∧ x = s.teamLoops u (nextIndex t.pc f.lit - 1) ∨
        (∃ l, f.flow = .leave l ∧ x = s.teamLoops u l) ∨ f.flow = .jump x.2 ∧ x.1 = t.regs.loops →
      t.fenced = false →
      e.flight = none ∧ e.st = .runnable ∧ e.pc = x.2 ∧ e.regs = { t.regs with loops := x.1 } ∧ e.handler = t.handler ∧
        (f.oversize = false → e.ckpt = t.ckpt ∧ e.ckptCnt = t.ckptCnt ∧ e.held = t.held) ∧
        (f.oversize = true → e.ckptCnt = t.ckptCnt + 1 ∧ e.held = [] ∧ e.ckpt.n = x.2 ∧ e.ckpt.done = 0 ∧ e.ckpt.regs = e.regs)) ∧
    (f.flow = .ended → (t.handler = none → (s.gang t.gang).recompute = none) →
      e.ended = true ∧ e.st = .draining ∧ e.flight = none ∧ e.held = []) ∧
    (∀ m h, f.flow = .tret m → t.handler = some h →
      e.handler = none ∧ e.flight = none ∧ e.pc = h.ckpt.n ∧ e.held = [] ∧ e.ckptCnt = t.ckptCnt + 1 ∧
        e.regs.masks = h.masks ∧ e.regs.loops = h.loops ∧
        (∀ k, k < 4 → e.regs.sget (60 + k) = h.ckpt.regs.sget (60 + k)) ∧ (∀ k, k < 60 → e.regs.sget k = t.regs.sget k) ∧
        e.regs.v = t.regs.v ∧ e.regs.p = t.regs.p ∧ e.regs.c = t.regs.c ∧
        e.ckpt.n = h.ckpt.n ∧ e.ckpt.regs = e.regs ∧ e.ckpt.done = (if m = 1 then h.ckpt.done ||| 1 else h.ckpt.done)) ∧
    (∀ n k, f.flow = .cont n k → t.fenced = false → t.ended = false →
      e.flight = none ∧ e.pc = k ∧ e.contNum = some n ∧ e.regs = t.regs ∧ stands k ∧ e.st = .parked ∧
        e.waits = [.copyNumber n k])) ∧
  (∀ (s : State) (i : Instr) (r : List Turn), s.mgmt.railOn = true → s.agenda = ⟨0, .ev i⟩ :: r → i.enc = .step →
    step s = andThen (exec i { s with agenda := r }) fun x => x.actNow exec)

/-- R445, R448-R450: a line core's turn runs the operations decoded for the three slots of its next bundle on the registers
as the bundle found them; then the bundle fails, or waits and has had no effect, or flow leaves it as its slots chose.
R440: the line ticks of its head whose boundary its display cycle holds come first, so that an EMIT of that cycle is late;
the phase of display cycles is the model's choice (log 66).
R68, R476 (the model's stop, log 18): with the main rail off a step takes a device reset or a sample of the management
controller, which stands on the auxiliary rail, and nothing else. -/
def Obligations.LineStepRunsDecoded : Prop :=
  ((∀ (s : State) (n : Nat) (r : List Turn) (b : BandRun), s.mgmt.railOn = true → s.agenda = ⟨0, .lineCore n⟩ :: r →
     (s.lineCore n).run = some b →
     let q : State := ({ s with agenda := r } : State).ticksHeld b.head
     let w := tget 0 (q.lineCore n).imem (q.lineCore n).pc
     let s0 := q.modLineCore n fun x => { x with before := x.regs, flow := .seq, waiting := false, failed := none }
     ((q.lineCore n).run = none → step s = q.actNow exec) ∧
     (∀ d, (q.lineCore n).run = some d → (q.lineCore n).pc < fieldAt (q.head d.head).desc 0x30 4 →
       step s = andThen
         (andThen (s0.lineSlot exec n 0 (w.extractLsb' 0 32)) fun s1 =>
           andThen (s1.lineSlot exec n 1 (w.extractLsb' 32 32)) fun s2 =>
             andThen (s2.lineSlot exec n 2 (w.extractLsb' 64 32)) fun s3 => .next (q.lineSettle s3 n))
         fun x => x.actNow exec)) ∧
   (∀ (s : State) (h : Nat),
     let x := s.head h
     let p := x.period h
     let held := 8 * (x.epoch * p.2 + (x.ltc.toNat + 1) * p.1) < (s.cycle * 8 / 15 + 1) * 5 * p.2
     (¬ held → s.ticksHeld h = s) ∧
     (held → 0 < p.1 → x.run = true → 8 * (x.epoch * p.2 + (x.ltc.toNat + 2) * p.1) ≥ (s.cycle * 8 / 15 + 1) * 5 * p.2 →
       s.ticksHeld h = s.beginTick h)) ∧
   (∀ (s : State) (n k : Nat) (w : BitVec 32) (i : Instr), decodeBelv k w = .ok i →
     s.lineSlot exec n k w = exec i { s with issue := ⟨0, k, n, [], .none, none⟩ }) ∧
   (∀ (s : State) (n k : Nat) (w : BitVec 32) (c : DecodeErr), decodeBelv k w = .error c →
     ∃ f, s.lineSlot exec n k w = .next (({ s with issue := ⟨0, k, n, [], .none, none⟩ } : State).bfail f 0)) ∧
   (∀ (old s : State) (n : Nat),
     let c := s.lineCore n
     let e := (s.endLineBundle n).lineCore n
     (∀ k f, c.failed = some (k, f) → old.lineSettle s n = old.bandError n k f) ∧
     (c.failed = none → c.waiting = true → old.lineSettle s n = old) ∧
     (c.failed = none → c.waiting = false → old.lineSettle s n = s.endLineBundle n) ∧
     (∀ k, c.flow = .jump k → e = { c with pc := k, flow := .seq }) ∧
     (∀ l, c.flow = .leave l → e = { c with pc := (c.afterBundle l).2, loops := (c.afterBundle l).1, flow := .seq }) ∧
     (c.flow = .seq → e = { c with pc := (c.afterBundle c.pc).2, loops := (c.afterBundle c.pc).1 }) ∧
     (∀ b, c.flow = .ended → c.run = some b →
       e = { c with run := none, loops := [], flow := .seq, waiting := false, failed := none }))) ∧
  (∀ (s : State), s.mgmt.railOn = false →
     ((∀ dt a r, s.agenda ≠ ⟨dt, .ev (.deviceReset a)⟩ :: r) →
       (∀ dt a b c r, s.agenda ≠ ⟨dt, .ev (.thermalSample a b c)⟩ :: r) → step s = .fault .railDown) ∧
     (∀ dt a r, s.agenda = ⟨dt, .ev (.deviceReset a)⟩ :: r → step s = exec (.deviceReset a) { s with agenda := r }) ∧
     (∀ dt a b c r, s.agenda = ⟨dt, .ev (.thermalSample a b c)⟩ :: r →
       step s = exec (.thermalSample a b c) { s with agenda := r }))

/-- 04 Table 4-5, 05 and 08 (the worked encodings), 20 and 23 (the listings): words the spec writes out decode to the operations it
names, a header's extensions and literal included, and a word in a slot that does not accept its class is refused. -/
def Obligations.SpecWordsDecode : Prop :=
  let lit : BitVec 128 := 0x00000000000000003FC00000000003E8
  decodeBundle none (fun _ => true) 0x000000005200E4124000828C00406091 0 =
    .ok ⟨none, .sadd ⟨0, 3, 1, .imm 8⟩, .vaddI32 ⟨0, 4, 5, .reg 6⟩, .fmulF32 ⟨0, 7, 8, .reg 9⟩, .nop 0⟩ ∧
  (∃ h, decodeBundle none (fun _ => true) 0x000000005200C40340110281FF040093 lit =
    .ok ⟨some h, .nop 0, .vaddI32 ⟨2, 200, 5, .lit 0 lit⟩, .fmulF32 ⟨0, 70, 8, .lit 1 lit⟩, .nop 0⟩) ∧
  decodeSlot none 0 .none 0x10080000 = .ok (.br ⟨1, 0⟩) ∧
  decodeSlot none 0 .none 0x14400000 = .ok (.endOp ⟨0, 0, 0, .reg 0⟩) ∧
  decodeSlot none 0 .none 0x09C5FFFE = .ok (.smovi ⟨5, 0xFFFE⟩) ∧
  decodeSlot none 3 .none 0xA5C0E083 = .ok (.sldB64 ⟨0, 7, 1, .imm 1⟩) ∧
  decodeSlot none 3 .none 0xA3408381 = .ok (.stvB32 ⟨0, 4, 7, .imm 0⟩) ∧
  decodeSlot none 0 .none 0x11400180 = .ok (.vjidx ⟨0, 0, 3, .reg 0⟩) ∧
  decodeSlot none 3 .none 0x4000828C = .error .slotClass ∧
  decodeSlot none 1 .none 0x8D00828C = .error .opcodeInvalid ∧
  decodeSlot (some [(0x234, 0x9100)]) 1 .none 0x8D00828C = .ok (.vaddI32 ⟨0, 4, 5, .reg 6⟩) ∧
  decodeSlot (some [(0x235, 0xC000)]) 2 .none 0x8D400001 = .ok (.nop 1) ∧
  decodeSlot (some [(0x236, 0xB100)]) 3 .none 0x8D80828C = .error .opcodeInvalid ∧
  decodeBelv 0 0x10040400 = .ok (.pose ⟨1, 0, 16, 0, 0⟩) ∧
  decodeBelv 0 0x01041041 = .ok (.gadd ⟨1, 1, 1, 0, 1⟩) ∧
  decodeBelv 1 0x48041003 = .ok (.pcvt ⟨1, 1, 0, 0, 3⟩) ∧
  decodeBelv 2 0x82100040 = .ok (.xfetch ⟨4, 0, 1, 0, 0⟩) ∧
  decodeBelv 2 0x89044001 = .ok (.emit ⟨1, 4, 0, 0, 1⟩)

/-- R94-R101, R122, R445, R446: every operation whose operands are within their classes is read back from the word and the
header bits that encode it, in the slot of its class. -/
def Obligations.DecodeEncode : Prop :=
  ∀ i : Instr, i.wf = true → i.enc ≠ .step →
    if i.isBelv then decodeBelv i.homeSlot (encode i) = .ok i
    else decodeSlot none i.homeSlot (encodeCtx i) (encode i) = .ok i

/-- Every step keeps the canonical form of physical memory. -/
def Obligations.StepKeepsMemory : Prop :=
  ∀ (s t : State), s.memOk → step s = .next t → t.memOk

/-- Reset memory has its canonical form.
R474, R475 and the Reset columns of the register tables: what the state after reset holds. -/
def Obligations.ResetValues : Prop :=
  (State.reset.memOk ∧ ∀ pa, State.reset.byte pa = 0) ∧
  (let s := State.reset
   s.timer = 0 ∧ s.mgmt.phase = 0 ∧ s.mgmt.railOn = true ∧ s.mgmt.recov = false ∧ s.mgmt.throt = false ∧
     s.mgmt.trip = 110 ∧ s.mgmt.throtAt = 100 ∧ s.mgmt.energy = 0 ∧ s.dev.ilim = 0x1900 ∧ s.dev.ndev = 1 ∧
     s.dev.self = 0 ∧ s.dev.domEn = false ∧ s.dev.fxSize = 0 ∧ s.trace.en = false ∧ s.trace.lost = 0 ∧
     (∀ p, (s.part p).st = .off) ∧ (∀ p, (s.part p).parkThr = 16) ∧ (∀ p, (s.part p).lockQuota = 0x400) ∧
     (∀ q, (s.queue q).en = false ∧ (s.queue q).head = 0 ∧ (s.queue q).tail = 0) ∧
     (∀ h, (s.head h).en = false ∧ (s.head h).frames = 0) ∧
     s.teams = [] ∧ s.gangs = [] ∧ s.launches = [])
end

