-- ==== Sys2Proof/Laws/Table.lean ====
section
/-!
SUPPORT. Laws of sparse tables and of memories: a read after a write, and the canonical form that every write keeps.
-/

namespace Sys2Proof.Machine

variable {α : Type}

/-- What was put at a key is found there. -/
@[simp] theorem tget_tset_same (d : α) (t : Table α) (k : Nat) (v : α) : tget d (tset t k v) k = v := by
  induction t with
  | nil => simp [tset, tget]
  | cons x r ih =>
    obtain ⟨j, w⟩ := x
    simp only [tset]
    split
    · simp [tget]
    · split
      · simp [tget]
      · simp [tget, *]

/-- Putting at a key changes no other key. -/
theorem tget_tset_ne (d : α) (t : Table α) (k j : Nat) (v : α) (h : j ≠ k) : tget d (tset t k v) j = tget d t j := by
  induction t with
  | nil =>
    simp only [tset, tget]
    grind
  | cons x r ih =>
    obtain ⟨i, w⟩ := x
    simp only [tset, tget]
    grind [tget]

/-- A key below the first is not listed. -/
theorem tget_low (d : α) (i : Nat) (w : α) (r : Table α) (k : Nat) (h : k < i) : tget d ((i, w) :: r) k = d := by
  simp only [tget]
  grind

/-- The keys of a sorted table above its head. -/
theorem tsorted_tail {x : Nat × α} {r : Table α} (h : tsorted (x :: r) = true) : tsorted r = true := by
  cases r with
  | nil => rfl
  | cons y q => obtain ⟨a, v⟩ := x; obtain ⟨b, w⟩ := y; simp [tsorted] at h; exact h.2

/-- A table is sorted with a new first key below its others. -/
theorem tsorted_cons {k : Nat} {v : α} {r : Table α} (h : tsorted r = true) (hk : ∀ x ∈ r.head?, k < x.1) :
    tsorted ((k, v) :: r) = true := by
  cases r with
  | nil => rfl
  | cons y q => obtain ⟨b, w⟩ := y; simp at hk; simp [tsorted, h, hk]

/-- The second key lies above the first. -/
theorem tsorted_head {k : Nat} {v : α} {r : Table α} (h : tsorted ((k, v) :: r) = true) : ∀ x ∈ r.head?, k < x.1 := by
  cases r with
  | nil => simp
  | cons y q => obtain ⟨b, w⟩ := y; simp [tsorted] at h; simp [h.1]

/-- The first key after a put is the one put or the old first. -/
theorem head_tset (t : Table α) (k : Nat) (v : α) : ∀ x ∈ (tset t k v).head?, x.1 = k ∨ ∃ y ∈ t.head?, y.1 = x.1 := by
  cases t with
  | nil => simp [tset]
  | cons y q =>
    obtain ⟨b, w⟩ := y
    simp only [tset]
    split
    · simp
    · split <;> simp

/-- A put keeps the order. -/
theorem tsorted_tset (t : Table α) (k : Nat) (v : α) (h : tsorted t = true) : tsorted (tset t k v) = true := by
  induction t with
  | nil => rfl
  | cons x r ih =>
    obtain ⟨i, w⟩ := x
    simp only [tset]
    split
    · subst_vars
      exact tsorted_cons (tsorted_tail h) (tsorted_head h)
    · split
      · exact tsorted_cons h (by simpa using ‹k < i›)
      · refine tsorted_cons (ih (tsorted_tail h)) fun x hx => ?_
        rcases head_tset r k v x hx with e | ⟨y, hy, e⟩
        · omega
        · have := tsorted_head h y hy
          omega

/-- Keys after a deletion lie among the old ones. -/
theorem head_tdel (t : Table α) (k : Nat) (h : tsorted t = true) : ∀ x ∈ (tdel t k).head?, ∃ y ∈ t.head?, y.1 ≤ x.1 := by
  cases t with
  | nil => simp [tdel]
  | cons y q =>
    obtain ⟨b, w⟩ := y
    intro x hx
    refine ⟨(b, w), by simp, ?_⟩
    simp only [tdel] at hx
    split at hx
    · have := tsorted_head h x hx
      exact Nat.le_of_lt this
    · split at hx <;> simp at hx <;> subst hx <;> exact Nat.le_refl _

/-- A deletion keeps the order. -/
theorem tsorted_tdel (t : Table α) (k : Nat) (h : tsorted t = true) : tsorted (tdel t k) = true := by
  induction t with
  | nil => rfl
  | cons x r ih =>
    obtain ⟨i, w⟩ := x
    simp only [tdel]
    split
    · exact tsorted_tail h
    · split
      · exact h
      · refine tsorted_cons (ih (tsorted_tail h)) fun x hx => ?_
        obtain ⟨y, hy, e⟩ := head_tdel r k (tsorted_tail h) x hx
        have := tsorted_head h y hy
        omega

/-- Every key of a sorted table above a bound stays above it. -/
theorem tget_above (d : α) (r : Table α) (k : Nat) (h : tsorted r = true) (hk : ∀ x ∈ r.head?, k < x.1) : tget d r k = d := by
  cases r with
  | nil => rfl
  | cons y q => obtain ⟨b, w⟩ := y; exact tget_low d b w q k (by simpa using hk)

/-- A deleted key is not listed. -/
theorem tget_tdel_same (d : α) (t : Table α) (k : Nat) (h : tsorted t = true) : tget d (tdel t k) k = d := by
  induction t with
  | nil => rfl
  | cons x r ih =>
    obtain ⟨i, w⟩ := x
    simp only [tdel]
    split
    · subst_vars
      exact tget_above d r i (tsorted_tail h) (tsorted_head h)
    · split
      · exact tget_low d i w r k ‹_›
      · simp [tget, *, ih (tsorted_tail h)]

/-- A deletion changes no other key. -/
theorem tget_tdel_ne (d : α) (t : Table α) (k j : Nat) (h : tsorted t = true) (hj : j ≠ k) :
    tget d (tdel t k) j = tget d t j := by
  induction t with
  | nil => rfl
  | cons x r ih =>
    obtain ⟨i, w⟩ := x
    have ih' := ih (tsorted_tail h)
    simp only [tdel]
    split
    · subst_vars
      simp only [tget]
      split
      · exact absurd (by assumption) (by omega)
      · split
        · exact tget_above d r j (tsorted_tail h) fun x hx => by have := tsorted_head h x hx; omega
        · rfl
    · split
      · rfl
      · simp only [tget, ih']

/-! ### Memories -/

/-- The empty memory has the canonical form. -/
theorem Memory.wf_nil : Memory.wf [] = true := rfl

/-- Values after a put. -/
theorem mem_tset (t : Table α) (k : Nat) (v : α) : ∀ x ∈ tset t k v, x = (k, v) ∨ x ∈ t := by
  induction t with
  | nil => simp [tset]
  | cons y r ih =>
    obtain ⟨i, w⟩ := y
    simp only [tset]
    split
    · grind
    · split <;> grind

/-- Entries after a deletion. -/
theorem mem_tdel (t : Table α) (k : Nat) : ∀ x ∈ tdel t k, x ∈ t := by
  induction t with
  | nil => simp [tdel]
  | cons y r ih =>
    obtain ⟨i, w⟩ := y
    simp only [tdel]
    split
    · grind
    · split <;> grind

/-- A write of one byte keeps the canonical form. -/
theorem Memory.wf_write (m : Memory) (a : Nat) (b : Byte) (h : Memory.wf m = true) : Memory.wf (Memory.write m a b) = true := by
  simp only [Memory.wf, Bool.and_eq_true, List.all_eq_true] at h ⊢
  obtain ⟨hs, hz⟩ := h
  unfold Memory.write
  split
  · exact ⟨tsorted_tdel m a hs, fun x hx => hz x (mem_tdel m a x hx)⟩
  · refine ⟨tsorted_tset m a b hs, fun x hx => ?_⟩
    rcases mem_tset m a b x hx with e | e
    · subst e; simpa using ‹¬b = 0›
    · exact hz x e

/-- A write of bytes keeps the canonical form. -/
theorem Memory.wf_writeBytes (m : Memory) (a : Nat) (l : List Byte) (h : Memory.wf m = true) :
    Memory.wf (Memory.writeBytes m a l) = true := by
  induction l generalizing m a with
  | nil => exact h
  | cons b r ih => exact ih _ _ (Memory.wf_write m a b h)

/-- A byte written is read back. -/
theorem Memory.read_write_same (m : Memory) (a : Nat) (b : Byte) (h : Memory.wf m = true) :
    Memory.read (Memory.write m a b) a = b := by
  simp only [Memory.wf, Bool.and_eq_true] at h
  unfold Memory.read Memory.write
  split
  · rw [tget_tdel_same 0 m a h.1]; exact (by assumption : b = 0).symm
  · simp

/-- A write changes no other byte. -/
theorem Memory.read_write_ne (m : Memory) (a c : Nat) (b : Byte) (h : Memory.wf m = true) (hc : c ≠ a) :
    Memory.read (Memory.write m a b) c = Memory.read m c := by
  simp only [Memory.wf, Bool.and_eq_true] at h
  unfold Memory.read Memory.write
  split
  · exact tget_tdel_ne 0 m a c h.1 hc
  · exact tget_tset_ne 0 m a c b hc

/-- A write of bytes changes nothing below its first or from its last on. -/
theorem Memory.read_writeBytes_out (m : Memory) (a c : Nat) (l : List Byte) (h : Memory.wf m = true)
    (hc : c < a ∨ a + l.length ≤ c) : Memory.read (Memory.writeBytes m a l) c = Memory.read m c := by
  induction l generalizing m a with
  | nil => rfl
  | cons b r ih =>
    simp only [List.length_cons] at hc
    show Memory.read (Memory.writeBytes (Memory.write m a b) (a + 1) r) c = Memory.read m c
    rw [ih _ _ (Memory.wf_write m a b h) (by omega), Memory.read_write_ne m a c b h (by omega)]

/-- The k-th byte written is read back. -/
theorem Memory.read_writeBytes_in (m : Memory) (a k : Nat) (l : List Byte) (h : Memory.wf m = true) (hk : k < l.length) :
    Memory.read (Memory.writeBytes m a l) (a + k) = l[k] := by
  induction l generalizing m a k with
  | nil => simp at hk
  | cons b r ih =>
    show Memory.read (Memory.writeBytes (Memory.write m a b) (a + 1) r) (a + k) = _
    cases k with
    | zero =>
      rw [Memory.read_writeBytes_out _ _ _ _ (Memory.wf_write m a b h) (by omega)]
      simpa using Memory.read_write_same m a b h
    | succ j =>
      have := ih (Memory.write m a b) (a + 1) j (Memory.wf_write m a b h) (by simpa using hk)
      rw [show a + (j + 1) = a + 1 + j by omega, this]
      rfl

end Sys2Proof.Machine
end

