-- ==== Sys2Proof/Laws/Ops.lean ====
section
/-!
SUPPORT. What the shared operations of slot operations do, said once each: the executing team's record, the completion of
a slot, writes to the register files, and the shapes of S and V operations.
-/

namespace Sys2Proof.Machine

/-! ### The executing team -/

theorem tset_tset {α : Type} (t : Table α) (k : Nat) (v w : α) : tset (tset t k v) k w = tset t k w := by
  induction t with
  | nil => simp [tset]
  | cons x r ih =>
    obtain ⟨j, y⟩ := x
    by_cases h : j = k
    · simp [tset, h]
    · by_cases h' : k < j
      · simp [tset, h, h']
      · simp [tset, h, h', ih]

@[simp] theorem State.me_setMe (s : State) (t : Team) : (s.setMe t).me = t := by
  simp [State.setMe, State.me, State.setTeam, State.team, tget_tset_same]

@[simp] theorem State.issue_setMe (s : State) (t : Team) : (s.setMe t).issue = s.issue := rfl

@[simp] theorem State.setMe_setMe (s : State) (a b : Team) : (s.setMe a).setMe b = s.setMe b := by
  simp [State.setMe, State.setTeam, tset_tset]

theorem State.SameMemory.refl (s : State) : s.SameMemory s := ⟨fun _ => rfl, fun _ _ => rfl, fun _ _ _ => rfl⟩

theorem State.onlyMe_setMe (s : State) (t : Team) : s.OnlyMe (s.setMe t) :=
  ⟨by rw [State.me_setMe]; rfl, ⟨fun _ => rfl, fun _ _ => rfl, fun _ _ _ => rfl⟩⟩

/-! ### Completion -/

theorem State.fin_setMe (s : State) (t : Team) : (s.setMe t).fin = s.setMe (t.marked s.issue.slot) := by
  simp [State.fin, State.modMe, Team.marked, Flight.marked]

theorem State.fin_eq (s : State) : s.fin = s.setMe (s.me.marked s.issue.slot) := rfl

theorem State.fin_noEffect (s : State) : s.NoEffect s.fin := by
  rw [State.fin_eq]
  exact ⟨s.onlyMe_setMe _, State.me_setMe _ _⟩

theorem State.modRegs_eq (s : State) (f : Regs → Regs) :
    s.modRegs f = s.setMe { s.me with regs := f s.me.regs } := rfl

theorem State.modRegs_fin (s : State) (f : Regs → Regs) :
    (s.modRegs f).fin = s.setMe { s.me.marked s.issue.slot with regs := f s.me.regs } := by
  rw [State.modRegs_eq, State.fin_setMe]
  rfl

theorem State.modRegs_modRegs (s : State) (f g : Regs → Regs) :
    (s.modRegs f).modRegs g = s.modRegs fun r => g (f r) := by
  simp [State.modRegs, State.modMe]

theorem State.regStep_modRegs (s : State) (f : Regs → Regs) : s.RegStep (s.modRegs f).fin := by
  rw [State.modRegs_fin]
  exact ⟨s.onlyMe_setMe _, by simp⟩

theorem State.regStep_fin (s : State) : s.RegStep s.fin := by
  rw [State.fin_eq]
  exact ⟨s.onlyMe_setMe _, by simp [Team.marked]⟩

@[simp] theorem State.modRegs_fin_regs (s : State) (f : Regs → Regs) : (s.modRegs f).fin.me.regs = f s.me.regs := by
  rw [State.modRegs_fin, State.me_setMe]

@[simp] theorem State.fin_regs (s : State) : s.fin.me.regs = s.me.regs := by
  rw [State.fin_eq, State.me_setMe]; rfl

/-! ### Register files -/

theorem Regs.sset_onlyS (r : Regs) (d : Nat) (v : Word) : r.OnlyS (r.sset d v) d := by
  by_cases h : d = 0
  · simp only [Regs.sset, h, if_true]
    exact ⟨rfl, fun _ _ => rfl⟩
  · simp only [Regs.sset, h, if_false]
    exact ⟨rfl, fun j hj => by simp [Regs.sget, tget_tset_ne _ _ _ _ _ hj]⟩

theorem Regs.sget_sset (r : Regs) (d : Nat) (v : Word) : (r.sset d v).sget d = if d = 0 then 0 else v := by
  by_cases h : d = 0
  · simp [Regs.sget, h]
  · simp [Regs.sset, Regs.sget, h, tget_tset_same]

theorem getLsbD_oneAt (d j : Nat) : (1#8 <<< d).getLsbD j = (decide (j < 8) && decide (j = d)) := by
  by_cases h : j < 8 <;> by_cases hd : j < d <;> by_cases he : j = d <;>
    simp [BitVec.getLsbD_shiftLeft, BitVec.getLsbD_one, h, hd, he] <;> omega

theorem Regs.cset_onlyC (r : Regs) (d : Nat) (b : Bool) : r.OnlyC (r.cset d b) d := by
  by_cases h : d = 0
  · simp only [Regs.cset, h, if_true]
    exact ⟨rfl, fun _ _ => rfl⟩
  · simp only [Regs.cset, h, if_false]
    refine ⟨rfl, fun j hj => ?_⟩
    cases b <;> simp only [Regs.cget, Bool.false_eq_true, if_true, if_false, BitVec.getLsbD_or, BitVec.getLsbD_and,
      BitVec.getLsbD_not, getLsbD_oneAt, decide_eq_false hj, Bool.and_false, Bool.or_false, Bool.not_false, Bool.and_true]
    by_cases h8 : j < 8
    · simp [h8]
    · simp [h8, BitVec.getLsbD_of_ge r.c j (by omega)]

theorem Regs.cget_cset (r : Regs) (d : Nat) (b : Bool) (h : d < 8) : (r.cset d b).cget d = (decide (d = 0) || b) := by
  by_cases h0 : d = 0
  · simp [Regs.cset, Regs.cget, h0]
  · cases b <;> simp [Regs.cset, Regs.cget, h0, h]

theorem Regs.pset_onlyP (r : Regs) (d : Nat) (m : LaneMask) : r.OnlyP (r.pset d m) d := by
  by_cases h : d = 0
  · simp only [Regs.pset, h, if_true]
    exact ⟨rfl, fun _ _ => rfl⟩
  · simp only [Regs.pset, h, if_false]
    exact ⟨rfl, fun j hj => by simp [Regs.pget, tget_tset_ne _ _ _ _ _ hj]⟩

theorem Regs.pget_pset (r : Regs) (d : Nat) (m : LaneMask) :
    (r.pset d m).pget d = if d = 0 then BitVec.allOnes 1024 else m := by
  by_cases h : d = 0
  · simp [Regs.pget, h]
  · simp [Regs.pset, Regs.pget, h, tget_tset_same]

theorem Regs.vreg_vput_ne (r : Regs) (w x j : Nat) (m : LaneMask) (f : Nat → Lane) (h : j ≠ x) :
    (r.vput w x m f).vreg j = r.vreg j := by
  simp [Regs.vput, Regs.vreg, tget_tset_ne _ _ _ _ _ h]

theorem Regs.vget_vput (r : Regs) (w x l : Nat) (m : LaneMask) (f : Nat → Lane) (h : l < w) :
    (r.vput w x m f).vget x l = if m.getLsbD l then f l else r.vget x l := by
  simp [Regs.vput, Regs.vget, Regs.vreg, tget_tset_same, VReg.put, h]

theorem Regs.vput_onlyV (r : Regs) (w x : Nat) (m : LaneMask) (f : Nat → Lane) : r.OnlyV (r.vput w x m f) [x] :=
  ⟨rfl, fun _ hj => Regs.vreg_vput_ne _ _ _ _ _ _ (by simpa using hj)⟩

/-! ### Writes of vector results -/

@[simp] theorem State.keptLanes_modRegs (s : State) (f : Regs → Regs) (x : Nat) :
    (s.modRegs f).keptLanes x = s.keptLanes x := by
  rw [State.modRegs_eq]
  simp [State.keptLanes]

@[simp] theorem State.lanes_modRegs (s : State) (f : Regs → Regs) : (s.modRegs f).me.lanes = s.me.lanes := by
  rw [State.modRegs_eq]
  simp

/-- What writing the lanes of a mask of register x does to the register files. -/
def State.regPut (s : State) (x : Nat) (m : LaneMask) (f : Nat → Lane) (r : Regs) : Regs :=
  r.vput s.me.lanes x (m &&& ~~~(s.keptLanes x)) f

theorem State.putReg_eq (s : State) (x : Nat) (m : LaneMask) (f : Nat → Lane) :
    s.putReg x m f = s.modRegs (s.regPut x m f) := rfl

theorem State.putReg_modRegs (s : State) (g : Regs → Regs) (x : Nat) (m : LaneMask) (f : Nat → Lane) :
    (s.modRegs g).putReg x m f = s.modRegs fun r => s.regPut x m f (g r) := by
  rw [State.putReg_eq, State.modRegs_modRegs]
  simp [State.regPut]

theorem State.vget_regPut (s : State) (x l : Nat) (m : LaneMask) (f : Nat → Lane) (r : Regs) (h : l < s.me.lanes) :
    (s.regPut x m f r).vget x l = if m.getLsbD l && !(s.keptLanes x).getLsbD l then f l else r.vget x l := by
  rw [State.regPut, Regs.vget_vput _ _ _ _ _ _ h]
  congr 1
  by_cases h8 : l < 1024
  · simp [h8]
  · simp [BitVec.getLsbD_of_ge m l (by omega)]

theorem State.vreg_regPut_ne (s : State) (x j : Nat) (m : LaneMask) (f : Nat → Lane) (r : Regs) (h : j ≠ x) :
    (s.regPut x m f r).vreg j = r.vreg j := Regs.vreg_vput_ne _ _ _ _ _ _ h

theorem State.putReg_sets (s : State) (x : Nat) (m : LaneMask) (f : Nat → Lane) :
    s.RegStep (s.putReg x m f).fin ∧ s.me.regs.OnlyV (s.putReg x m f).fin.me.regs [x] ∧
      s.LanesTake (s.putReg x m f).fin x m f := by
  rw [State.putReg_eq]
  refine ⟨s.regStep_modRegs _, ?_, fun l hl => ?_⟩
  · rw [State.modRegs_fin_regs]
    exact Regs.vput_onlyV _ _ _ _ _
  · rw [State.modRegs_fin_regs, State.vget_regPut _ _ _ _ _ _ hl]

theorem State.putV_sets (s : State) (x : BitVec 8) (m : LaneMask) (f : Nat → Lane) :
    s.SetsV (s.putV x m f).fin x m f := by
  unfold State.SetsV State.putV
  by_cases hp : isPort x = true
  · simp only [hp, if_true]
    have : (s.hold (s.portStores x m f)).fin =
        s.setMe { s.me.marked s.issue.slot with held := s.me.held ++ s.portStores x m f } := by
      show (s.setMe _).fin = _
      rw [State.fin_setMe]
      rfl
    rw [this]
    exact ⟨s.onlyMe_setMe _, State.me_setMe _ _⟩
  · simp only [hp]
    exact s.putReg_sets _ _ _

theorem State.putV64_sets (s : State) (x : BitVec 8) (m : LaneMask) (f : Nat → Word) :
    s.SetsV64 (s.putV64 x m f).fin x m f := by
  unfold State.SetsV64 State.putV64
  rw [State.putReg_eq s, State.putReg_modRegs]
  refine ⟨s.regStep_modRegs _, ⟨?_, fun j hj => ?_⟩, fun l hl => ?_, fun l hl => ?_⟩
  · rw [State.modRegs_fin_regs]; rfl
  · simp only [List.mem_cons, List.not_mem_nil, or_false, not_or] at hj
    rw [State.modRegs_fin_regs, State.vreg_regPut_ne _ _ _ _ _ _ hj.2, State.vreg_regPut_ne _ _ _ _ _ _ hj.1]
  · rw [State.modRegs_fin_regs]
    have : ((s.regPut (x.toNat + 1) m (fun l => (f l).extractLsb' 32 32)
        (s.regPut x.toNat m (fun l => (f l).extractLsb' 0 32) s.me.regs)).vget x.toNat l) =
        ((s.regPut x.toNat m (fun l => (f l).extractLsb' 0 32) s.me.regs)).vget x.toNat l := by
      unfold Regs.vget
      rw [State.vreg_regPut_ne _ _ _ _ _ _ (by omega)]
    rw [this, State.vget_regPut _ _ _ _ _ _ hl]
  · rw [State.modRegs_fin_regs, State.vget_regPut _ _ _ _ _ _ hl]
    have : ((s.regPut x.toNat m (fun l => (f l).extractLsb' 0 32) s.me.regs)).vget (x.toNat + 1) l =
        s.me.regs.vget (x.toNat + 1) l := by
      unfold Regs.vget
      rw [State.vreg_regPut_ne _ _ _ _ _ _ (by omega)]
    rw [this]

theorem getLsbD_maskOf (l : List Nat) (i : Nat) : (maskOf l).getLsbD i = (decide (i < 1024) && l.contains i) := by
  have key : ∀ (l : List Nat) (m : LaneMask), (l.foldl (fun m i => m ||| (1#1024 <<< i)) m).getLsbD i =
      (m.getLsbD i || (decide (i < 1024) && l.contains i)) := by
    intro l
    induction l with
    | nil => simp
    | cons a r ih =>
      intro m
      rw [List.foldl_cons, ih]
      by_cases h : i < 1024
      · by_cases ha : i = a
        · subst ha
          simp [h]
        · have : (1#1024 <<< a).getLsbD i = false := by
            simp [BitVec.getLsbD_one]
            omega
          simp [this, ha]
      · simp [h]
  rw [maskOf, key]
  simp

theorem State.putP_sets (s : State) (d : BitVec 8) (m : LaneMask) (f : Nat → Bool) (hl : s.me.lanes ≤ 1024) :
    s.SetsP (s.putP d m f).fin d.toNat m f := by
  unfold State.SetsP State.putP
  refine ⟨s.regStep_modRegs _, ?_, fun l hlt => ?_⟩
  · rw [State.modRegs_fin_regs]
    exact Regs.pset_onlyP _ _ _
  · rw [State.modRegs_fin_regs, Regs.pget_pset]
    by_cases h0 : d.toNat = 0
    · simp [h0]
    · have hk : l < 1024 := by omega
      simp only [h0, if_false, BitVec.getLsbD_or, BitVec.getLsbD_and, BitVec.getLsbD_not, getLsbD_maskOf, hk, decide_true,
        Bool.true_and, State.active, lanesOf]
      by_cases hm : m.getLsbD l = true
      · by_cases hf : f l = true <;> simp [hm, hf, hlt]
      · simp [hm]

/-! ### The shape of an operation -/

theorem gates_go (l : List Gate) (h : ∀ g ∈ l, g = .go) : gates l = .go := by
  induction l with
  | nil => rfl
  | cons g r ih =>
    have hg : g = .go := h g (by simp)
    subst hg
    simpa [gates] using ih fun x hx => h x (by simp [hx])

theorem State.readGate_go (s : State) (m : LaneMask) (x : BitVec 8) (h : s.SourceReady x) : s.readGate m x = .go := by
  unfold State.readGate
  by_cases hp : isPort x = true
  · have := h hp
    have hb : (s.active m).findSome? (s.portBad x) = none := List.findSome?_eq_none_iff.2 fun l _ => this.2.2 l
    simp [hp, this.1, this.2.1, hb]
  · simp [hp]

theorem State.writeGate_go (s : State) (x : BitVec 8) (h : s.DestReady x) : s.writeGate x = .go := by
  unfold State.writeGate
  by_cases hp : isPort x = true
  · have := h hp
    simp [hp, this.1, this.2]
  · simp [hp]

/-- A V operation whose ring ports are ready acts, or has no lanes. -/
theorem State.vOp_go (s : State) (m : LaneMask) (rs ws : List (BitVec 8)) (k : State) (hr : ∀ x ∈ rs, s.SourceReady x)
    (hw : ∀ x ∈ ws, s.DestReady x) : s.vOp m rs ws k = if m = 0 then s.fin else k.fin := by
  have : gates (rs.map (s.readGate m) ++ ws.map s.writeGate) = .go := by
    refine gates_go _ fun g hg => ?_
    simp only [List.mem_append, List.mem_map] at hg
    rcases hg with ⟨x, hx, rfl⟩ | ⟨x, hx, rfl⟩
    · exact s.readGate_go m x (hr x hx)
    · exact s.writeGate_go x (hw x hx)
  simp [State.vOp, this]

theorem Regs.OnlyV.refl (r : Regs) (ds : List Nat) : r.OnlyV r ds := ⟨rfl, fun _ _ => rfl⟩

theorem Regs.OnlyP.refl (r : Regs) (d : Nat) : r.OnlyP r d := ⟨rfl, fun _ _ => rfl⟩

/-- With no lanes nothing is written. -/
theorem State.fin_setsV (s : State) (x : BitVec 8) (f : Nat → Lane) : s.SetsV s.fin x 0 f := by
  unfold State.SetsV
  by_cases hp : isPort x = true
  · simp only [hp, if_true]
    refine ⟨s.fin_noEffect.1, ?_⟩
    rw [s.fin_noEffect.2]
    have hp : s.portStores x 0 f = [] := by
      have : s.active 0 = [] := by simp [State.active, lanesOf]
      unfold State.portStores
      rw [this]
      rfl
    rw [hp, List.append_nil]
    rfl
  · simp only [hp]
    refine ⟨s.regStep_fin, ?_, fun l hl => ?_⟩
    · rw [State.fin_regs]; exact Regs.OnlyV.refl _ _
    · simp

theorem State.fin_setsV64 (s : State) (x : BitVec 8) (f : Nat → Word) : s.SetsV64 s.fin x 0 f := by
  refine ⟨s.regStep_fin, ?_, fun l hl => ?_, fun l hl => ?_⟩
  · rw [State.fin_regs]; exact Regs.OnlyV.refl _ _
  · simp
  · simp

theorem State.fin_setsP (s : State) (d : Nat) (f : Nat → Bool) : s.SetsP s.fin d 0 f := by
  refine ⟨s.regStep_fin, ?_, fun l hl => ?_⟩
  · rw [State.fin_regs]; exact Regs.OnlyP.refl _ _
  · by_cases h : d = 0 <;> simp [Regs.pget, h]

theorem State.vOp_setsV (s : State) (m : LaneMask) (rs ws : List (BitVec 8)) (x : BitVec 8) (f : Nat → Lane)
    (hr : ∀ x ∈ rs, s.SourceReady x) (hw : ∀ x ∈ ws, s.DestReady x) :
    s.SetsV (s.vOp m rs ws (s.putV x m f)) x m f := by
  rw [s.vOp_go m rs ws _ hr hw]
  by_cases h : m = 0
  · rw [if_pos h, h]; exact s.fin_setsV x f
  · rw [if_neg h]; exact s.putV_sets x m f

theorem State.vOp_setsV64 (s : State) (m : LaneMask) (rs ws : List (BitVec 8)) (x : BitVec 8) (f : Nat → Word)
    (hr : ∀ x ∈ rs, s.SourceReady x) (hw : ∀ x ∈ ws, s.DestReady x) :
    s.SetsV64 (s.vOp m rs ws (s.putV64 x m f)) x m f := by
  rw [s.vOp_go m rs ws _ hr hw]
  by_cases h : m = 0
  · rw [if_pos h, h]; exact s.fin_setsV64 x f
  · rw [if_neg h]; exact s.putV64_sets x m f

theorem State.vOp_setsP (s : State) (m : LaneMask) (rs ws : List (BitVec 8)) (d : BitVec 8) (f : Nat → Bool)
    (hl : s.me.lanes ≤ 1024) (hr : ∀ x ∈ rs, s.SourceReady x) (hw : ∀ x ∈ ws, s.DestReady x) :
    s.SetsP (s.vOp m rs ws (s.putP d m f)) d.toNat m f := by
  rw [s.vOp_go m rs ws _ hr hw]
  by_cases h : m = 0
  · rw [if_pos h, h]; exact s.fin_setsP d.toNat f
  · rw [if_neg h]; exact s.putP_sets d m f hl

/-- The S operations' shape: under a true guard the write happens, under a false one only the completion. -/
theorem State.sOp_setsS (s : State) (g : BitVec 3) (d : BitVec 8) (v : Word) :
    s.SetsS (s.sOp g (s.putS d v).fin) d.toNat (s.sGuard g) v := by
  unfold State.SetsS State.sOp State.putS
  by_cases h : s.sGuard g = true
  · simp only [h, if_true]
    exact ⟨s.regStep_modRegs _, by rw [State.modRegs_fin_regs]; exact Regs.sset_onlyS _ _ _,
      by rw [State.modRegs_fin_regs]; exact Regs.sget_sset _ _ _⟩
  · simp only [h]
    exact ⟨s.regStep_fin, by simp⟩

theorem State.putS_setsS (s : State) (d : BitVec 8) (v : Word) : s.SetsS (s.putS d v).fin d.toNat true v := by
  unfold State.SetsS State.putS
  exact ⟨s.regStep_modRegs _, by rw [State.modRegs_fin_regs]; exact Regs.sset_onlyS _ _ _,
      by rw [State.modRegs_fin_regs]; exact Regs.sget_sset _ _ _⟩

theorem State.sOp_setsC (s : State) (g : BitVec 3) (d : BitVec 8) (b : Bool) (hd : d.toNat < 8) :
    s.SetsC (s.sOp g (s.putC d b).fin) d.toNat (s.sGuard g) b := by
  unfold State.SetsC State.sOp State.putC
  by_cases h : s.sGuard g = true
  · simp only [h, if_true]
    exact ⟨s.regStep_modRegs _, by rw [State.modRegs_fin_regs]; exact Regs.cset_onlyC _ _ _,
      by rw [State.modRegs_fin_regs]; exact Regs.cget_cset _ _ _ hd⟩
  · simp only [h]
    exact ⟨s.regStep_fin, by simp⟩

end Sys2Proof.Machine
end

