-- ==== Sys2Proof/Laws/Frames.lean ====
section
/-!
SUPPORT. Frames of operations that also emit packets or cache translations, of dispatch reads and of runs of registers.
-/

namespace Sys2Proof.Machine

theorem putRun_eq (s : State) (d : Nat) (m : LaneMask) (f : Nat → Nat → Lane) (n : Nat) :
    ∃ g : Regs → Regs, s.putRun d m f (n + 1) = s.modRegs g ∧ ∀ r, (g r) = { r with v := (g r).v } ∧
      (∀ j, j ∉ (List.range (n + 1)).map (d + ·) → (g r).vreg j = r.vreg j) ∧
      ∀ j, j < n + 1 → ∀ l, l < s.me.lanes → (g r).vget (d + j) l =
        if m.getLsbD l && !(s.keptLanes (d + j)).getLsbD l then f j l else r.vget (d + j) l := by
  induction n with
  | zero =>
    refine ⟨s.regPut (d + 0) m (f 0), rfl, fun r => ⟨rfl, fun j hj => ?_, fun j hj l hl => ?_⟩⟩
    · exact State.vreg_regPut_ne _ _ _ _ _ _ (by simpa using hj)
    · obtain rfl : j = 0 := by omega
      exact State.vget_regPut _ _ _ _ _ _ hl
  | succ n ih =>
    obtain ⟨g, hg, hr⟩ := ih
    refine ⟨fun r => s.regPut (d + (n + 1)) m (f (n + 1)) (g r), ?_, fun r => ⟨?_, fun j hj => ?_, fun j hj l hl => ?_⟩⟩
    · show (s.putRun d m f (n + 1)).putReg (d + (n + 1)) m (f (n + 1)) = _
      rw [hg, State.putReg_modRegs]
    · have := (hr r).1
      show Regs.vput _ _ _ _ _ = _
      unfold Regs.vput
      have e : ∀ (q : Regs), q = { r with v := q.v } → ∀ X, ({ q with v := X } : Regs) = { r with v := X } := by
        intro q hq X; rw [hq]
      exact e _ this _
    · simp only [List.mem_map, List.mem_range, not_exists, not_and] at hj
      rw [State.vreg_regPut_ne _ _ _ _ _ _ (fun h => hj (n+1) (by omega) h.symm)]
      refine (hr r).2.1 j ?_
      simp only [List.mem_map, List.mem_range, not_exists, not_and]
      exact fun x hx => hj x (by omega)
    · by_cases h : j = n + 1
      · subst h
        rw [State.vget_regPut _ _ _ _ _ _ hl]
        have : (g r).vget (d + (n + 1)) l = r.vget (d + (n + 1)) l := by
          unfold Regs.vget
          rw [(hr r).2.1 _ (by simp)]
        rw [this]
      · rw [← (hr r).2.2 j (by omega) l hl]
        unfold Regs.vget
        rw [State.vreg_regPut_ne _ _ _ _ _ _ (by omega)]

theorem run_sets (s : State) (d n : Nat) (m : LaneMask) (f : Nat → Nat → Lane) :
    s.SetsRun (s.putRun d m f (n + 1)).fin d (n + 1) m f := by
  obtain ⟨g, hg, hr⟩ := putRun_eq s d m f n
  rw [hg]
  refine ⟨s.regStep_modRegs _, ⟨?_, fun j hj => ?_⟩, fun j hj l hl => ?_⟩
  · rw [State.modRegs_fin_regs]; exact (hr _).1
  · rw [State.modRegs_fin_regs]; exact (hr _).2.1 j hj
  · rw [State.modRegs_fin_regs]; exact (hr _).2.2 j hj l hl

theorem vOp_run (s : State) (m : LaneMask) (rs : List (BitVec 8)) (d n : Nat) (f : Nat → Nat → Lane)
    (hr : ∀ x ∈ rs, s.SourceReady x) :
    s.SetsRun (s.vOp m rs [] (s.putRun d m f (n + 1))) d (n + 1) m f := by
  rw [s.vOp_go m rs [] _ hr (List.forall_mem_nil _)]
  by_cases h : m = 0
  · rw [if_pos h]
    refine ⟨s.regStep_fin, ?_, fun j hj l hl => ?_⟩
    · rw [State.fin_regs]; exact Regs.OnlyV.refl _ _
    · simp [h]
  · rw [if_neg h]; exact run_sets s d n m f

theorem treeNode_none (c : Lane → Lane → Lane) (k i : Nat) : treeNode c (fun _ => none) k i = none := by
  induction k generalizing i with
  | zero => rfl
  | succ k ih => simp [treeNode, ih]

theorem treeSum_nil (s : State) (c : Lane → Lane → Lane) (x : BitVec 8) : s.treeSum c x [] = 0 := by
  unfold State.treeSum
  have : (fun i => if (maskOf []).getLsbD i then some (s.rd.vget x.toNat i) else none) = fun _ => none := by
    funext i; simp [maskOf]
  simp only [this, treeNode_none]
  rfl

theorem find_sum (gs : List (List Nat)) (F : List Nat → Lane) (l : Nat) (h0 : F [] = 0) :
    ((((gs.map fun g => (g, F g)).find? fun p => p.1.contains l).map (·.2)).getD 0) = F (groupOf gs l) := by
  unfold groupOf
  induction gs with
  | nil => simp [h0]
  | cons a r ih =>
    rw [List.map_cons, List.find?_cons, List.find?_cons]
    cases a.contains l
    · exact ih
    · rfl

/-- Only the trace stream differs. -/
def TraceOnly (s t : State) : Prop := ∃ x, t = { s with trace := x }

theorem TraceOnly.refl (s : State) : TraceOnly s s := ⟨s.trace, rfl⟩

theorem TraceOnly.trans {a b c : State} (h : TraceOnly a b) (g : TraceOnly b c) : TraceOnly a c := by
  obtain ⟨x, rfl⟩ := h; obtain ⟨y, rfl⟩ := g; exact ⟨y, rfl⟩

theorem tr_set (a : State) (x : Trace) : TraceOnly a { a with trace := x } := ⟨x, rfl⟩

theorem ent_tr (s : State) (e : Nat) (f : TraceEnt → TraceEnt) : TraceOnly s (s.modEnt e f) := ⟨_, rfl⟩

theorem drop_tr (s : State) (e : Nat) : TraceOnly s (s.dropPacket e) := ⟨_, rfl⟩

theorem push_tr (s : State) (e : Nat) (w : List Word) : TraceOnly s (s.pushPacket e w) := by
  unfold State.pushPacket; dsimp only; repeat' split
  all_goals exact ⟨_, rfl⟩

theorem send_tr (s : State) (e : Nat) (w : List Word) : TraceOnly s (s.sendPacket e w) := by
  unfold State.sendPacket; split
  · exact push_tr _ _ _
  · exact drop_tr _ _

theorem put_tr (s : State) (u : Nat) (va : Word) (r : Nat) : TraceOnly s (s.putSync u va r) :=
  TraceOnly.trans (ent_tr _ _ _) (push_tr _ _ _)

theorem pay_tr (s : State) (u : Nat) (va : Word) : TraceOnly s (s.paySyncs u va) := by
  have go : ∀ (l : List Nat) (a : State), TraceOnly a (l.foldl (fun x r => x.putSync u va r) a) := by
    intro l
    induction l with
    | nil => exact TraceOnly.refl
    | cons r l ih => exact fun a => TraceOnly.trans (put_tr a u va r) (ih _)
  exact go _ s

theorem sync_tr (s : State) (u : Nat) (va : Word) (r : Nat) : TraceOnly s (s.emitSync u va r) := by
  unfold State.emitSync; split
  · exact TraceOnly.trans (ent_tr _ _ _) (pay_tr _ _ _)
  · exact TraceOnly.refl _

theorem due_tr (s : State) (u : Nat) (va : Word) : TraceOnly s (s.syncDue u va) := by
  unfold State.syncDue; dsimp only; split
  · refine TraceOnly.trans (pay_tr s u ((s.gang (s.team u).gang).image.bundleVa (s.team u).pc)) ?_
    split
    · exact TraceOnly.refl _
    · split
      · exact put_tr _ _ _ _
      · split
        · exact put_tr _ _ _ _
        · exact TraceOnly.refl _
  · exact TraceOnly.refl _

theorem due_off (s : State) (u : Nat) (va : Word) (h : s.traced (s.team u) = false) : s.syncDue u va = s := by
  unfold State.syncDue; simp [h]

theorem emit_tr (s : State) (u a b : Nat) (f : Bool) (va : Word) (p : List Word) : TraceOnly s (s.emit u a b f va p) := by
  unfold State.emit; dsimp only; split
  · exact TraceOnly.trans (due_tr _ _ _) (TraceOnly.trans (send_tr _ _ _) (ent_tr _ _ _))
  · exact TraceOnly.refl _

theorem emit_off (s : State) (u a b : Nat) (f : Bool) (va : Word) (p : List Word) (h : s.traced (s.team u) = false) :
    s.emit u a b f va p = s := by
  unfold State.emit; simp [h]

theorem emitOp_tr (s : State) (a : Nat) (f : Bool) (p : List Word) :
    ∃ x, s.emitOp a f p = { s with trace := x } ∧ (s.traced s.me = false → x = s.trace) := by
  by_cases h : s.traced s.me = false
  · exact ⟨s.trace, emit_off _ _ _ _ _ _ _ h, fun _ => rfl⟩
  · obtain ⟨x, hx⟩ := emit_tr s s.issue.team a s.issue.slot f s.bundleVa p
    exact ⟨x, hx, fun h' => absurd h' h⟩

/-- Only the trace stream differs, and not at all for a team that is not traced. -/
def TracedOnly (s t : State) : Prop := ∃ x, t = { s with trace := x } ∧ (s.traced s.me = false → x = s.trace)

theorem TracedOnly.two {s a b : State} (h : TracedOnly s a) (g : TracedOnly a b) : TracedOnly s b := by
  obtain ⟨x, rfl, hx⟩ := h
  obtain ⟨y, rfl, hy⟩ := g
  refine ⟨y, rfl, fun h => ?_⟩
  have := hx h
  subst this
  exact hy h

theorem TracedOnly.refl (s : State) : TracedOnly s s := ⟨_, rfl, fun _ => rfl⟩

/-- The SYNCs that are due before a packet change nothing but the stream. -/
theorem TracedOnly.due (s : State) : TracedOnly s s.dueOp := by
  by_cases h : s.traced s.me = false
  · exact ⟨s.trace, due_off _ _ _ h, fun _ => rfl⟩
  · obtain ⟨x, hx⟩ := due_tr s s.issue.team s.bundleVa
    exact ⟨x, hx, fun h' => absurd h' h⟩

theorem TracedOnly.op (s : State) (a f p) : TracedOnly s (s.emitOp a f p) := emitOp_tr s a f p

theorem emitMask_tr (s : State) (o n : LaneMask) (d : Nat) :
    ∃ x, s.emitMask o n d = { s with trace := x } ∧ (s.traced s.me = false → x = s.trace) := by
  show TracedOnly _ _
  have ite : ∀ (a : State) (c : Prop) [Decidable c] (f : Bool) (p : List Word), TracedOnly a (if c then a.emitOp 2 f p else a) := by
    intro a c _ f p
    split
    · exact TracedOnly.op _ _ _ _
    · exact TracedOnly.refl _
  unfold State.emitMask
  dsimp only
  exact TracedOnly.two (TracedOnly.two (TracedOnly.op s 2 _ _) (ite _ _ _ _)) (ite _ _ _ _)

theorem traced_frame (s : State) (x : Trace) (y : Team) (h : s.traced s.me = false → x = s.trace) :
    s.OnlyMeTraced (({ s with trace := x } : State).setMe y) ∧ (({ s with trace := x } : State).setMe y).me = y := by
  have e := State.me_setMe ({ s with trace := x } : State) y
  exact ⟨⟨by rw [e]; rfl, h, ⟨fun _ => rfl, fun _ _ => rfl, fun _ _ _ => rfl⟩⟩, e⟩

theorem traced_fin (s : State) (x : Trace) (h : s.traced s.me = false → x = s.trace) (y : State) (hy : y = { s with trace := x }) :
    s.OnlyMeTraced y.fin ∧ y.fin.me = s.me.marked s.issue.slot := by
  subst hy
  exact traced_frame s x _ h

theorem traced_flow (s : State) (x : Trace) (h : s.traced s.me = false → x = s.trace) (f : Flow) (y : State) (hy : y = { s with trace := x }) :
    s.OnlyMeTraced (y.flow f).fin ∧ (y.flow f).fin.me = (s.me.flowing f).marked s.issue.slot := by
  subst hy
  have : (({ s with trace := x } : State).flow f).fin = ({ s with trace := x } : State).setMe ((s.me.flowing f).marked s.issue.slot) := by
    show (State.setMe _ _).fin = _
    rw [State.fin_setMe]
    rfl
  rw [this]
  exact traced_frame s x _ h

theorem note_eq (s : State) (c : Ctx) (va : Word) :
    ∃ a b w, s.noteXlate c va = { s with ms := { s.ms with l0 := a, l1 := b, walks := w } } := by
  unfold State.noteXlate; dsimp only
  split
  · exact ⟨_, _, _, rfl⟩
  · split
    · exact ⟨_, _, _, rfl⟩
    · exact ⟨_, _, _, rfl⟩

theorem cached_frame (s : State) (x : Trace) (a b w) (y : Team) (h : s.traced s.me = false → x = s.trace) :
    s.OnlyMeCached (({ s with trace := x, ms := { s.ms with l0 := a, l1 := b, walks := w } } : State).setMe y) ∧
    (({ s with trace := x, ms := { s.ms with l0 := a, l1 := b, walks := w } } : State).setMe y).me = y := by
  have e := State.me_setMe ({ s with trace := x, ms := { s.ms with l0 := a, l1 := b, walks := w } } : State) y
  exact ⟨⟨by rw [e]; rfl, fun _ => rfl, fun _ _ => rfl, h, ⟨fun _ => rfl, fun _ _ => rfl, fun _ _ _ => rfl⟩⟩, e⟩

theorem leastIndex_eq (x : Nat → Lane) (ls : List Nat) (i : Nat) (h : ∃ l ∈ ls, (x l).toNat = i) (hm : ∀ l ∈ ls, i ≤ (x l).toNat) :
    leastIndex x ls = i := by
  induction ls with
  | nil => simp at h
  | cons a r ih =>
    cases r with
    | nil => simp at h; simpa [leastIndex] using h
    | cons b q =>
      rw [leastIndex]
      · have ha := hm a (by simp)
        by_cases hr : ∃ l ∈ b :: q, (x l).toNat = i
        · rw [ih hr (fun l hl => hm l (List.mem_cons_of_mem _ hl))]; omega
        · have hai : (x a).toNat = i := by
            obtain ⟨l, hl, he⟩ := h
            rcases List.mem_cons.1 hl with rfl | hl
            · exact he
            · exact absurd ⟨l, hl, he⟩ hr
          have : i ≤ leastIndex x (b :: q) := by
            have gen : ∀ (ls : List Nat), ls ≠ [] → (∀ l ∈ ls, i ≤ (x l).toNat) → i ≤ leastIndex x ls := by
              intro ls
              induction ls with
              | nil => simp
              | cons c s ih2 =>
                intro _ hh
                cases s with
                | nil => simpa [leastIndex] using hh c (by simp)
                | cons d u =>
                  rw [leastIndex]
                  · have := ih2 (by simp) (fun l hl => hh l (List.mem_cons_of_mem _ hl))
                    have := hh c (by simp)
                    omega
                  · simp
            exact gen _ (by simp) (fun l hl => hm l (List.mem_cons_of_mem _ hl))
          omega
      · simp

theorem nextGroup_ok (s : State) (reg : Nat) (rem : LaneMask) (i k : Nat)
    (hi : ∃ l ∈ s.active rem, (s.rd.vget reg l).toNat = i)
    (hm : ∀ l ∈ s.active rem, i ≤ (s.rd.vget reg l).toNat ∧ (s.rd.vget reg l).toNat < s.myGang.image.dtLen)
    (hk : s.dispatchEntry i = .ok k) :
    s.nextGroup reg rem = .ok (i, maskOf ((s.active rem).filter fun l => (s.rd.vget reg l).toNat == i), k) := by
  unfold State.nextGroup
  have hb : (s.active rem).filter (fun l => decide (s.myGang.image.dtLen ≤ (s.rd.vget reg l).toNat)) = [] := by
    rw [List.filter_eq_nil_iff]
    intro l hl
    have := (hm l hl).2
    simpa using this
  have hl := leastIndex_eq (s.rd.vget reg) (s.active rem) i hi (fun l h => (hm l h).1)
  dsimp only
  rw [hb, hl, hk]
  simp [maskOf]

theorem me_modRegs (s : State) (R : Regs → Regs) : (s.modRegs R).me = { s.me with regs := R s.me.regs } := State.me_setMe _ _

theorem traced_modRegs (s : State) (R : Regs → Regs) : (s.modRegs R).traced (s.modRegs R).me = s.traced s.me := by
  rw [me_modRegs]; rfl

/-- What a change of registers under the SYNCs due before it leaves traced. -/
theorem TracedOnly.regs {s d y : State} (hd : TracedOnly s d) (R : Regs → Regs) (h : TracedOnly (d.modRegs R) y) :
    TracedOnly (s.modRegs R) y := by
  obtain ⟨z, rfl, hz⟩ := hd
  refine TracedOnly.two ⟨z, ?_, ?_⟩ h
  · rfl
  · rw [traced_modRegs]; exact hz

theorem regs_traced (s : State) (R : Regs → Regs) (y : State) (h : TracedOnly (s.modRegs R) y) :
    s.OnlyMeTraced y.fin ∧ y.fin.me = { s.me.marked s.issue.slot with regs := R s.me.regs } := by
  obtain ⟨z, rfl, h⟩ := h
  rw [traced_modRegs] at h
  have : ({ (s.modRegs R) with trace := z } : State).fin = ({ s with trace := z } : State).setMe { s.me.marked s.issue.slot with regs := R s.me.regs } := by
    have e1 : ({ (s.modRegs R) with trace := z } : State) = ({ s with trace := z } : State).setMe { s.me with regs := R s.me.regs } := rfl
    rw [e1, State.fin_setMe]; rfl
  rw [this]; exact traced_frame s z _ h

theorem regs_traced_flow (s : State) (R : Regs → Regs) (y : State) (f : Flow) (h : TracedOnly (s.modRegs R) y) :
    s.OnlyMeTraced (y.flow f).fin ∧ (y.flow f).fin.me = { (s.me.flowing f).marked s.issue.slot with regs := R s.me.regs } := by
  obtain ⟨z, rfl, h⟩ := h
  rw [traced_modRegs] at h
  have : (({ (s.modRegs R) with trace := z } : State).flow f).fin = ({ s with trace := z } : State).setMe { (s.me.flowing f).marked s.issue.slot with regs := R s.me.regs } := by
    have e1 : ({ (s.modRegs R) with trace := z } : State) = ({ s with trace := z } : State).setMe { s.me with regs := R s.me.regs } := rfl
    rw [e1]
    show (State.setMe _ _).fin = _
    rw [State.fin_setMe, State.setMe_setMe, State.me_setMe]; rfl
  rw [this]; exact traced_frame s z _ h

theorem regs_cached_flow (s : State) (R : Regs → Regs) (c : Ctx) (va : Word) (y : State) (f : Flow)
    (h : TracedOnly ((s.modRegs R).noteXlate c va) y) :
    s.OnlyMeCached (y.flow f).fin ∧ (y.flow f).fin.me = { (s.me.flowing f).marked s.issue.slot with regs := R s.me.regs } := by
  obtain ⟨a, b, w, hn⟩ := note_eq (s.modRegs R) c va
  rw [hn] at h
  obtain ⟨z, rfl, h⟩ := h
  have tr : ∀ ms, State.traced ({ (s.modRegs R) with ms := ms } : State) (({ (s.modRegs R) with ms := ms } : State).me) = s.traced s.me := by
    intro ms
    have : (({ (s.modRegs R) with ms := ms } : State).me) = { s.me with regs := R s.me.regs } := me_modRegs s R
    rw [this]; rfl
  rw [tr] at h
  have e1 : ({ ({ (s.modRegs R) with ms := { (s.modRegs R).ms with l0 := a, l1 := b, walks := w } } : State) with trace := z } : State) =
        ({ s with trace := z, ms := { s.ms with l0 := a, l1 := b, walks := w } } : State).setMe { s.me with regs := R s.me.regs } := rfl
  rw [e1]
  have : ((({ s with trace := z, ms := { s.ms with l0 := a, l1 := b, walks := w } } : State).setMe { s.me with regs := R s.me.regs }).flow f).fin
        = ({ s with trace := z, ms := { s.ms with l0 := a, l1 := b, walks := w } } : State).setMe
            { (s.me.flowing f).marked s.issue.slot with regs := R s.me.regs } := by
    show (State.setMe _ _).fin = _
    rw [State.fin_setMe, State.setMe_setMe, State.me_setMe]; rfl
  rw [this]
  exact cached_frame s z a b w _ h

theorem rtile_modTile (s : State) (p n q m : Nat) (f : RTile → RTile) :
    ((s.modTile p n f).part q).rtile m = if q = p ∧ m = n then f ((s.part p).rtile n) else (s.part q).rtile m := by
  unfold State.modTile State.modPart State.part
  by_cases hq : q = p
  · subst hq
    simp only [tget_tset_same, true_and, Part.rtile]
    by_cases hm : m = n
    · subst hm; simp
    · rw [tget_tset_ne _ _ _ _ _ hm, if_neg hm]
  · rw [tget_tset_ne _ _ _ _ _ hq, if_neg (fun h => hq h.1)]

theorem part_modTile (s : State) (p n q : Nat) (f : RTile → RTile) :
    (s.modTile p n f).part q = { s.part q with rtiles := ((s.modTile p n f).part q).rtiles } := by
  unfold State.modTile State.modPart State.part
  by_cases hq : q = p
  · subst hq; simp
  · rw [tget_tset_ne _ _ _ _ _ hq]

/-- What noting the reads of a range changes: the times at which recipe tiles were read, and nothing else. -/
theorem noteRange_only (s : State) (c : Ctx) (va : Word) (n : Nat) :
    let t := s.noteRange c va n
    t = { s with parts := t.parts } ∧ (∀ p, t.part p = { s.part p with rtiles := (t.part p).rtiles }) ∧
      ∀ p k, (t.part p).rtile k = { (s.part p).rtile k with readAt := ((t.part p).rtile k).readAt } := by
  unfold State.noteRange
  generalize List.range ((va.toNat % 65536 + n + 65535) / 65536) = l
  induction l generalizing s with
  | nil => exact ⟨rfl, fun _ => rfl, fun _ _ => rfl⟩
  | cons a l ih =>
    rw [List.foldl_cons]
    split
    · rename_i k _
      split
      · exact ih s
      · obtain ⟨h1, h2, h3⟩ := ih (s.noteRead c.part (.recipe k 0))
        refine ⟨h1, fun p => ?_, fun p j => ?_⟩
        · have e : (s.noteRead c.part (.recipe k 0)).part p = _ := part_modTile s c.part k p _
          rw [h2 p, e]
        · have e : ((s.noteRead c.part (.recipe k 0)).part p).rtile j = _ := rtile_modTile s c.part k p j _
          rw [h3 p j, e]
          split
          · rename_i h; obtain ⟨rfl, rfl⟩ := h; rfl
          · rfl
    · exact ih s

theorem finC_setMe (s : State) (t : Team) : (s.setMe t).finC = s.setMe (t.committed s.issue.slot) := by
  unfold State.finC State.modMe
  rw [State.me_setMe, State.setMe_setMe]; rfl

/-! ### A cycle of a core, a turn of a line core, and the frames of the L2 -/

/-- The governor keeps a cycle whole or leaves of it the record of the freeze in its core alone (06 R145). -/
theorem State.governed_cases (old s : State) (n : Nat) :
    old.governed s n = s ∨ (s.exceeds n = true ∧ ∃ f, old.governed s n = old.modCore n f) := by
  by_cases h : s.exceeds n = true
  · exact .inr ⟨h, _, if_pos h⟩
  · exact .inl (if_neg h)

/-- A freeze cycle leaves every team as it stood. -/
theorem State.governed_teams (old s : State) (n : Nat) (h : s.exceeds n = true) : (old.governed s n).teams = old.teams := by
  rw [State.governed, if_pos h]; rfl

@[simp] theorem State.acquireJoined_teams (s : State) (u : Nat) : (s.acquireJoined u).teams = s.teams := rfl
@[simp] theorem State.acquireJoined_ms (s : State) (u : Nat) : (s.acquireJoined u).ms = s.ms := rfl

/-- Frames are found where no home slice is full of lines that stay; sealed tiles alone leave for them (13 R297). -/
theorem State.findFrames_some (s t : State) (pas : List Nat) :
    s.findFrames pas = some t ↔
      s.crowded true pas = [] ∧ t = s.evictTiles pas (s.parts.map fun q => q.2.rtiles.length).sum := by
  by_cases h : s.crowded true pas = []
  · rw [State.findFrames, if_pos h, Option.some_inj]
    exact ⟨fun e => ⟨h, e.symm⟩, fun e => e.2.symm⟩
  · rw [State.findFrames, if_neg h]
    exact ⟨fun e => Option.noConfusion rfl (heq_of_eq e), fun e => absurd e.1 h⟩

/-- Begun ticks are those of one head: with none held or passed by the display cycle nothing begins (22 R440). -/
theorem State.ticksHeld_none (s : State) (h : Nat) (e : (s.head h).ticksBefore h s.displayEnd = 0) : s.ticksHeld h = s := by
  simp [State.ticksHeld, e]

end Sys2Proof.Machine
end

