-- ==== Sys2Proof/Laws/Memory.lean ====
section
/-!
SUPPORT. What the operations of the memories do: a write of physical memory under a key ID, a write of the gang store, and
the zeroing of the memories keep the canonical form, write their bytes and leave the others.
-/

namespace Sys2Proof.Machine

/-! ### Poisoned lines and the gang store -/

@[simp] theorem badLine_nil (a n : Nat) : badLine [] a n = none := by simp [badLine]

theorem mended_short (bad : List Nat) (a n : Nat) (h : n < 128) : mended bad a n = bad := if_pos h

theorem mended_subset (bad : List Nat) (a n : Nat) : ∀ x ∈ mended bad a n, x ∈ bad := by
  unfold mended
  split
  · exact fun _ h => h
  · exact fun _ h => (List.mem_filter.mp h).1

@[simp] theorem Gang.write_store (g : Gang) (a : Nat) (d : List Byte) :
    (g.write a d).store = Memory.writeBytes g.store a d := rfl

@[simp] theorem Gang.write_bad (g : Gang) (a : Nat) (d : List Byte) : (g.write a d).bad = mended g.bad a d.length := rfl

@[simp] theorem Gang.write_tiles (g : Gang) (a : Nat) (d : List Byte) : (g.write a d).tiles = g.tiles := rfl

@[simp] theorem Gang.write_rings (g : Gang) (a : Nat) (d : List Byte) : (g.write a d).rings = g.rings := rfl

theorem Gang.write_wf (g : Gang) (a : Nat) (d : List Byte) (h : Memory.wf g.store = true) :
    Memory.wf (g.write a d).store = true := Memory.wf_writeBytes _ _ _ h

/-! ### Physical memory -/

theorem State.memUnder_keyed (s : State) (key : BitVec 12) (pa n : Nat) (h : s.keyed key pa n = true) :
    s.memUnder key pa n = s.ms.mem := by
  simp only [State.keyed, List.isEmpty_iff] at h
  simp [State.memUnder, h]

theorem State.physRead_keyed (s : State) (key : BitVec 12) (pa n : Nat) (h : s.keyed key pa n = true) :
    s.physRead key pa n = Memory.readBytes s.ms.mem pa n := by
  rw [State.physRead, s.memUnder_keyed key pa n h]

/-- Lines filled one after another keep the canonical form. -/
theorem wf_foldl_lines (f : Nat → List Byte) (l : List Nat) (m : Memory) (h : Memory.wf m = true) :
    Memory.wf (l.foldl (fun m x => Memory.writeBytes m x (f x)) m) = true := by
  induction l generalizing m with
  | nil => exact h
  | cons x r ih => exact ih _ (Memory.wf_writeBytes _ _ _ h)

/-- Lines filled one after another leave the bytes outside them. -/
theorem read_foldl_lines (f : Nat → List Byte) (l : List Nat) (m : Memory) (a : Nat) (h : Memory.wf m = true)
    (ha : ∀ x ∈ l, a < x ∨ x + (f x).length ≤ a) :
    Memory.read (l.foldl (fun m x => Memory.writeBytes m x (f x)) m) a = Memory.read m a := by
  induction l generalizing m with
  | nil => rfl
  | cons x r ih =>
    rw [List.foldl_cons, ih _ (Memory.wf_writeBytes _ _ _ h) fun y hy => ha y (List.mem_cons_of_mem _ hy),
      Memory.read_writeBytes_out _ _ _ _ h (ha x List.mem_cons_self)]

theorem State.memUnder_wf (s : State) (key : BitVec 12) (pa n : Nat) (h : s.memOk) : Memory.wf (s.memUnder key pa n) = true :=
  wf_foldl_lines _ _ _ h

theorem State.physWrite_memOk (s : State) (key : BitVec 12) (pa : Nat) (d : List Byte) (h : s.memOk) :
    (s.physWrite key pa d).memOk := Memory.wf_writeBytes _ _ _ (s.memUnder_wf key pa d.length h)

/-- A write leaves its bytes in memory. -/
theorem State.physWrite_in (s : State) (key : BitVec 12) (pa k : Nat) (d : List Byte) (h : s.memOk) (hk : k < d.length) :
    (s.physWrite key pa d).byte (pa + k) = d[k] := Memory.read_writeBytes_in _ _ _ _ (s.memUnder_wf key pa d.length h) hk

/-- A write to lines under their own key ID leaves every other byte. -/
theorem State.physWrite_out (s : State) (key : BitVec 12) (pa a : Nat) (d : List Byte) (h : s.memOk)
    (hd : s.keyed key pa d.length = true) (ha : a < pa ∨ pa + d.length ≤ a) : (s.physWrite key pa d).byte a = s.byte a := by
  show Memory.read (Memory.writeBytes (s.memUnder key pa d.length) pa d) a = _
  rw [Memory.read_writeBytes_out _ _ _ _ (s.memUnder_wf key pa d.length h) ha, s.memUnder_keyed key pa d.length hd]
  rfl

/-- A line starts at a multiple of 128. -/
theorem line_of_mem (pa n x : Nat) (h : x ∈ linesOf pa n) : x % 128 = 0 := by
  simp only [linesOf, lineOf, List.mem_map] at h
  obtain ⟨i, -, rfl⟩ := h
  omega

/-- A write leaves every byte that does not lie in one of its lines, whatever key ID those were under. -/
theorem State.physWrite_elsewhere (s : State) (key : BitVec 12) (pa a : Nat) (d : List Byte) (h : s.memOk)
    (ha : a < pa ∨ pa + d.length ≤ a) (hl : lineOf a ∉ linesOf pa d.length) :
    (s.physWrite key pa d).byte a = s.byte a := by
  show Memory.read (Memory.writeBytes (s.memUnder key pa d.length) pa d) a = _
  rw [Memory.read_writeBytes_out _ _ _ _ (s.memUnder_wf key pa d.length h) ha]
  refine read_foldl_lines _ _ _ _ h fun x hx => ?_
  have hm : x ∈ linesOf pa d.length := (List.mem_filter.mp hx).1
  have h0 := line_of_mem _ _ _ hm
  have hne : x ≠ lineOf a := fun e => hl (e ▸ hm)
  have hn : (s.otherLine key x).length = 128 := by simp [State.otherLine]
  rw [hn]
  unfold lineOf at hne
  omega

/-- What a write leaves of the bytes it does not write (02 R65). -/
theorem State.physWrite_under (s : State) (key : BitVec 12) (pa a : Nat) (d : List Byte) (h : s.memOk)
    (ha : a < pa ∨ pa + d.length ≤ a) (hu : s.UnderKey key pa d.length a) :
    (s.physWrite key pa d).byte a = s.byte a := by
  rcases hu with hu | hu
  · exact s.physWrite_out key pa a d h hu ha
  · exact s.physWrite_elsewhere key pa a d h ha hu

/-! ### Zeroed memories -/

/-- A part of a memory is one. -/
theorem tsorted_filter {α : Type} (p : Nat × α → Bool) (t : Table α) (h : tsorted t = true) : tsorted (t.filter p) = true := by
  have g : ∀ (t : Table α), tsorted t = true ↔ t.Pairwise fun x y => x.1 < y.1 := by
    intro t
    induction t with
    | nil => simp [tsorted]
    | cons x r ih =>
      cases r with
      | nil => simp [tsorted]
      | cons y q =>
        obtain ⟨a, v⟩ := x
        obtain ⟨b, w⟩ := y
        simp only [tsorted, Bool.and_eq_true, decide_eq_true_eq, ih]
        rw [List.pairwise_cons (a := (a, v))]
        constructor
        · rintro ⟨hab, hr⟩
          refine ⟨fun z hz => ?_, hr⟩
          rcases List.mem_cons.mp hz with rfl | hz
          · exact hab
          · exact Nat.lt_trans hab ((List.pairwise_cons.mp hr).1 z hz)
        · rintro ⟨hx, hr⟩
          exact ⟨hx _ List.mem_cons_self, hr⟩
  exact (g _).mpr (((g t).mp h).filter p)

theorem Memory.wf_filter (p : Host.Cell → Bool) (m : Memory) (h : Memory.wf m = true) : Memory.wf (m.filter p) = true := by
  simp only [Memory.wf, Bool.and_eq_true, List.all_eq_true] at h ⊢
  exact ⟨tsorted_filter p m h.1, fun x hx => h.2 x (List.mem_filter.mp hx).1⟩

theorem State.afterReset_memOk (s : State) (h : s.memOk) : s.afterReset.memOk := Memory.wf_filter _ _ h

theorem State.zeroMemories_memOk (s : State) (h : s.memOk) : s.zeroMemories.memOk := Memory.wf_filter _ _ h

end Sys2Proof.Machine
end

