-- ==== Sys2Proof/Laws/PerInstr.lean ====
section
/-!
SUPPORT. The family Coding: the encoder's opcode and form of an operation are those of its row of the decoder's table
(05 Tables 5-1 to 5-4, 23 Table 23-3), one lemma for each constructor.
-/

namespace Sys2Proof.Laws

set_option maxRecDepth 4000

/-- The row of the decoder's table under the opcode the encoder gives makes the same operation from its fields. A step of
the machine itself has no row. -/
def Coding.Statement (i : Instr) : Prop :=
  match i.enc with
  | .nop x => i = .nop x
  | .a3 op o => ∃ f, opMk op = some (.a3 f) ∧ f o = i
  | .atom op o => ∃ f, opMk op = some (.atom f) ∧ f o = i
  | .j19 op o => ∃ f, opMk op = some (.j19 f) ∧ f o = i
  | .lp op o => ∃ f, opMk op = some (.lp f) ∧ f o = i
  | .c16 op o => ∃ f, opMk op = some (.c16 f) ∧ f o = i
  | .bnop x => i = .belvNop x
  | .br op o => ∃ f, belvTable.lookup op = some (.br f) ∧ f o = i
  | .bi op o => ∃ f, (belvTable.lookup op = some (.bi f) ∨ belvTable.lookup op = some (.bj f)) ∧ f o = i
  | .bl op o => ∃ f, belvTable.lookup op = some (.bl f) ∧ f o = i
  | .step => True

theorem Coding.deviceReset (sideband : Bool) : Coding.Statement (.deviceReset sideband) := trivial
theorem Coding.bringupPhaseComplete (images : List Firmware) : Coding.Statement (.bringupPhaseComplete images) := trivial
theorem Coding.attestationRequest (nonce : BitVec 256) : Coding.Statement (.attestationRequest nonce) := trivial
theorem Coding.keyBlobInstall (keyId : BitVec 12) (unwraps : Bool) : Coding.Statement (.keyBlobInstall keyId unwraps) := trivial
theorem Coding.cxlLinkTraining (width rate : Nat) : Coding.Statement (.cxlLinkTraining width rate) := trivial
theorem Coding.hostCacheWriteSnoop (hpa : Nat) (data : List Byte) : Coding.Statement (.hostCacheWriteSnoop hpa data) := trivial
theorem Coding.hostCxlMemAccess (write : Bool) (pa len : Nat) (data : List Byte) : Coding.Statement (.hostCxlMemAccess write pa len data) := trivial
theorem Coding.registerWrite (r : HostReg) (acc : RegAccess) (v : BitVec 64) : Coding.Statement (.registerWrite r acc v) := trivial
theorem Coding.lqcfgEnable (q : Nat) (viaBar0 : Bool) (v : BitVec 64) : Coding.Statement (.lqcfgEnable q viaBar0 v) := trivial
theorem Coding.lqcfgDisable (q : Nat) : Coding.Statement (.lqcfgDisable q) := trivial
theorem Coding.lqtailWrite (q : Nat) (v : BitVec 32) : Coding.Statement (.lqtailWrite q v) := trivial
theorem Coding.lqEntryRead (q : Nat) : Coding.Statement (.lqEntryRead q) := trivial
theorem Coding.launchDescriptorCheck (q : Nat) : Coding.Statement (.launchDescriptorCheck q) := trivial
theorem Coding.argCopy (q : Nat) : Coding.Statement (.argCopy q) := trivial
theorem Coding.gangPlacement : Coding.Statement (.gangPlacement) := trivial
theorem Coding.victimTileSave (gang : Nat) : Coding.Statement (.victimTileSave gang) := trivial
theorem Coding.teamSwitchIn (core : Nat) : Coding.Statement (.teamSwitchIn core) := trivial
theorem Coding.blockParkTimeout (team : Nat) : Coding.Statement (.blockParkTimeout team) := trivial
theorem Coding.teamWake (team : Nat) : Coding.Statement (.teamWake team) := trivial
theorem Coding.bundleFetch (core : Nat) : Coding.Statement (.bundleFetch core) := trivial
theorem Coding.coreClockGate (core : Nat) : Coding.Statement (.coreClockGate core) := trivial
theorem Coding.coreWake (core : Nat) : Coding.Statement (.coreWake core) := trivial
theorem Coding.overlayFill (core fill : Nat) : Coding.Statement (.overlayFill core fill) := trivial
theorem Coding.faultReport (team : Nat) : Coding.Statement (.faultReport team) := trivial
theorem Coding.gangFenceCheckpoint (team : Nat) : Coding.Statement (.gangFenceCheckpoint team) := trivial
theorem Coding.debugStop (team : Nat) : Coding.Statement (.debugStop team) := trivial
theorem Coding.dbgresResume (p : Nat) (v : BitVec 64) : Coding.Statement (.dbgresResume p v) := trivial
theorem Coding.dbgresStep (p : Nat) (v : BitVec 64) : Coding.Statement (.dbgresStep p v) := trivial
theorem Coding.teamSlotFree (team : Nat) : Coding.Statement (.teamSlotFree team) := trivial
theorem Coding.wqbindEnable (p n : Nat) (v : BitVec 64) : Coding.Statement (.wqbindEnable p n v) := trivial
theorem Coding.wqbindDisable (p n : Nat) (v : BitVec 64) : Coding.Statement (.wqbindDisable p n v) := trivial
theorem Coding.wqCloseWriteback (p n : Nat) : Coding.Statement (.wqCloseWriteback p n) := trivial
theorem Coding.wqAgeExpiry (p n : Nat) : Coding.Statement (.wqAgeExpiry p n) := trivial
theorem Coding.tlslotHostWrite (p n : Nat) (v : BitVec 64) : Coding.Statement (.tlslotHostWrite p n v) := trivial
theorem Coding.partctlShadowWrite (p : Nat) (v : BitVec 64) : Coding.Statement (.partctlShadowWrite p v) := trivial
theorem Coding.partctlHalt (p : Nat) : Coding.Statement (.partctlHalt p) := trivial
theorem Coding.partitionHalted (p : Nat) : Coding.Statement (.partitionHalted p) := trivial
theorem Coding.partctlSave (p : Nat) : Coding.Statement (.partctlSave p) := trivial
theorem Coding.partitionSaved (p : Nat) : Coding.Statement (.partitionSaved p) := trivial
theorem Coding.partctlRestore (p : Nat) : Coding.Statement (.partctlRestore p) := trivial
theorem Coding.partitionRestored (p : Nat) : Coding.Statement (.partitionRestored p) := trivial
theorem Coding.partctlResume (p : Nat) : Coding.Statement (.partctlResume p) := trivial
theorem Coding.partctlStart (p : Nat) : Coding.Statement (.partctlStart p) := trivial
theorem Coding.partctlStop (p : Nat) : Coding.Statement (.partctlStop p) := trivial
theorem Coding.tlbiGo (p : Nat) (v : BitVec 64) : Coding.Statement (.tlbiGo p v) := trivial
theorem Coding.tlbiComplete (p : Nat) : Coding.Statement (.tlbiComplete p) := trivial
theorem Coding.fxcfgWrite (v : BitVec 64) : Coding.Statement (.fxcfgWrite v) := trivial
theorem Coding.ilimcfgWrite (v : BitVec 64) : Coding.Statement (.ilimcfgWrite v) := trivial
theorem Coding.domcfgWrite (v : BitVec 64) : Coding.Statement (.domcfgWrite v) := trivial
theorem Coding.collrstWrite (p : Nat) (v : BitVec 64) : Coding.Statement (.collrstWrite p v) := trivial
theorem Coding.dbgholdHold : Coding.Statement (.dbgholdHold) := trivial
theorem Coding.dbgholdRelease : Coding.Statement (.dbgholdRelease) := trivial
theorem Coding.holdNoticeReceived (device : Nat) : Coding.Statement (.holdNoticeReceived device) := trivial
theorem Coding.releaseNoticeReceived (device : Nat) : Coding.Statement (.releaseNoticeReceived device) := trivial
theorem Coding.collectiveEnd (gang num : Nat) (peers : List (List Byte)) (tree : RedTree) (agree : Bool) : Coding.Statement (.collectiveEnd gang num peers tree agree) := trivial
theorem Coding.collectiveExpiry (gang num : Nat) : Coding.Statement (.collectiveExpiry gang num) := trivial
theorem Coding.remoteAccessIncoming (device : Nat) (req : RemoteReq) : Coding.Statement (.remoteAccessIncoming device req) := trivial
theorem Coding.remoteResponse (team : Nat) (resp : RemoteResp) : Coding.Statement (.remoteResponse team resp) := trivial
theorem Coding.remoteTimeout (team : Nat) : Coding.Statement (.remoteTimeout team) := trivial
theorem Coding.remoteStoreAck (team : Nat) (resp : RemoteResp) : Coding.Statement (.remoteStoreAck team resp) := trivial
theorem Coding.copyStart (team : Nat) : Coding.Statement (.copyStart team) := trivial
theorem Coding.copyComplete (team : Nat) : Coding.Statement (.copyComplete team) := trivial
theorem Coding.trellisArrayGrant (cluster : Nat) : Coding.Statement (.trellisArrayGrant cluster) := trivial
theorem Coding.trellisPortGrant (cluster : Nat) : Coding.Statement (.trellisPortGrant cluster) := trivial
theorem Coding.trellisCommandComplete (gang num : Nat) : Coding.Statement (.trellisCommandComplete gang num) := trivial
theorem Coding.codebookFill (cluster : Nat) : Coding.Statement (.codebookFill cluster) := trivial
theorem Coding.walkerEntry (gang walker : Nat) : Coding.Statement (.walkerEntry gang walker) := trivial
theorem Coding.rayTraversal (cluster slot : Nat) : Coding.Statement (.rayTraversal cluster slot) := trivial
theorem Coding.splatJobStart (die : Nat) : Coding.Statement (.splatJobStart die) := trivial
theorem Coding.splatJobEnd (die : Nat) : Coding.Statement (.splatJobEnd die) := trivial
theorem Coding.l2LineEvict (t : EvictTarget) : Coding.Statement (.l2LineEvict t) := trivial
theorem Coding.recipeStorePerform (team : Nat) : Coding.Statement (.recipeStorePerform team) := trivial
theorem Coding.memoryUncorrectableError (at_ : ErrorAt) (unit : BitVec 16) : Coding.Statement (.memoryUncorrectableError at_ unit) := trivial
theorem Coding.thermalSample (temps : List (BitVec 16)) (mw : BitVec 32) (mj : BitVec 64) : Coding.Statement (.thermalSample temps mw mj) := trivial
theorem Coding.headctlEnable (h : Nat) (v : BitVec 64) (linkTrains : Bool) : Coding.Statement (.headctlEnable h v linkTrains) := trivial
theorem Coding.headctlDisable (h : Nat) (v : BitVec 64) : Coding.Statement (.headctlDisable h v) := trivial
theorem Coding.headStopped (h : Nat) : Coding.Statement (.headStopped h) := trivial
theorem Coding.hpdChange (h : Nat) (connected : Bool) : Coding.Statement (.hpdChange h connected) := trivial
theorem Coding.lineTick (h : Nat) : Coding.Statement (.lineTick h) := trivial
theorem Coding.bandStart (core : Nat) : Coding.Statement (.bandStart core) := trivial
theorem Coding.matrixEngineServe : Coding.Statement (.matrixEngineServe) := trivial
theorem Coding.poseMailboxWrite (p h off size : Nat) (v : BitVec 64) : Coding.Statement (.poseMailboxWrite p h off size v) := trivial
theorem Coding.poseMailboxCommit (p h : Nat) (v : BitVec 64) : Coding.Statement (.poseMailboxCommit p h v) := trivial
theorem Coding.trcctlEnable (v : BitVec 64) : Coding.Statement (.trcctlEnable v) := trivial
theorem Coding.trcctlDisable (v : BitVec 64) : Coding.Statement (.trcctlDisable v) := trivial
theorem Coding.traceLinkReady : Coding.Statement (.traceLinkReady) := trivial
theorem Coding.traceLinkLost : Coding.Statement (.traceLinkLost) := trivial
theorem Coding.nop (x : BitVec 22) : Coding.Statement (.nop x) := rfl
theorem Coding.sadd (o : A3) : Coding.Statement (.sadd o) := ⟨_, rfl, rfl⟩
theorem Coding.ssub (o : A3) : Coding.Statement (.ssub o) := ⟨_, rfl, rfl⟩
theorem Coding.smul (o : A3) : Coding.Statement (.smul o) := ⟨_, rfl, rfl⟩
theorem Coding.smulh (o : A3) : Coding.Statement (.smulh o) := ⟨_, rfl, rfl⟩
theorem Coding.smulhn (o : A3) : Coding.Statement (.smulhn o) := ⟨_, rfl, rfl⟩
theorem Coding.sdiv (o : A3) : Coding.Statement (.sdiv o) := ⟨_, rfl, rfl⟩
theorem Coding.sdivn (o : A3) : Coding.Statement (.sdivn o) := ⟨_, rfl, rfl⟩
theorem Coding.srem (o : A3) : Coding.Statement (.srem o) := ⟨_, rfl, rfl⟩
theorem Coding.sremn (o : A3) : Coding.Statement (.sremn o) := ⟨_, rfl, rfl⟩
theorem Coding.sand (o : A3) : Coding.Statement (.sand o) := ⟨_, rfl, rfl⟩
theorem Coding.sor (o : A3) : Coding.Statement (.sor o) := ⟨_, rfl, rfl⟩
theorem Coding.sxor (o : A3) : Coding.Statement (.sxor o) := ⟨_, rfl, rfl⟩
theorem Coding.sandn (o : A3) : Coding.Statement (.sandn o) := ⟨_, rfl, rfl⟩
theorem Coding.sshl (o : A3) : Coding.Statement (.sshl o) := ⟨_, rfl, rfl⟩
theorem Coding.sshr (o : A3) : Coding.Statement (.sshr o) := ⟨_, rfl, rfl⟩
theorem Coding.ssra (o : A3) : Coding.Statement (.ssra o) := ⟨_, rfl, rfl⟩
theorem Coding.smin (o : A3) : Coding.Statement (.smin o) := ⟨_, rfl, rfl⟩
theorem Coding.smax (o : A3) : Coding.Statement (.smax o) := ⟨_, rfl, rfl⟩
theorem Coding.sminn (o : A3) : Coding.Statement (.sminn o) := ⟨_, rfl, rfl⟩
theorem Coding.smaxn (o : A3) : Coding.Statement (.smaxn o) := ⟨_, rfl, rfl⟩
theorem Coding.sabs (o : A3) : Coding.Statement (.sabs o) := ⟨_, rfl, rfl⟩
theorem Coding.spopc (o : A3) : Coding.Statement (.spopc o) := ⟨_, rfl, rfl⟩
theorem Coding.sclz (o : A3) : Coding.Statement (.sclz o) := ⟨_, rfl, rfl⟩
theorem Coding.sctz (o : A3) : Coding.Statement (.sctz o) := ⟨_, rfl, rfl⟩
theorem Coding.sbfx (o : A3) : Coding.Statement (.sbfx o) := ⟨_, rfl, rfl⟩
theorem Coding.sbfi (o : A3) : Coding.Statement (.sbfi o) := ⟨_, rfl, rfl⟩
theorem Coding.ssel (o : A3) : Coding.Statement (.ssel o) := ⟨_, rfl, rfl⟩
theorem Coding.scmpeq (o : A3) : Coding.Statement (.scmpeq o) := ⟨_, rfl, rfl⟩
theorem Coding.scmpne (o : A3) : Coding.Statement (.scmpne o) := ⟨_, rfl, rfl⟩
theorem Coding.scmplt (o : A3) : Coding.Statement (.scmplt o) := ⟨_, rfl, rfl⟩
theorem Coding.scmple (o : A3) : Coding.Statement (.scmple o) := ⟨_, rfl, rfl⟩
theorem Coding.scmpltn (o : A3) : Coding.Statement (.scmpltn o) := ⟨_, rfl, rfl⟩
theorem Coding.scmplen (o : A3) : Coding.Statement (.scmplen o) := ⟨_, rfl, rfl⟩
theorem Coding.cand (o : A3) : Coding.Statement (.cand o) := ⟨_, rfl, rfl⟩
theorem Coding.cor (o : A3) : Coding.Statement (.cor o) := ⟨_, rfl, rfl⟩
theorem Coding.cxor (o : A3) : Coding.Statement (.cxor o) := ⟨_, rfl, rfl⟩
theorem Coding.cnot (o : A3) : Coding.Statement (.cnot o) := ⟨_, rfl, rfl⟩
theorem Coding.smov (o : A3) : Coding.Statement (.smov o) := ⟨_, rfl, rfl⟩
theorem Coding.smovi (o : C16) : Coding.Statement (.smovi o) := ⟨_, rfl, rfl⟩
theorem Coding.smovh (o : C16) : Coding.Statement (.smovh o) := ⟨_, rfl, rfl⟩
theorem Coding.br (o : J19) : Coding.Statement (.br o) := ⟨_, rfl, rfl⟩
theorem Coding.brnot (o : J19) : Coding.Statement (.brnot o) := ⟨_, rfl, rfl⟩
theorem Coding.call (o : J19) : Coding.Statement (.call o) := ⟨_, rfl, rfl⟩
theorem Coding.ret (o : A3) : Coding.Statement (.ret o) := ⟨_, rfl, rfl⟩
theorem Coding.jidx (o : A3) : Coding.Statement (.jidx o) := ⟨_, rfl, rfl⟩
theorem Coding.vjidx (o : A3) : Coding.Statement (.vjidx o) := ⟨_, rfl, rfl⟩
theorem Coding.djoin (o : A3) : Coding.Statement (.djoin o) := ⟨_, rfl, rfl⟩
theorem Coding.loopOp (o : LpOp) : Coding.Statement (.loopOp o) := ⟨_, rfl, rfl⟩
theorem Coding.loopw (o : LpOp) : Coding.Statement (.loopw o) := ⟨_, rfl, rfl⟩
theorem Coding.lbrk (o : A3) : Coding.Statement (.lbrk o) := ⟨_, rfl, rfl⟩
theorem Coding.mpush (o : A3) : Coding.Statement (.mpush o) := ⟨_, rfl, rfl⟩
theorem Coding.minv (o : A3) : Coding.Statement (.minv o) := ⟨_, rfl, rfl⟩
theorem Coding.mpop (o : A3) : Coding.Statement (.mpop o) := ⟨_, rfl, rfl⟩
theorem Coding.mbez (o : J19) : Coding.Statement (.mbez o) := ⟨_, rfl, rfl⟩
theorem Coding.mread (o : A3) : Coding.Statement (.mread o) := ⟨_, rfl, rfl⟩
theorem Coding.tfork (o : A3) : Coding.Statement (.tfork o) := ⟨_, rfl, rfl⟩
theorem Coding.tjoin (o : A3) : Coding.Statement (.tjoin o) := ⟨_, rfl, rfl⟩
theorem Coding.endOp (o : A3) : Coding.Statement (.endOp o) := ⟨_, rfl, rfl⟩
theorem Coding.wnext (o : A3) : Coding.Statement (.wnext o) := ⟨_, rfl, rfl⟩
theorem Coding.yield (o : A3) : Coding.Statement (.yield o) := ⟨_, rfl, rfl⟩
theorem Coding.trap (o : A3) : Coding.Statement (.trap o) := ⟨_, rfl, rfl⟩
theorem Coding.tret (o : A3) : Coding.Statement (.tret o) := ⟨_, rfl, rfl⟩
theorem Coding.bkpt (o : A3) : Coding.Statement (.bkpt o) := ⟨_, rfl, rfl⟩
theorem Coding.ckpt (o : A3) : Coding.Statement (.ckpt o) := ⟨_, rfl, rfl⟩
theorem Coding.setf (o : A3) : Coding.Statement (.setf o) := ⟨_, rfl, rfl⟩
theorem Coding.movc (o : A3) : Coding.Statement (.movc o) := ⟨_, rfl, rfl⟩
theorem Coding.setc (o : A3) : Coding.Statement (.setc o) := ⟨_, rfl, rfl⟩
theorem Coding.movtc (o : A3) : Coding.Statement (.movtc o) := ⟨_, rfl, rfl⟩
theorem Coding.movbd (o : A3) : Coding.Statement (.movbd o) := ⟨_, rfl, rfl⟩
theorem Coding.vaddI32 (o : A3) : Coding.Statement (.vaddI32 o) := ⟨_, rfl, rfl⟩
theorem Coding.vaddI64 (o : A3) : Coding.Statement (.vaddI64 o) := ⟨_, rfl, rfl⟩
theorem Coding.vsubI32 (o : A3) : Coding.Statement (.vsubI32 o) := ⟨_, rfl, rfl⟩
theorem Coding.vsubI64 (o : A3) : Coding.Statement (.vsubI64 o) := ⟨_, rfl, rfl⟩
theorem Coding.vaddsS32 (o : A3) : Coding.Statement (.vaddsS32 o) := ⟨_, rfl, rfl⟩
theorem Coding.vaddsN32 (o : A3) : Coding.Statement (.vaddsN32 o) := ⟨_, rfl, rfl⟩
theorem Coding.vsubsS32 (o : A3) : Coding.Statement (.vsubsS32 o) := ⟨_, rfl, rfl⟩
theorem Coding.vsubsN32 (o : A3) : Coding.Statement (.vsubsN32 o) := ⟨_, rfl, rfl⟩
theorem Coding.vmulI32 (o : A3) : Coding.Statement (.vmulI32 o) := ⟨_, rfl, rfl⟩
theorem Coding.vmulI64 (o : A3) : Coding.Statement (.vmulI64 o) := ⟨_, rfl, rfl⟩
theorem Coding.vmulhS32 (o : A3) : Coding.Statement (.vmulhS32 o) := ⟨_, rfl, rfl⟩
theorem Coding.vmulhN32 (o : A3) : Coding.Statement (.vmulhN32 o) := ⟨_, rfl, rfl⟩
theorem Coding.vmadI32 (o : A3) : Coding.Statement (.vmadI32 o) := ⟨_, rfl, rfl⟩
theorem Coding.vminS32 (o : A3) : Coding.Statement (.vminS32 o) := ⟨_, rfl, rfl⟩
theorem Coding.vminN32 (o : A3) : Coding.Statement (.vminN32 o) := ⟨_, rfl, rfl⟩
theorem Coding.vminS64 (o : A3) : Coding.Statement (.vminS64 o) := ⟨_, rfl, rfl⟩
theorem Coding.vminN64 (o : A3) : Coding.Statement (.vminN64 o) := ⟨_, rfl, rfl⟩
theorem Coding.vmaxS32 (o : A3) : Coding.Statement (.vmaxS32 o) := ⟨_, rfl, rfl⟩
theorem Coding.vmaxN32 (o : A3) : Coding.Statement (.vmaxN32 o) := ⟨_, rfl, rfl⟩
theorem Coding.vmaxS64 (o : A3) : Coding.Statement (.vmaxS64 o) := ⟨_, rfl, rfl⟩
theorem Coding.vmaxN64 (o : A3) : Coding.Statement (.vmaxN64 o) := ⟨_, rfl, rfl⟩
theorem Coding.vabsS32 (o : A3) : Coding.Statement (.vabsS32 o) := ⟨_, rfl, rfl⟩
theorem Coding.vabsS64 (o : A3) : Coding.Statement (.vabsS64 o) := ⟨_, rfl, rfl⟩
theorem Coding.vandB32 (o : A3) : Coding.Statement (.vandB32 o) := ⟨_, rfl, rfl⟩
theorem Coding.vorB32 (o : A3) : Coding.Statement (.vorB32 o) := ⟨_, rfl, rfl⟩
theorem Coding.vxorB32 (o : A3) : Coding.Statement (.vxorB32 o) := ⟨_, rfl, rfl⟩
theorem Coding.vandnB32 (o : A3) : Coding.Statement (.vandnB32 o) := ⟨_, rfl, rfl⟩
theorem Coding.vshlB32 (o : A3) : Coding.Statement (.vshlB32 o) := ⟨_, rfl, rfl⟩
theorem Coding.vshlB64 (o : A3) : Coding.Statement (.vshlB64 o) := ⟨_, rfl, rfl⟩
theorem Coding.vshrB32 (o : A3) : Coding.Statement (.vshrB32 o) := ⟨_, rfl, rfl⟩
theorem Coding.vshrB64 (o : A3) : Coding.Statement (.vshrB64 o) := ⟨_, rfl, rfl⟩
theorem Coding.vsraS32 (o : A3) : Coding.Statement (.vsraS32 o) := ⟨_, rfl, rfl⟩
theorem Coding.vsraS64 (o : A3) : Coding.Statement (.vsraS64 o) := ⟨_, rfl, rfl⟩
theorem Coding.vpopcB32 (o : A3) : Coding.Statement (.vpopcB32 o) := ⟨_, rfl, rfl⟩
theorem Coding.vclzB32 (o : A3) : Coding.Statement (.vclzB32 o) := ⟨_, rfl, rfl⟩
theorem Coding.vbfxS32 (o : A3) : Coding.Statement (.vbfxS32 o) := ⟨_, rfl, rfl⟩
theorem Coding.vbfxN32 (o : A3) : Coding.Statement (.vbfxN32 o) := ⟨_, rfl, rfl⟩
theorem Coding.vbfiB32 (o : A3) : Coding.Statement (.vbfiB32 o) := ⟨_, rfl, rfl⟩
theorem Coding.vcmpeqI32 (o : A3) : Coding.Statement (.vcmpeqI32 o) := ⟨_, rfl, rfl⟩
theorem Coding.vcmpeqI64 (o : A3) : Coding.Statement (.vcmpeqI64 o) := ⟨_, rfl, rfl⟩
theorem Coding.vcmpneI32 (o : A3) : Coding.Statement (.vcmpneI32 o) := ⟨_, rfl, rfl⟩
theorem Coding.vcmpneI64 (o : A3) : Coding.Statement (.vcmpneI64 o) := ⟨_, rfl, rfl⟩
theorem Coding.vcmpltS32 (o : A3) : Coding.Statement (.vcmpltS32 o) := ⟨_, rfl, rfl⟩
theorem Coding.vcmpltN32 (o : A3) : Coding.Statement (.vcmpltN32 o) := ⟨_, rfl, rfl⟩
theorem Coding.vcmpltS64 (o : A3) : Coding.Statement (.vcmpltS64 o) := ⟨_, rfl, rfl⟩
theorem Coding.vcmpltN64 (o : A3) : Coding.Statement (.vcmpltN64 o) := ⟨_, rfl, rfl⟩
theorem Coding.vcmpleS32 (o : A3) : Coding.Statement (.vcmpleS32 o) := ⟨_, rfl, rfl⟩
theorem Coding.vcmpleN32 (o : A3) : Coding.Statement (.vcmpleN32 o) := ⟨_, rfl, rfl⟩
theorem Coding.vcmpleS64 (o : A3) : Coding.Statement (.vcmpleS64 o) := ⟨_, rfl, rfl⟩
theorem Coding.vcmpleN64 (o : A3) : Coding.Statement (.vcmpleN64 o) := ⟨_, rfl, rfl⟩
theorem Coding.vselB32 (o : A3) : Coding.Statement (.vselB32 o) := ⟨_, rfl, rfl⟩
theorem Coding.vselB64 (o : A3) : Coding.Statement (.vselB64 o) := ⟨_, rfl, rfl⟩
theorem Coding.faddF32 (o : A3) : Coding.Statement (.faddF32 o) := ⟨_, rfl, rfl⟩
theorem Coding.faddF64 (o : A3) : Coding.Statement (.faddF64 o) := ⟨_, rfl, rfl⟩
theorem Coding.faddH2 (o : A3) : Coding.Statement (.faddH2 o) := ⟨_, rfl, rfl⟩
theorem Coding.faddBh2 (o : A3) : Coding.Statement (.faddBh2 o) := ⟨_, rfl, rfl⟩
theorem Coding.fsubF32 (o : A3) : Coding.Statement (.fsubF32 o) := ⟨_, rfl, rfl⟩
theorem Coding.fsubF64 (o : A3) : Coding.Statement (.fsubF64 o) := ⟨_, rfl, rfl⟩
theorem Coding.fsubH2 (o : A3) : Coding.Statement (.fsubH2 o) := ⟨_, rfl, rfl⟩
theorem Coding.fsubBh2 (o : A3) : Coding.Statement (.fsubBh2 o) := ⟨_, rfl, rfl⟩
theorem Coding.fmulF32 (o : A3) : Coding.Statement (.fmulF32 o) := ⟨_, rfl, rfl⟩
theorem Coding.fmulF64 (o : A3) : Coding.Statement (.fmulF64 o) := ⟨_, rfl, rfl⟩
theorem Coding.fmulH2 (o : A3) : Coding.Statement (.fmulH2 o) := ⟨_, rfl, rfl⟩
theorem Coding.fmulBh2 (o : A3) : Coding.Statement (.fmulBh2 o) := ⟨_, rfl, rfl⟩
theorem Coding.ffmaF32 (o : A3) : Coding.Statement (.ffmaF32 o) := ⟨_, rfl, rfl⟩
theorem Coding.ffmaF64 (o : A3) : Coding.Statement (.ffmaF64 o) := ⟨_, rfl, rfl⟩
theorem Coding.ffmaH2 (o : A3) : Coding.Statement (.ffmaH2 o) := ⟨_, rfl, rfl⟩
theorem Coding.ffmaBh2 (o : A3) : Coding.Statement (.ffmaBh2 o) := ⟨_, rfl, rfl⟩
theorem Coding.fminF32 (o : A3) : Coding.Statement (.fminF32 o) := ⟨_, rfl, rfl⟩
theorem Coding.fminF64 (o : A3) : Coding.Statement (.fminF64 o) := ⟨_, rfl, rfl⟩
theorem Coding.fminH2 (o : A3) : Coding.Statement (.fminH2 o) := ⟨_, rfl, rfl⟩
theorem Coding.fminBh2 (o : A3) : Coding.Statement (.fminBh2 o) := ⟨_, rfl, rfl⟩
theorem Coding.fmaxF32 (o : A3) : Coding.Statement (.fmaxF32 o) := ⟨_, rfl, rfl⟩
theorem Coding.fmaxF64 (o : A3) : Coding.Statement (.fmaxF64 o) := ⟨_, rfl, rfl⟩
theorem Coding.fmaxH2 (o : A3) : Coding.Statement (.fmaxH2 o) := ⟨_, rfl, rfl⟩
theorem Coding.fmaxBh2 (o : A3) : Coding.Statement (.fmaxBh2 o) := ⟨_, rfl, rfl⟩
theorem Coding.fcmpeqF32 (o : A3) : Coding.Statement (.fcmpeqF32 o) := ⟨_, rfl, rfl⟩
theorem Coding.fcmpeqF64 (o : A3) : Coding.Statement (.fcmpeqF64 o) := ⟨_, rfl, rfl⟩
theorem Coding.fcmpltF32 (o : A3) : Coding.Statement (.fcmpltF32 o) := ⟨_, rfl, rfl⟩
theorem Coding.fcmpltF64 (o : A3) : Coding.Statement (.fcmpltF64 o) := ⟨_, rfl, rfl⟩
theorem Coding.fcmpleF32 (o : A3) : Coding.Statement (.fcmpleF32 o) := ⟨_, rfl, rfl⟩
theorem Coding.fcmpleF64 (o : A3) : Coding.Statement (.fcmpleF64 o) := ⟨_, rfl, rfl⟩
theorem Coding.fcmpunF32 (o : A3) : Coding.Statement (.fcmpunF32 o) := ⟨_, rfl, rfl⟩
theorem Coding.fcmpunF64 (o : A3) : Coding.Statement (.fcmpunF64 o) := ⟨_, rfl, rfl⟩
theorem Coding.frndF32 (o : A3) : Coding.Statement (.frndF32 o) := ⟨_, rfl, rfl⟩
theorem Coding.frndF64 (o : A3) : Coding.Statement (.frndF64 o) := ⟨_, rfl, rfl⟩
theorem Coding.fclassF32 (o : A3) : Coding.Statement (.fclassF32 o) := ⟨_, rfl, rfl⟩
theorem Coding.fclassF64 (o : A3) : Coding.Statement (.fclassF64 o) := ⟨_, rfl, rfl⟩
theorem Coding.fdot4B8x4 (o : A3) : Coding.Statement (.fdot4B8x4 o) := ⟨_, rfl, rfl⟩
theorem Coding.fdot2H2 (o : A3) : Coding.Statement (.fdot2H2 o) := ⟨_, rfl, rfl⟩
theorem Coding.fdot2Bh2 (o : A3) : Coding.Statement (.fdot2Bh2 o) := ⟨_, rfl, rfl⟩
theorem Coding.frcpF32 (o : A3) : Coding.Statement (.frcpF32 o) := ⟨_, rfl, rfl⟩
theorem Coding.frcpF64 (o : A3) : Coding.Statement (.frcpF64 o) := ⟨_, rfl, rfl⟩
theorem Coding.frsqF32 (o : A3) : Coding.Statement (.frsqF32 o) := ⟨_, rfl, rfl⟩
theorem Coding.frsqF64 (o : A3) : Coding.Statement (.frsqF64 o) := ⟨_, rfl, rfl⟩
theorem Coding.fsqrtF32 (o : A3) : Coding.Statement (.fsqrtF32 o) := ⟨_, rfl, rfl⟩
theorem Coding.fsqrtF64 (o : A3) : Coding.Statement (.fsqrtF64 o) := ⟨_, rfl, rfl⟩
theorem Coding.fdivF32 (o : A3) : Coding.Statement (.fdivF32 o) := ⟨_, rfl, rfl⟩
theorem Coding.fdivF64 (o : A3) : Coding.Statement (.fdivF64 o) := ⟨_, rfl, rfl⟩
theorem Coding.fexp2F32 (o : A3) : Coding.Statement (.fexp2F32 o) := ⟨_, rfl, rfl⟩
theorem Coding.flog2F32 (o : A3) : Coding.Statement (.flog2F32 o) := ⟨_, rfl, rfl⟩
theorem Coding.fsinpF32 (o : A3) : Coding.Statement (.fsinpF32 o) := ⟨_, rfl, rfl⟩
theorem Coding.fcospF32 (o : A3) : Coding.Statement (.fcospF32 o) := ⟨_, rfl, rfl⟩
theorem Coding.cvtS32 (o : A3) : Coding.Statement (.cvtS32 o) := ⟨_, rfl, rfl⟩
theorem Coding.cvtN32 (o : A3) : Coding.Statement (.cvtN32 o) := ⟨_, rfl, rfl⟩
theorem Coding.cvtS64 (o : A3) : Coding.Statement (.cvtS64 o) := ⟨_, rfl, rfl⟩
theorem Coding.cvtN64 (o : A3) : Coding.Statement (.cvtN64 o) := ⟨_, rfl, rfl⟩
theorem Coding.cvtF64 (o : A3) : Coding.Statement (.cvtF64 o) := ⟨_, rfl, rfl⟩
theorem Coding.cvtF32 (o : A3) : Coding.Statement (.cvtF32 o) := ⟨_, rfl, rfl⟩
theorem Coding.cvtF16 (o : A3) : Coding.Statement (.cvtF16 o) := ⟨_, rfl, rfl⟩
theorem Coding.cvtBf16 (o : A3) : Coding.Statement (.cvtBf16 o) := ⟨_, rfl, rfl⟩
theorem Coding.cvtB8 (o : A3) : Coding.Statement (.cvtB8 o) := ⟨_, rfl, rfl⟩
theorem Coding.cvtsrB8 (o : A3) : Coding.Statement (.cvtsrB8 o) := ⟨_, rfl, rfl⟩
theorem Coding.cvtsrBf16 (o : A3) : Coding.Statement (.cvtsrBf16 o) := ⟨_, rfl, rfl⟩
theorem Coding.cvtsrF16 (o : A3) : Coding.Statement (.cvtsrF16 o) := ⟨_, rfl, rfl⟩
theorem Coding.vpackB8x4 (o : A3) : Coding.Statement (.vpackB8x4 o) := ⟨_, rfl, rfl⟩
theorem Coding.vpackH2 (o : A3) : Coding.Statement (.vpackH2 o) := ⟨_, rfl, rfl⟩
theorem Coding.vpackBh2 (o : A3) : Coding.Statement (.vpackBh2 o) := ⟨_, rfl, rfl⟩
theorem Coding.vunpkB8x4 (o : A3) : Coding.Statement (.vunpkB8x4 o) := ⟨_, rfl, rfl⟩
theorem Coding.vunpkH2 (o : A3) : Coding.Statement (.vunpkH2 o) := ⟨_, rfl, rfl⟩
theorem Coding.vunpkBh2 (o : A3) : Coding.Statement (.vunpkBh2 o) := ⟨_, rfl, rfl⟩
theorem Coding.vmovB32 (o : A3) : Coding.Statement (.vmovB32 o) := ⟨_, rfl, rfl⟩
theorem Coding.vmovB64 (o : A3) : Coding.Statement (.vmovB64 o) := ⟨_, rfl, rfl⟩
theorem Coding.vmovsB32 (o : A3) : Coding.Statement (.vmovsB32 o) := ⟨_, rfl, rfl⟩
theorem Coding.vmovsB64 (o : A3) : Coding.Statement (.vmovsB64 o) := ⟨_, rfl, rfl⟩
theorem Coding.vlane (o : A3) : Coding.Statement (.vlane o) := ⟨_, rfl, rfl⟩
theorem Coding.vldix (o : A3) : Coding.Statement (.vldix o) := ⟨_, rfl, rfl⟩
theorem Coding.vstix (o : A3) : Coding.Statement (.vstix o) := ⟨_, rfl, rfl⟩
theorem Coding.pand (o : A3) : Coding.Statement (.pand o) := ⟨_, rfl, rfl⟩
theorem Coding.por (o : A3) : Coding.Statement (.por o) := ⟨_, rfl, rfl⟩
theorem Coding.pxor (o : A3) : Coding.Statement (.pxor o) := ⟨_, rfl, rfl⟩
theorem Coding.pandn (o : A3) : Coding.Statement (.pandn o) := ⟨_, rfl, rfl⟩
theorem Coding.pmovv (o : A3) : Coding.Statement (.pmovv o) := ⟨_, rfl, rfl⟩
theorem Coding.vmovp (o : A3) : Coding.Statement (.vmovp o) := ⟨_, rfl, rfl⟩
theorem Coding.xperm (o : A3) : Coding.Statement (.xperm o) := ⟨_, rfl, rfl⟩
theorem Coding.xbcast (o : A3) : Coding.Statement (.xbcast o) := ⟨_, rfl, rfl⟩
theorem Coding.xswz (o : A3) : Coding.Statement (.xswz o) := ⟨_, rfl, rfl⟩
theorem Coding.xany (o : A3) : Coding.Statement (.xany o) := ⟨_, rfl, rfl⟩
theorem Coding.xall (o : A3) : Coding.Statement (.xall o) := ⟨_, rfl, rfl⟩
theorem Coding.xballot (o : A3) : Coding.Statement (.xballot o) := ⟨_, rfl, rfl⟩
theorem Coding.xredI32 (o : A3) : Coding.Statement (.xredI32 o) := ⟨_, rfl, rfl⟩
theorem Coding.xredF32 (o : A3) : Coding.Statement (.xredF32 o) := ⟨_, rfl, rfl⟩
theorem Coding.xredminS32 (o : A3) : Coding.Statement (.xredminS32 o) := ⟨_, rfl, rfl⟩
theorem Coding.xredminN32 (o : A3) : Coding.Statement (.xredminN32 o) := ⟨_, rfl, rfl⟩
theorem Coding.xredminF32 (o : A3) : Coding.Statement (.xredminF32 o) := ⟨_, rfl, rfl⟩
theorem Coding.xredmaxS32 (o : A3) : Coding.Statement (.xredmaxS32 o) := ⟨_, rfl, rfl⟩
theorem Coding.xredmaxN32 (o : A3) : Coding.Statement (.xredmaxN32 o) := ⟨_, rfl, rfl⟩
theorem Coding.xredmaxF32 (o : A3) : Coding.Statement (.xredmaxF32 o) := ⟨_, rfl, rfl⟩
theorem Coding.xscanI32 (o : A3) : Coding.Statement (.xscanI32 o) := ⟨_, rfl, rfl⟩
theorem Coding.xscanF32 (o : A3) : Coding.Statement (.xscanF32 o) := ⟨_, rfl, rfl⟩
theorem Coding.treord (o : A3) : Coding.Statement (.treord o) := ⟨_, rfl, rfl⟩
theorem Coding.rsvupd (o : A3) : Coding.Statement (.rsvupd o) := ⟨_, rfl, rfl⟩
theorem Coding.rsvmrg (o : A3) : Coding.Statement (.rsvmrg o) := ⟨_, rfl, rfl⟩
theorem Coding.ldB8 (o : A3) : Coding.Statement (.ldB8 o) := ⟨_, rfl, rfl⟩
theorem Coding.ldB16 (o : A3) : Coding.Statement (.ldB16 o) := ⟨_, rfl, rfl⟩
theorem Coding.ldB32 (o : A3) : Coding.Statement (.ldB32 o) := ⟨_, rfl, rfl⟩
theorem Coding.ldB64 (o : A3) : Coding.Statement (.ldB64 o) := ⟨_, rfl, rfl⟩
theorem Coding.ldB128 (o : A3) : Coding.Statement (.ldB128 o) := ⟨_, rfl, rfl⟩
theorem Coding.stB8 (o : A3) : Coding.Statement (.stB8 o) := ⟨_, rfl, rfl⟩
theorem Coding.stB16 (o : A3) : Coding.Statement (.stB16 o) := ⟨_, rfl, rfl⟩
theorem Coding.stB32 (o : A3) : Coding.Statement (.stB32 o) := ⟨_, rfl, rfl⟩
theorem Coding.stB64 (o : A3) : Coding.Statement (.stB64 o) := ⟨_, rfl, rfl⟩
theorem Coding.stB128 (o : A3) : Coding.Statement (.stB128 o) := ⟨_, rfl, rfl⟩
theorem Coding.ldvB32 (o : A3) : Coding.Statement (.ldvB32 o) := ⟨_, rfl, rfl⟩
theorem Coding.ldvB64 (o : A3) : Coding.Statement (.ldvB64 o) := ⟨_, rfl, rfl⟩
theorem Coding.ldvB128 (o : A3) : Coding.Statement (.ldvB128 o) := ⟨_, rfl, rfl⟩
theorem Coding.stvB32 (o : A3) : Coding.Statement (.stvB32 o) := ⟨_, rfl, rfl⟩
theorem Coding.stvB64 (o : A3) : Coding.Statement (.stvB64 o) := ⟨_, rfl, rfl⟩
theorem Coding.stvB128 (o : A3) : Coding.Statement (.stvB128 o) := ⟨_, rfl, rfl⟩
theorem Coding.ldgsB32 (o : A3) : Coding.Statement (.ldgsB32 o) := ⟨_, rfl, rfl⟩
theorem Coding.ldgsB64 (o : A3) : Coding.Statement (.ldgsB64 o) := ⟨_, rfl, rfl⟩
theorem Coding.ldgsB128 (o : A3) : Coding.Statement (.ldgsB128 o) := ⟨_, rfl, rfl⟩
theorem Coding.stgsB32 (o : A3) : Coding.Statement (.stgsB32 o) := ⟨_, rfl, rfl⟩
theorem Coding.stgsB64 (o : A3) : Coding.Statement (.stgsB64 o) := ⟨_, rfl, rfl⟩
theorem Coding.stgsB128 (o : A3) : Coding.Statement (.stgsB128 o) := ⟨_, rfl, rfl⟩
theorem Coding.sldB32 (o : A3) : Coding.Statement (.sldB32 o) := ⟨_, rfl, rfl⟩
theorem Coding.sldB64 (o : A3) : Coding.Statement (.sldB64 o) := ⟨_, rfl, rfl⟩
theorem Coding.sstB32 (o : A3) : Coding.Statement (.sstB32 o) := ⟨_, rfl, rfl⟩
theorem Coding.sstB64 (o : A3) : Coding.Statement (.sstB64 o) := ⟨_, rfl, rfl⟩
theorem Coding.ldaB32 (o : AtomOp) : Coding.Statement (.ldaB32 o) := ⟨_, rfl, rfl⟩
theorem Coding.ldaB64 (o : AtomOp) : Coding.Statement (.ldaB64 o) := ⟨_, rfl, rfl⟩
theorem Coding.stlB32 (o : AtomOp) : Coding.Statement (.stlB32 o) := ⟨_, rfl, rfl⟩
theorem Coding.stlB64 (o : AtomOp) : Coding.Statement (.stlB64 o) := ⟨_, rfl, rfl⟩
theorem Coding.ldroB32 (o : A3) : Coding.Statement (.ldroB32 o) := ⟨_, rfl, rfl⟩
theorem Coding.ldroB64 (o : A3) : Coding.Statement (.ldroB64 o) := ⟨_, rfl, rfl⟩
theorem Coding.ldroB128 (o : A3) : Coding.Statement (.ldroB128 o) := ⟨_, rfl, rfl⟩
theorem Coding.pref (o : A3) : Coding.Statement (.pref o) := ⟨_, rfl, rfl⟩
theorem Coding.qinit (o : A3) : Coding.Statement (.qinit o) := ⟨_, rfl, rfl⟩
theorem Coding.qcommit (o : A3) : Coding.Statement (.qcommit o) := ⟨_, rfl, rfl⟩
theorem Coding.qpop (o : A3) : Coding.Statement (.qpop o) := ⟨_, rfl, rfl⟩
theorem Coding.wbind (o : A3) : Coding.Statement (.wbind o) := ⟨_, rfl, rfl⟩
theorem Coding.wstart (o : A3) : Coding.Statement (.wstart o) := ⟨_, rfl, rfl⟩
theorem Coding.wstop (o : A3) : Coding.Statement (.wstop o) := ⟨_, rfl, rfl⟩
theorem Coding.cpy (o : A3) : Coding.Statement (.cpy o) := ⟨_, rfl, rfl⟩
theorem Coding.cpyy (o : A3) : Coding.Statement (.cpyy o) := ⟨_, rfl, rfl⟩
theorem Coding.lock (o : A3) : Coding.Statement (.lock o) := ⟨_, rfl, rfl⟩
theorem Coding.unlock (o : A3) : Coding.Statement (.unlock o) := ⟨_, rfl, rfl⟩
theorem Coding.cflush (o : A3) : Coding.Statement (.cflush o) := ⟨_, rfl, rfl⟩
theorem Coding.cinvro (o : A3) : Coding.Statement (.cinvro o) := ⟨_, rfl, rfl⟩
theorem Coding.tld (o : A3) : Coding.Statement (.tld o) := ⟨_, rfl, rfl⟩
theorem Coding.tst (o : A3) : Coding.Statement (.tst o) := ⟨_, rfl, rfl⟩
theorem Coding.tzero (o : A3) : Coding.Statement (.tzero o) := ⟨_, rfl, rfl⟩
theorem Coding.tmma (o : A3) : Coding.Statement (.tmma o) := ⟨_, rfl, rfl⟩
theorem Coding.tmmaq (o : A3) : Coding.Statement (.tmmaq o) := ⟨_, rfl, rfl⟩
theorem Coding.tmmav (o : A3) : Coding.Statement (.tmmav o) := ⟨_, rfl, rfl⟩
theorem Coding.tchain (o : A3) : Coding.Statement (.tchain o) := ⟨_, rfl, rfl⟩
theorem Coding.tcvt (o : A3) : Coding.Statement (.tcvt o) := ⟨_, rfl, rfl⟩
theorem Coding.ttov (o : A3) : Coding.Statement (.ttov o) := ⟨_, rfl, rfl⟩
theorem Coding.vtot (o : A3) : Coding.Statement (.vtot o) := ⟨_, rfl, rfl⟩
theorem Coding.cbload (o : A3) : Coding.Statement (.cbload o) := ⟨_, rfl, rfl⟩
theorem Coding.seal (o : A3) : Coding.Statement (.seal o) := ⟨_, rfl, rfl⟩
theorem Coding.rpin (o : A3) : Coding.Statement (.rpin o) := ⟨_, rfl, rfl⟩
theorem Coding.runpin (o : A3) : Coding.Statement (.runpin o) := ⟨_, rfl, rfl⟩
theorem Coding.rdrop (o : A3) : Coding.Statement (.rdrop o) := ⟨_, rfl, rfl⟩
theorem Coding.rstat (o : A3) : Coding.Statement (.rstat o) := ⟨_, rfl, rfl⟩
theorem Coding.rdone (o : A3) : Coding.Statement (.rdone o) := ⟨_, rfl, rfl⟩
theorem Coding.atomaddI32 (o : AtomOp) : Coding.Statement (.atomaddI32 o) := ⟨_, rfl, rfl⟩
theorem Coding.atomaddI64 (o : AtomOp) : Coding.Statement (.atomaddI64 o) := ⟨_, rfl, rfl⟩
theorem Coding.atomaddF32 (o : AtomOp) : Coding.Statement (.atomaddF32 o) := ⟨_, rfl, rfl⟩
theorem Coding.atomminS32 (o : AtomOp) : Coding.Statement (.atomminS32 o) := ⟨_, rfl, rfl⟩
theorem Coding.atomminN32 (o : AtomOp) : Coding.Statement (.atomminN32 o) := ⟨_, rfl, rfl⟩
theorem Coding.atommaxS32 (o : AtomOp) : Coding.Statement (.atommaxS32 o) := ⟨_, rfl, rfl⟩
theorem Coding.atommaxN32 (o : AtomOp) : Coding.Statement (.atommaxN32 o) := ⟨_, rfl, rfl⟩
theorem Coding.atomandB32 (o : AtomOp) : Coding.Statement (.atomandB32 o) := ⟨_, rfl, rfl⟩
theorem Coding.atomorB32 (o : AtomOp) : Coding.Statement (.atomorB32 o) := ⟨_, rfl, rfl⟩
theorem Coding.atomxorB32 (o : AtomOp) : Coding.Statement (.atomxorB32 o) := ⟨_, rfl, rfl⟩
theorem Coding.atomxchgB32 (o : AtomOp) : Coding.Statement (.atomxchgB32 o) := ⟨_, rfl, rfl⟩
theorem Coding.atomxchgB64 (o : AtomOp) : Coding.Statement (.atomxchgB64 o) := ⟨_, rfl, rfl⟩
theorem Coding.atomcasB32 (o : AtomOp) : Coding.Statement (.atomcasB32 o) := ⟨_, rfl, rfl⟩
theorem Coding.atomcasB64 (o : AtomOp) : Coding.Statement (.atomcasB64 o) := ⟨_, rfl, rfl⟩
theorem Coding.fence (o : AtomOp) : Coding.Statement (.fence o) := ⟨_, rfl, rfl⟩
theorem Coding.fencero (o : AtomOp) : Coding.Statement (.fencero o) := ⟨_, rfl, rfl⟩
theorem Coding.tlsig (o : AtomOp) : Coding.Statement (.tlsig o) := ⟨_, rfl, rfl⟩
theorem Coding.tlwait (o : AtomOp) : Coding.Statement (.tlwait o) := ⟨_, rfl, rfl⟩
theorem Coding.tlread (o : A3) : Coding.Statement (.tlread o) := ⟨_, rfl, rfl⟩
theorem Coding.bararv (o : A3) : Coding.Statement (.bararv o) := ⟨_, rfl, rfl⟩
theorem Coding.barwt (o : A3) : Coding.Statement (.barwt o) := ⟨_, rfl, rfl⟩
theorem Coding.bufacq (o : A3) : Coding.Statement (.bufacq o) := ⟨_, rfl, rfl⟩
theorem Coding.bufrel (o : A3) : Coding.Statement (.bufrel o) := ⟨_, rfl, rfl⟩
theorem Coding.wqpush (o : A3) : Coding.Statement (.wqpush o) := ⟨_, rfl, rfl⟩
theorem Coding.launch (o : A3) : Coding.Statement (.launch o) := ⟨_, rfl, rfl⟩
theorem Coding.rayq (o : A3) : Coding.Statement (.rayq o) := ⟨_, rfl, rfl⟩
theorem Coding.rayqd (o : A3) : Coding.Statement (.rayqd o) := ⟨_, rfl, rfl⟩
theorem Coding.raycand (o : A3) : Coding.Statement (.raycand o) := ⟨_, rfl, rfl⟩
theorem Coding.rayacc (o : A3) : Coding.Statement (.rayacc o) := ⟨_, rfl, rfl⟩
theorem Coding.rayfin (o : A3) : Coding.Statement (.rayfin o) := ⟨_, rfl, rfl⟩
theorem Coding.splatq (o : A3) : Coding.Statement (.splatq o) := ⟨_, rfl, rfl⟩
theorem Coding.splatrun (o : A3) : Coding.Statement (.splatrun o) := ⟨_, rfl, rfl⟩
theorem Coding.sample (o : A3) : Coding.Statement (.sample o) := ⟨_, rfl, rfl⟩
theorem Coding.sampleg (o : A3) : Coding.Statement (.sampleg o) := ⟨_, rfl, rfl⟩
theorem Coding.samplel (o : A3) : Coding.Statement (.samplel o) := ⟨_, rfl, rfl⟩
theorem Coding.coll (o : A3) : Coding.Statement (.coll o) := ⟨_, rfl, rfl⟩
theorem Coding.belvNop (x : BitVec 24) : Coding.Statement (.belvNop x) := rfl
theorem Coding.gadd (o : BrOp) : Coding.Statement (.gadd o) := ⟨_, rfl, rfl⟩
theorem Coding.gsub (o : BrOp) : Coding.Statement (.gsub o) := ⟨_, rfl, rfl⟩
theorem Coding.gmul (o : BrOp) : Coding.Statement (.gmul o) := ⟨_, rfl, rfl⟩
theorem Coding.gand (o : BrOp) : Coding.Statement (.gand o) := ⟨_, rfl, rfl⟩
theorem Coding.gor (o : BrOp) : Coding.Statement (.gor o) := ⟨_, rfl, rfl⟩
theorem Coding.gxor (o : BrOp) : Coding.Statement (.gxor o) := ⟨_, rfl, rfl⟩
theorem Coding.gshl (o : BrOp) : Coding.Statement (.gshl o) := ⟨_, rfl, rfl⟩
theorem Coding.gshr (o : BrOp) : Coding.Statement (.gshr o) := ⟨_, rfl, rfl⟩
theorem Coding.gcmplt (o : BrOp) : Coding.Statement (.gcmplt o) := ⟨_, rfl, rfl⟩
theorem Coding.gcmpeq (o : BrOp) : Coding.Statement (.gcmpeq o) := ⟨_, rfl, rfl⟩
theorem Coding.gmovi (o : BiOp) : Coding.Statement (.gmovi o) := ⟨_, .inl rfl, rfl⟩
theorem Coding.belvBr (o : BiOp) : Coding.Statement (.belvBr o) := ⟨_, .inr rfl, rfl⟩
theorem Coding.brf (o : BiOp) : Coding.Statement (.brf o) := ⟨_, .inr rfl, rfl⟩
theorem Coding.belvLoop (o : BlOp) : Coding.Statement (.belvLoop o) := ⟨_, rfl, rfl⟩
theorem Coding.waittk (o : BrOp) : Coding.Statement (.waittk o) := ⟨_, rfl, rfl⟩
theorem Coding.pose (o : BrOp) : Coding.Statement (.pose o) := ⟨_, rfl, rfl⟩
theorem Coding.bend (o : BrOp) : Coding.Statement (.bend o) := ⟨_, rfl, rfl⟩
theorem Coding.padd (o : BrOp) : Coding.Statement (.padd o) := ⟨_, rfl, rfl⟩
theorem Coding.psub (o : BrOp) : Coding.Statement (.psub o) := ⟨_, rfl, rfl⟩
theorem Coding.pmul (o : BrOp) : Coding.Statement (.pmul o) := ⟨_, rfl, rfl⟩
theorem Coding.pfma (o : BrOp) : Coding.Statement (.pfma o) := ⟨_, rfl, rfl⟩
theorem Coding.pmin (o : BrOp) : Coding.Statement (.pmin o) := ⟨_, rfl, rfl⟩
theorem Coding.pmax (o : BrOp) : Coding.Statement (.pmax o) := ⟨_, rfl, rfl⟩
theorem Coding.pcmplt (o : BrOp) : Coding.Statement (.pcmplt o) := ⟨_, rfl, rfl⟩
theorem Coding.psel (o : BrOp) : Coding.Statement (.psel o) := ⟨_, rfl, rfl⟩
theorem Coding.pcvt (o : BrOp) : Coding.Statement (.pcvt o) := ⟨_, rfl, rfl⟩
theorem Coding.plerp (o : BrOp) : Coding.Statement (.plerp o) := ⟨_, rfl, rfl⟩
theorem Coding.prcp (o : BrOp) : Coding.Statement (.prcp o) := ⟨_, rfl, rfl⟩
theorem Coding.prsq (o : BrOp) : Coding.Statement (.prsq o) := ⟨_, rfl, rfl⟩
theorem Coding.plane (o : BrOp) : Coding.Statement (.plane o) := ⟨_, rfl, rfl⟩
theorem Coding.pmovg (o : BrOp) : Coding.Statement (.pmovg o) := ⟨_, rfl, rfl⟩
theorem Coding.pxform (o : BrOp) : Coding.Statement (.pxform o) := ⟨_, rfl, rfl⟩
theorem Coding.lld (o : BrOp) : Coding.Statement (.lld o) := ⟨_, rfl, rfl⟩
theorem Coding.lst (o : BrOp) : Coding.Statement (.lst o) := ⟨_, rfl, rfl⟩
theorem Coding.xfetch (o : BrOp) : Coding.Statement (.xfetch o) := ⟨_, rfl, rfl⟩
theorem Coding.gather (o : BrOp) : Coding.Statement (.gather o) := ⟨_, rfl, rfl⟩
theorem Coding.warps (o : BrOp) : Coding.Statement (.warps o) := ⟨_, rfl, rfl⟩
theorem Coding.mld (o : BrOp) : Coding.Statement (.mld o) := ⟨_, rfl, rfl⟩
theorem Coding.mst (o : BrOp) : Coding.Statement (.mst o) := ⟨_, rfl, rfl⟩
theorem Coding.mmul (o : BrOp) : Coding.Statement (.mmul o) := ⟨_, rfl, rfl⟩
theorem Coding.mconv (o : BrOp) : Coding.Statement (.mconv o) := ⟨_, rfl, rfl⟩
theorem Coding.emit (o : BrOp) : Coding.Statement (.emit o) := ⟨_, rfl, rfl⟩
theorem Coding.fbwait (o : BrOp) : Coding.Statement (.fbwait o) := ⟨_, rfl, rfl⟩
theorem Coding.fallbk (o : BrOp) : Coding.Statement (.fallbk o) := ⟨_, rfl, rfl⟩
theorem Coding.powerLoss : Coding.Statement (.powerLoss) := trivial

end Sys2Proof.Laws
end

