-- ==== Sys2Proof/Laws/Reads.lean ====
section
/-!
SUPPORT. What the shared read and write operations of per-lane accesses do: what they leave in caches, the bytes a lane
sees, the registers a load fills and the stores an operation withholds.
-/

namespace Sys2Proof.Machine

/-- Only caches and the read times of recipe tiles differ. -/
structure ReadFrame (s t : State) : Prop where
  whole : t = { s with parts := t.parts, ms := { s.ms with l0 := t.ms.l0, l1 := t.ms.l1, walks := t.ms.walks, l2 := t.ms.l2, sampler := t.ms.sampler } }
  parts : ∀ p, t.part p = { s.part p with rtiles := (t.part p).rtiles }
  tiles : ∀ p n, (t.part p).rtile n = { (s.part p).rtile n with readAt := ((t.part p).rtile n).readAt }

theorem ReadFrame.refl (s : State) : ReadFrame s s := ⟨rfl, fun _ => rfl, fun _ _ => rfl⟩

theorem ReadFrame.trans {a b c : State} (h : ReadFrame a b) (g : ReadFrame b c) : ReadFrame a c := by
  refine ⟨?_, fun p => ?_, fun p n => ?_⟩
  · rw [g.whole, h.whole]
  · rw [g.parts, h.parts]
  · rw [g.tiles, h.tiles]

theorem ReadFrame.note (s : State) (c : Ctx) (va : Word) : ReadFrame s (s.noteXlate c va) := by
  unfold State.noteXlate; dsimp only
  split
  · exact ReadFrame.refl _
  · split
    · exact ReadFrame.refl _
    · exact ⟨rfl, fun _ => rfl, fun _ _ => rfl⟩

theorem ReadFrame.l2 (s : State) (l : Loc) : ReadFrame s (s.fillL2 l) := by
  unfold State.fillL2
  split
  · split
    · exact ReadFrame.refl _
    · exact ⟨rfl, fun _ => rfl, fun _ _ => rfl⟩
  · exact ReadFrame.refl _

theorem part_modPart_same (s : State) (p : Nat) (f : Part → Part) : (s.modPart p f).part p = f (s.part p) := tget_tset_same _ _ _ _

theorem part_modPart_ne (s : State) (p q : Nat) (f : Part → Part) (h : q ≠ p) : (s.modPart p f).part q = s.part q := tget_tset_ne _ _ _ _ _ h

theorem ReadFrame.read (s : State) (p : Nat) (l : Loc) : ReadFrame s (s.noteRead p l) := by
  unfold State.noteRead
  split
  · rename_i n off
    unfold State.modTile
    refine ⟨rfl, fun q => ?_, fun q m => ?_⟩
    · by_cases h : q = p
      · subst h; rw [part_modPart_same]
      · rw [part_modPart_ne _ _ _ _ h]
    · by_cases h : q = p
      · subst h; rw [part_modPart_same]
        by_cases hm : m = n
        · subst hm; simp [Part.rtile, tget_tset_same]
        · simp [Part.rtile, tget_tset_ne _ _ _ _ _ hm]
      · rw [part_modPart_ne _ _ _ _ h]
  · exact ReadFrame.refl _

theorem ReadFrame.lanes (l : List (Nat × LaneAt)) : ∀ s : State, ReadFrame s (s.noteLanes l) := by
  induction l with
  | nil => intro s; exact ReadFrame.refl s
  | cons a r ih =>
    intro s
    refine ReadFrame.trans ?_ (ih _)
    dsimp only
    split
    · exact ReadFrame.refl _
    · split
      · exact ReadFrame.note _ _ _
      · exact (ReadFrame.note _ _ _).trans ((ReadFrame.l2 _ _).trans (ReadFrame.read _ _ _))

theorem note_sampler (s : State) (c : Ctx) (va : Word) : (s.noteXlate c va).ms.sampler = s.ms.sampler := by
  unfold State.noteXlate; dsimp only
  split
  · rfl
  · split <;> rfl

theorem l2_sampler (s : State) (l : Loc) : (s.fillL2 l).ms.sampler = s.ms.sampler := by
  unfold State.fillL2
  split
  · split <;> rfl
  · rfl

theorem read_sampler (s : State) (p : Nat) (l : Loc) : (s.noteRead p l).ms.sampler = s.ms.sampler := by
  unfold State.noteRead
  split <;> rfl

theorem lanes_sampler (l : List (Nat × LaneAt)) : ∀ s : State, (s.noteLanes l).ms.sampler = s.ms.sampler := by
  induction l with
  | nil => intro s; rfl
  | cons a r ih =>
    intro s
    show (State.noteLanes _ r).ms.sampler = _
    rw [ih]
    dsimp only
    split
    · rfl
    · split
      · exact note_sampler _ _ _
      · rw [read_sampler, l2_sampler, note_sampler]

theorem ReadFrame.teams {s t : State} (h : ReadFrame s t) : t.teams = s.teams := by rw [h.whole]

theorem ReadFrame.issue {s t : State} (h : ReadFrame s t) : t.issue = s.issue := by rw [h.whole]

theorem ReadFrame.me {s t : State} (h : ReadFrame s t) : t.me = s.me := by
  unfold State.me State.team; rw [h.teams, h.issue]

theorem ReadFrame.frame {s t : State} (h : ReadFrame s t) (y : Team) : s.OnlyMeRead (t.setMe y) ∧ (t.setMe y).me = y ∧ (t.setMe y).ms = t.ms := by
  have e := State.me_setMe t y
  refine ⟨⟨?_, fun p => h.parts p, fun p n => h.tiles p n, ⟨fun pa => ?_, fun g a => ?_, fun p n off => ?_⟩⟩, e, rfl⟩
  · rw [e]
    have ht := h.teams
    have hi := h.issue
    show { t with teams := tset t.teams t.issue.team y } = _
    rw [ht, hi]
    conv => lhs; rw [h.whole]
    rfl
  · show Memory.read t.ms.mem pa = Memory.read s.ms.mem pa
    rw [h.whole]
  · show Memory.read (t.gang g).store a = Memory.read (s.gang g).store a
    unfold State.gang; rw [h.whole]
  · show Memory.read ((t.part p).rtile n).bytes off = _
    rw [h.tiles]; rfl

theorem fm_congr {β : Type} (f g : Nat → Option β) : ∀ ls : List Nat, (∀ l ∈ ls, f l = g l) → ls.filterMap f = ls.filterMap g := by
  intro ls
  induction ls with
  | nil => intro _; rfl
  | cons a r ih =>
    intro h
    rw [List.filterMap_cons, List.filterMap_cons, h a (by simp), ih fun l hl => h l (by simp [hl])]

theorem checkLanes_ok {α : Type} (f : Nat → Except Failure α) (a : Nat → α) (ls : List Nat) (h : ∀ l ∈ ls, f l = .ok (a l)) :
    checkLanes ls f = .ok (ls.map fun l => (l, a l)) := by
  unfold checkLanes
  dsimp only
  rw [fm_congr _ (fun _ => none) ls (by intro l hl; rw [h l hl])]
  rw [fm_congr _ (fun l => some (l, a l)) ls (by intro l hl; rw [h l hl])]
  have : ls.filterMap (fun _ => (none : Option (Nat × Failure))) = [] := by simp
  rw [this]; simp

theorem forward_len (st : List HeldStore) (l : Loc) : ∀ (b : List Byte) (k : Nat), (forward st l k b).length = b.length := by
  intro b
  induction b with
  | nil => intro k; rfl
  | cons x r ih => intro k; simp [forward, ih]

theorem forward_cov (st : List HeldStore) (l : Loc) : ∀ (b c : List Byte) (k : Nat), b.length = c.length →
    (∀ j, k ≤ j → j < k + b.length → st.any (fun h => (h.byteAt (l.plus j)).isSome) = true) → forward st l k b = forward st l k c := by
  intro b
  induction b with
  | nil => intro c k h _; cases c with
    | nil => rfl
    | cons => simp at h
  | cons x r ih =>
    intro c k h hc
    cases c with
    | nil => simp at h
    | cons y q =>
      have hk := hc k (Nat.le_refl _) (by simp)
      have : ∃ v, (st.reverse.findSome? fun h => h.byteAt (l.plus k)) = some v := by
        rw [← Option.isSome_iff_exists, List.findSome?_isSome_iff]
        simp only [List.any_eq_true] at hk
        obtain ⟨z, hz, h2⟩ := hk
        exact ⟨z, by simpa using hz, h2⟩
      obtain ⟨v, hv⟩ := this
      simp only [forward, hv, Option.getD_some]
      rw [ih q (k+1) (by simpa using h) (fun j h1 h2 => hc j (by omega) (by simp; omega))]

theorem readBytes_len (m : Memory) : ∀ (n a : Nat), (Memory.readBytes m a n).length = n := by
  intro n; induction n with
  | zero => intro a; rfl
  | succ n ih => intro a; simp [Memory.readBytes, ih]

theorem readLoc_len (s : State) (p g : Nat) (l : Loc) (n : Nat) : (s.readLoc p g l n).length = n := by
  cases l <;> exact readBytes_len _ _ _

theorem readFor_len (s : State) (c : Ctx) (g : Nat) (l : Loc) (n : Nat) : (s.readFor c g l n).length = n := by
  unfold State.readFor
  split
  · split
    · exact readBytes_len _ _ _
    · exact readLoc_len _ _ _ _ _
  · exact readLoc_len _ _ _ _ _

theorem cov_iff (st : List HeldStore) (l : Loc) (n : Nat) (h : covered st l n = true) (j : Nat) (hj : j < n) :
  st.any (fun h => (h.byteAt (l.plus j)).isSome) = true := by
  unfold covered at h
  rw [List.all_eq_true] at h
  exact h j (by simpa using hj)

/-- The lane of an access as its read leaves it. -/
def readAs (s : State) (a : LaneAt) (n : Nat) : LaneAt :=
  if covered s.ownStores (s.homeLoc a.loc) n then { a with served := true } else a

theorem readAs_loc (s : State) (a n) : (readAs s a n).loc = a.loc := by unfold readAs; split <;> rfl

theorem laneRead_ok (s : State) (own : Bool) (a : LaneAt) (n : Nat) (h : s.ReadsAtOnce a.loc n) :
    s.laneRead own (.ok a) n = .ok (if own then readAs s a n else a) := by
  unfold State.laneRead readAs
  dsimp only
  by_cases hc : (own && covered s.ownStores (s.homeLoc a.loc) n) = true
  · simp only [hc, if_true]
    simp only [Bool.and_eq_true] at hc
    simp [hc.1, hc.2]
  · rw [if_neg hc]
    have e : (if own = true then (if covered s.ownStores (s.homeLoc a.loc) n = true then { a with served := true } else a) else a) = a := by
      cases own
      · rfl
      · simp at hc; simp [hc]
    rw [e]
    unfold State.ReadsAtOnce at h
    split
    · rename_i t off ht
      rw [ht] at h
      dsimp only at h
      simp [h.1, h.2, ht]
    · rename_i pa ht
      rw [ht] at h
      dsimp only at h
      simp [h.1, h.2]
    · rename_i b ht
      rw [ht] at h
      dsimp only at h
      simp [h, ht]

theorem remote_false (s : State) (l : Loc) (n : Nat) (h : s.ReadsAtOnce l n) : s.isRemote l = false := by
  cases l with
  | phys pa key =>
    unfold State.ReadsAtOnce at h
    have : ∃ q k, s.homeLoc (.phys pa key) = .phys q k := by
      unfold State.homeLoc; dsimp only; split <;> exact ⟨_, _, rfl⟩
    obtain ⟨q, k, hq⟩ := this
    rw [hq] at h
    exact h.1
  | _ => rfl

theorem missing_none (s : State) (l : List (Nat × LaneAt)) (n : Nat) (h : ∀ x ∈ l, s.ReadsAtOnce x.2.loc n) : s.missingTile l = none := by
  unfold State.missingTile
  rw [List.findSome?_eq_none_iff]
  intro x hx
  have := h x hx
  split
  · rename_i t off ht
    rw [ht] at this
    unfold State.ReadsAtOnce State.homeLoc at this
    dsimp only at this
    rw [this.1]
    have : ((Except.ok true : Except Failure Bool).toOption == some false) = false := rfl
    simp [this]
  · rfl

theorem remoteLoad_ok (s : State) (l : List (Nat × LaneAt)) (n : Nat) (h : ∀ x ∈ l, s.isRemote x.2.loc = false) : s.remoteLoad l n = .ok := by
  unfold State.remoteLoad
  have : l.filter (fun x => s.isRemote x.2.loc && !x.2.served) = [] := by
    rw [List.filter_eq_nil_iff]; intro x hx; simp [h x hx]
  dsimp only
  rw [this]; rfl

theorem laneBytes_eq (s : State) (a : LaneAt) (n : Nat) (h : s.ReadsAtOnce a.loc n) (hs : a.served = false) :
    s.laneBytes (readAs s a n) n = s.seenAt a.loc n := by
  have hr := remote_false s _ _ h
  unfold State.laneBytes readAs State.seenAt
  by_cases hc : covered s.ownStores (s.homeLoc a.loc) n = true
  · rw [if_pos hc]
    simp only [if_true]
    refine forward_cov _ _ _ _ 0 (by rw [readFor_len]; simp) fun j _ hj => cov_iff _ _ n hc j (by simpa using hj)
  · rw [if_neg hc]
    simp only [hs, hr, Bool.false_eq_true, if_false, State.seeLoc]

theorem laneRes_map {α : Type} (d : α) (ls : List Nat) (f : Nat → α) (l : Nat) (h : l ∈ ls) : laneRes d (ls.map fun l => (l, f l)) l = f l := by
  unfold laneRes
  induction ls with
  | nil => simp at h
  | cons a r ih =>
    by_cases e : a = l
    · subst e; simp
    · have : l ∈ r := by
        rcases List.mem_cons.1 h with h | h
        · exact absurd h.symm e
        · exact h
      simpa [List.find?_cons, e] using ih this

theorem virt_served (s : State) (k va n a) (h : s.laneVirtual k va n = .ok a) : a.served = false := by
  unfold State.laneVirtual at h
  dsimp only at h
  split at h
  · cases h
  · split at h
    · cases h
    · cases h; rfl

theorem gang_served (s : State) (va n a) (h : s.laneGang va n = .ok a) : a.served = false := by
  unfold State.laneGang at h
  split at h <;> cases h; rfl

/-- The registers after the writes of several registers. -/
def regsFold (s : State) (d : Nat) (m : LaneMask) (f : Nat → Nat → Lane) (js : List Nat) (r : Regs) : Regs :=
  js.foldl (fun r j => s.regPut (d + j) m (f j) r) r

theorem foldl_modRegs (s : State) (d : Nat) (m : LaneMask) (f : Nat → Nat → Lane) : ∀ (js : List Nat) (g : Regs → Regs),
    js.foldl (fun x j => x.putReg (d + j) m (f j)) (s.modRegs g) = s.modRegs fun r => regsFold s d m f js (g r) := by
  intro js
  induction js with
  | nil => intro g; rfl
  | cons j r ih =>
    intro g
    rw [List.foldl_cons, State.putReg_modRegs, ih]; rfl

theorem regsFold_v (s : State) (d m f) : ∀ (js : List Nat) (r : Regs), regsFold s d m f js r = { r with v := (regsFold s d m f js r).v } := by
  intro js
  induction js with
  | nil => intro r; rfl
  | cons j q ih =>
    intro r
    have := ih (s.regPut (d + j) m (f j) r)
    show regsFold s d m f q (s.regPut (d + j) m (f j) r) = _
    rw [this]; rfl

theorem regsFold_out (s : State) (d m f) (x : Nat) : ∀ (js : List Nat) (r : Regs), (∀ j ∈ js, x ≠ d + j) →
    (regsFold s d m f js r).vreg x = r.vreg x := by
  intro js
  induction js with
  | nil => intro r _; rfl
  | cons j q ih =>
    intro r h
    show (regsFold s d m f q _).vreg x = _
    rw [ih _ fun k hk => h k (by simp [hk]), State.vreg_regPut_ne _ _ _ _ _ _ (h j (by simp))]

theorem regsFold_in (s : State) (d m f) (l : Nat) (hl : l < s.me.lanes) : ∀ (js : List Nat) (r : Regs), js.Nodup → ∀ j ∈ js,
    (regsFold s d m f js r).vget (d + j) l = if m.getLsbD l && !(s.keptLanes (d + j)).getLsbD l then f j l else r.vget (d + j) l := by
  intro js
  induction js with
  | nil => intro r _ j hj; simp at hj
  | cons k q ih =>
    intro r hn j hj
    rw [List.nodup_cons] at hn
    show (regsFold s d m f q (s.regPut (d + k) m (f k) r)).vget _ _ = _
    rcases List.mem_cons.1 hj with rfl | hj
    · have : (regsFold s d m f q (s.regPut (d + j) m (f j) r)).vget (d + j) l = (s.regPut (d + j) m (f j) r).vget (d + j) l := by
        unfold Regs.vget
        rw [regsFold_out]
        intro k hk e
        have : j = k := by omega
        subst this; exact hn.1 hk
      rw [this, State.vget_regPut _ _ _ _ _ _ hl]
    · rw [ih _ hn.2 j hj]
      have : (s.regPut (d + k) m (f k) r).vget (d + j) l = r.vget (d + j) l := by
        unfold Regs.vget
        rw [State.vreg_regPut_ne]
        intro e
        have : j = k := by omega
        rw [← this] at hn; exact hn.1 hj
      rw [this]

theorem bytesNat_take (f : List Byte) (h : f.length ≤ 4) : fieldAt f 0 4 = bytesNat f := by
  unfold fieldAt; simp [List.take_of_length_le h]

/-- What the registers hold after the data of a load went into them. -/
theorem putData_takes (s : State) (d : BitVec 8) (n : Nat) (hn : 0 < n) (m : LaneMask) (f : Nat → List Byte)
    (hf : ∀ l, m.getLsbD l = true → l < s.me.lanes → (f l).length = n) :
    ∃ T : Team, s.putData d n m f = s.setMe T ∧ T = { s.me with regs := T.regs, held := T.held } ∧
      ∀ t : State, t.me.regs = T.regs → t.me.held = T.held → s.TakesData t d n m f := by
  unfold State.putData State.TakesData
  by_cases h4 : n ≤ 4
  · simp only [h4, if_true, true_and]
    unfold State.putV
    by_cases hp : isPort d = true
    · simp only [hp, if_true]
      exact ⟨_, rfl, rfl, fun t h1 h2 => ⟨h1, h2⟩⟩
    · simp only [hp]
      rw [State.putReg_eq]
      refine ⟨_, rfl, rfl, fun t h1 h2 => ⟨h2, ?_, ?_⟩⟩
      · have hr : regsOf n = 1 := by unfold regsOf; omega
        rw [h1, hr]
        exact Regs.vput_onlyV _ _ _ _ _
      · intro j hj
        have hr : regsOf n = 1 := by unfold regsOf; omega
        have : j = 0 := by omega
        subst this
        intro l hl
        rw [h1]
        show (s.regPut d.toNat m _ s.me.regs).vget _ _ = _
        rw [Nat.add_zero, State.vget_regPut _ _ _ _ _ _ hl]
        by_cases hm : m.getLsbD l = true
        · have := bytesNat_take (f l) (by rw [hf l hm hl]; exact h4)
          simp only [Nat.mul_zero, this]
        · simp [hm]
  · simp only [h4, false_and, if_false]
    obtain ⟨j0, js, he⟩ : ∃ j0 js, List.range (regsOf n) = j0 :: js := by
      cases hr : List.range (regsOf n) with
      | nil => have : regsOf n = 0 := by simpa using hr
               unfold regsOf at this; omega
      | cons a b => exact ⟨a, b, rfl⟩
    have nd : (List.range (regsOf n)).Nodup := List.nodup_range
    rw [he, List.foldl_cons, State.putReg_eq, foldl_modRegs s d.toNat m (fun j l => BitVec.ofNat 32 (fieldAt (f l) (4 * j) 4))]
    have eq : ∀ r, regsFold s d.toNat m (fun j l => BitVec.ofNat 32 (fieldAt (f l) (4 * j) 4)) js (s.regPut (d.toNat + j0) m (fun l => BitVec.ofNat 32 (fieldAt (f l) (4 * j0) 4)) r) =
       regsFold s d.toNat m (fun j l => BitVec.ofNat 32 (fieldAt (f l) (4 * j) 4)) (List.range (regsOf n)) r := by intro r; rw [he]; rfl
    refine ⟨_, rfl, rfl, fun t h1 h2 => ⟨h2, ⟨?_, ?_⟩, ?_⟩⟩
    · rw [h1]; dsimp only; rw [eq]; exact regsFold_v _ _ _ _ _ _
    · intro j hj
      rw [h1]; dsimp only; rw [eq, regsFold_out]
      intro k hk e
      rw [← he] at hj
      apply hj
      simp only [List.mem_map]; exact ⟨k, hk, e.symm⟩
    · intro j hj l hl
      rw [h1]; dsimp only; rw [eq, regsFold_in _ _ _ _ _ hl _ _ nd j (by simpa using hj)]

theorem active_mem (s : State) (m : LaneMask) (l : Nat) : l ∈ s.active m ↔ l < s.me.lanes ∧ m.getLsbD l = true := by
  unfold State.active lanesOf; simp

theorem loadAt_ok (s : State) (d : BitVec 8) (n : Nat) (hn : 0 < n) (m : LaneMask) (a : Nat → LaneAt)
    (h : ∀ l ∈ s.active m, s.ReadsAtOnce (a l).loc n ∧ (a l).served = false) :
    let t := s.loadAt d n m ((s.active m).map fun l => (l, readAs s (a l) n))
    s.OnlyMeRead t ∧ t.ms.sampler = s.ms.sampler ∧
      t.me = { s.me.marked s.issue.slot with regs := t.me.regs, held := t.me.held } ∧
      s.TakesData t d n m fun l => s.seenAt (a l).loc n := by
  intro t
  have hm : s.missingTile ((s.active m).map fun l => (l, readAs s (a l) n)) = none := by
    apply missing_none s _ n
    intro x hx
    simp only [List.mem_map] at hx
    obtain ⟨l, hl, rfl⟩ := hx
    simp only [readAs_loc]; exact (h l hl).1
  have hr : s.remoteLoad ((s.active m).map fun l => (l, readAs s (a l) n)) n = .ok := by
    apply remoteLoad_ok
    intro x hx
    simp only [List.mem_map] at hx
    obtain ⟨l, hl, rfl⟩ := hx
    simp only [readAs_loc]; exact remote_false s _ n (h l hl).1
  let g : Nat → List Byte := fun l => s.seenAt (a l).loc n
  have hg : ∀ l ∈ s.active m, laneRes [] (((s.active m).map fun l => (l, readAs s (a l) n)).map fun x => (x.1, s.laneBytes x.2 n)) l = g l := by
    intro l hl
    rw [List.map_map]
    show laneRes [] ((s.active m).map fun l => (l, s.laneBytes (readAs s (a l) n) n)) l = _
    rw [laneRes_map _ _ _ _ hl, laneBytes_eq s _ n (h l hl).1 (h l hl).2]
  have ht : t = (((s.putData d n m (laneRes [] (((s.active m).map fun l => (l, readAs s (a l) n)).map fun x => (x.1, s.laneBytes x.2 n)))).noteLanes
      ((s.active m).map fun l => (l, readAs s (a l) n)))).fin := by
    show s.loadAt _ _ _ _ = _
    unfold State.loadAt
    rw [hm, hr]
  obtain ⟨T, e1, e2, e3⟩ := putData_takes s d n hn m (laneRes [] (((s.active m).map fun l => (l, readAs s (a l) n)).map fun x => (x.1, s.laneBytes x.2 n)))
    (by intro l h1 h2
        have hl : l ∈ s.active m := (active_mem s m l).2 ⟨h2, h1⟩
        rw [hg l hl]
        show (forward _ _ _ _).length = n
        rw [forward_len, readFor_len])
  rw [e1] at ht
  have rf := ReadFrame.lanes ((s.active m).map fun l => (l, readAs s (a l) n)) (s.setMe T)
  have hs := lanes_sampler ((s.active m).map fun l => (l, readAs s (a l) n)) (s.setMe T)
  have hme := rf.me
  rw [State.me_setMe] at hme
  have hi := rf.issue
  generalize (s.setMe T).noteLanes ((s.active m).map fun l => (l, readAs s (a l) n)) = y at rf hs hme hi ht
  have hfin : t = y.setMe ((T).marked s.issue.slot) := by
    rw [ht, State.fin_eq, hme, hi]; rfl
  have fr := rf.frame ((T).marked s.issue.slot)
  rw [← hfin] at fr
  obtain ⟨f1, f2, f3⟩ := fr
  have T2 : t.me = { s.me.marked s.issue.slot with regs := t.me.regs, held := t.me.held } := by
    rw [f2]
    conv => lhs; rw [e2]
    rfl
  refine ⟨⟨?_, f1.parts, f1.tiles, ⟨f1.memory.phys, f1.memory.gang, f1.memory.tile⟩⟩, by rw [f3, hs]; rfl, T2, ?_⟩
  · refine f1.whole.trans ?_
    have : tset (s.setMe T).teams (s.setMe T).issue.team t.me = tset s.teams s.issue.team t.me := tset_tset _ _ _ _
    rw [this]; rfl
  · have := e3 t (by rw [f2]; rfl) (by rw [f2]; rfl)
    unfold State.TakesData at this ⊢
    split
    · rename_i hc
      rw [if_pos hc] at this
      refine ⟨this.1, this.2.trans ?_⟩
      congr 1
      unfold State.portStores
      dsimp only
      congr 1
      apply List.map_congr_left
      intro l hl
      rw [List.mem_filter] at hl
      rw [hg l hl.1]
    · rename_i hc
      rw [if_neg hc] at this
      refine ⟨this.1, this.2.1, fun j hj l hl => ?_⟩
      rw [this.2.2 j hj l hl]
      by_cases hm : m.getLsbD l = true
      · dsimp only; rw [hg l ((active_mem s m l).2 ⟨hl, hm⟩)]
      · simp [hm]

theorem latest_nil (x : Loc) : latest [] x = none := rfl

theorem latest_append (a b : List HeldStore) (x : Loc) : latest (a ++ b) x = (latest b x).or (latest a x) := by
  unfold latest; simp [List.findSome?_append]

theorem latest_cons (h : HeldStore) (b : List HeldStore) (x : Loc) : latest (h :: b) x = (latest b x).or (h.byteAt x) := by
  have := latest_append [h] b x
  simpa [latest, List.findSome?] using this

theorem byteAt_join (a b : HeldStore) (x : Loc) (va : Word) (k : Bool) (key : BitVec 12) (n : Nat)
    (h : a.loc.plus a.data.length = b.loc) :
    (⟨a.loc, va, a.data ++ b.data, k, key, n⟩ : HeldStore).byteAt x = (b.byteAt x).or (a.byteAt x) := by
  obtain ⟨la, va', da, ka, ya⟩ := a
  obtain ⟨lb, vb', db, kb, yb⟩ := b
  dsimp only at h ⊢
  subst h
  cases la <;> cases x <;> simp only [HeldStore.byteAt, Loc.plus, Option.or] 
  all_goals
    rename_i p q
    simp only [List.getElem?_append]
    grind

theorem latest_join : ∀ (l : List HeldStore) (x : Loc), latest (joinStores l) x = latest l x := by
  intro l
  induction l with
  | nil => intro x; rfl
  | cons a r ih =>
    intro x
    rw [latest_cons, ← ih]
    rw [joinStores.eq_2]
    split
    · rename_i b q hb
      rw [hb]
      split
      · rename_i hc
        rw [latest_cons, latest_cons, byteAt_join a b x _ _ _ _ hc.1]
        cases latest q x <;> simp
      · rw [latest_cons a]
    · rename_i hb
      rw [hb]; rw [latest_cons]

end Sys2Proof.Machine
end

