-- ==== Sys2Proof/Laws/State.lean ====
section
/-!
SUPPORT. One lemma for each field of the state under each of its updates.
-/

namespace Sys2Proof.Machine

/-! ### setTeam -/

@[simp] theorem State.setTeam_cycle (s : State) (u : Nat) (t : Team) : (s.setTeam u t).cycle = s.cycle := rfl
@[simp] theorem State.setTeam_agenda (s : State) (u : Nat) (t : Team) : (s.setTeam u t).agenda = s.agenda := rfl
@[simp] theorem State.setTeam_issue (s : State) (u : Nat) (t : Team) : (s.setTeam u t).issue = s.issue := rfl
@[simp] theorem State.setTeam_free (s : State) (u : Nat) (t : Team) : (s.setTeam u t).free = s.free := rfl
@[simp] theorem State.setTeam_uids (s : State) (u : Nat) (t : Team) : (s.setTeam u t).uids = s.uids := rfl
@[simp] theorem State.setTeam_gangs (s : State) (u : Nat) (t : Team) : (s.setTeam u t).gangs = s.gangs := rfl
@[simp] theorem State.setTeam_launches (s : State) (u : Nat) (t : Team) : (s.setTeam u t).launches = s.launches := rfl
@[simp] theorem State.setTeam_queues (s : State) (u : Nat) (t : Team) : (s.setTeam u t).queues = s.queues := rfl
@[simp] theorem State.setTeam_parts (s : State) (u : Nat) (t : Team) : (s.setTeam u t).parts = s.parts := rfl
@[simp] theorem State.setTeam_cores (s : State) (u : Nat) (t : Team) : (s.setTeam u t).cores = s.cores := rfl
@[simp] theorem State.setTeam_ms (s : State) (u : Nat) (t : Team) : (s.setTeam u t).ms = s.ms := rfl
@[simp] theorem State.setTeam_rays (s : State) (u : Nat) (t : Team) : (s.setTeam u t).rays = s.rays := rfl
@[simp] theorem State.setTeam_splats (s : State) (u : Nat) (t : Team) : (s.setTeam u t).splats = s.splats := rfl
@[simp] theorem State.setTeam_lineCores (s : State) (u : Nat) (t : Team) : (s.setTeam u t).lineCores = s.lineCores := rfl
@[simp] theorem State.setTeam_heads (s : State) (u : Nat) (t : Team) : (s.setTeam u t).heads = s.heads := rfl
@[simp] theorem State.setTeam_trace (s : State) (u : Nat) (t : Team) : (s.setTeam u t).trace = s.trace := rfl
@[simp] theorem State.setTeam_mgmt (s : State) (u : Nat) (t : Team) : (s.setTeam u t).mgmt = s.mgmt := rfl
@[simp] theorem State.setTeam_dev (s : State) (u : Nat) (t : Team) : (s.setTeam u t).dev = s.dev := rfl

/-! ### modTeam -/

@[simp] theorem State.modTeam_cycle (s : State) (u : Nat) (f : Team → Team) : (s.modTeam u f).cycle = s.cycle := rfl
@[simp] theorem State.modTeam_agenda (s : State) (u : Nat) (f : Team → Team) : (s.modTeam u f).agenda = s.agenda := rfl
@[simp] theorem State.modTeam_issue (s : State) (u : Nat) (f : Team → Team) : (s.modTeam u f).issue = s.issue := rfl
@[simp] theorem State.modTeam_free (s : State) (u : Nat) (f : Team → Team) : (s.modTeam u f).free = s.free := rfl
@[simp] theorem State.modTeam_uids (s : State) (u : Nat) (f : Team → Team) : (s.modTeam u f).uids = s.uids := rfl
@[simp] theorem State.modTeam_gangs (s : State) (u : Nat) (f : Team → Team) : (s.modTeam u f).gangs = s.gangs := rfl
@[simp] theorem State.modTeam_launches (s : State) (u : Nat) (f : Team → Team) : (s.modTeam u f).launches = s.launches := rfl
@[simp] theorem State.modTeam_queues (s : State) (u : Nat) (f : Team → Team) : (s.modTeam u f).queues = s.queues := rfl
@[simp] theorem State.modTeam_parts (s : State) (u : Nat) (f : Team → Team) : (s.modTeam u f).parts = s.parts := rfl
@[simp] theorem State.modTeam_cores (s : State) (u : Nat) (f : Team → Team) : (s.modTeam u f).cores = s.cores := rfl
@[simp] theorem State.modTeam_ms (s : State) (u : Nat) (f : Team → Team) : (s.modTeam u f).ms = s.ms := rfl
@[simp] theorem State.modTeam_rays (s : State) (u : Nat) (f : Team → Team) : (s.modTeam u f).rays = s.rays := rfl
@[simp] theorem State.modTeam_splats (s : State) (u : Nat) (f : Team → Team) : (s.modTeam u f).splats = s.splats := rfl
@[simp] theorem State.modTeam_lineCores (s : State) (u : Nat) (f : Team → Team) : (s.modTeam u f).lineCores = s.lineCores := rfl
@[simp] theorem State.modTeam_heads (s : State) (u : Nat) (f : Team → Team) : (s.modTeam u f).heads = s.heads := rfl
@[simp] theorem State.modTeam_trace (s : State) (u : Nat) (f : Team → Team) : (s.modTeam u f).trace = s.trace := rfl
@[simp] theorem State.modTeam_mgmt (s : State) (u : Nat) (f : Team → Team) : (s.modTeam u f).mgmt = s.mgmt := rfl
@[simp] theorem State.modTeam_dev (s : State) (u : Nat) (f : Team → Team) : (s.modTeam u f).dev = s.dev := rfl

/-! ### setGang -/

@[simp] theorem State.setGang_cycle (s : State) (g : Nat) (x : Gang) : (s.setGang g x).cycle = s.cycle := rfl
@[simp] theorem State.setGang_agenda (s : State) (g : Nat) (x : Gang) : (s.setGang g x).agenda = s.agenda := rfl
@[simp] theorem State.setGang_issue (s : State) (g : Nat) (x : Gang) : (s.setGang g x).issue = s.issue := rfl
@[simp] theorem State.setGang_free (s : State) (g : Nat) (x : Gang) : (s.setGang g x).free = s.free := rfl
@[simp] theorem State.setGang_uids (s : State) (g : Nat) (x : Gang) : (s.setGang g x).uids = s.uids := rfl
@[simp] theorem State.setGang_teams (s : State) (g : Nat) (x : Gang) : (s.setGang g x).teams = s.teams := rfl
@[simp] theorem State.setGang_launches (s : State) (g : Nat) (x : Gang) : (s.setGang g x).launches = s.launches := rfl
@[simp] theorem State.setGang_queues (s : State) (g : Nat) (x : Gang) : (s.setGang g x).queues = s.queues := rfl
@[simp] theorem State.setGang_parts (s : State) (g : Nat) (x : Gang) : (s.setGang g x).parts = s.parts := rfl
@[simp] theorem State.setGang_cores (s : State) (g : Nat) (x : Gang) : (s.setGang g x).cores = s.cores := rfl
@[simp] theorem State.setGang_ms (s : State) (g : Nat) (x : Gang) : (s.setGang g x).ms = s.ms := rfl
@[simp] theorem State.setGang_rays (s : State) (g : Nat) (x : Gang) : (s.setGang g x).rays = s.rays := rfl
@[simp] theorem State.setGang_splats (s : State) (g : Nat) (x : Gang) : (s.setGang g x).splats = s.splats := rfl
@[simp] theorem State.setGang_lineCores (s : State) (g : Nat) (x : Gang) : (s.setGang g x).lineCores = s.lineCores := rfl
@[simp] theorem State.setGang_heads (s : State) (g : Nat) (x : Gang) : (s.setGang g x).heads = s.heads := rfl
@[simp] theorem State.setGang_trace (s : State) (g : Nat) (x : Gang) : (s.setGang g x).trace = s.trace := rfl
@[simp] theorem State.setGang_mgmt (s : State) (g : Nat) (x : Gang) : (s.setGang g x).mgmt = s.mgmt := rfl
@[simp] theorem State.setGang_dev (s : State) (g : Nat) (x : Gang) : (s.setGang g x).dev = s.dev := rfl

/-! ### modGang -/

@[simp] theorem State.modGang_cycle (s : State) (g : Nat) (f : Gang → Gang) : (s.modGang g f).cycle = s.cycle := rfl
@[simp] theorem State.modGang_agenda (s : State) (g : Nat) (f : Gang → Gang) : (s.modGang g f).agenda = s.agenda := rfl
@[simp] theorem State.modGang_issue (s : State) (g : Nat) (f : Gang → Gang) : (s.modGang g f).issue = s.issue := rfl
@[simp] theorem State.modGang_free (s : State) (g : Nat) (f : Gang → Gang) : (s.modGang g f).free = s.free := rfl
@[simp] theorem State.modGang_uids (s : State) (g : Nat) (f : Gang → Gang) : (s.modGang g f).uids = s.uids := rfl
@[simp] theorem State.modGang_teams (s : State) (g : Nat) (f : Gang → Gang) : (s.modGang g f).teams = s.teams := rfl
@[simp] theorem State.modGang_launches (s : State) (g : Nat) (f : Gang → Gang) : (s.modGang g f).launches = s.launches := rfl
@[simp] theorem State.modGang_queues (s : State) (g : Nat) (f : Gang → Gang) : (s.modGang g f).queues = s.queues := rfl
@[simp] theorem State.modGang_parts (s : State) (g : Nat) (f : Gang → Gang) : (s.modGang g f).parts = s.parts := rfl
@[simp] theorem State.modGang_cores (s : State) (g : Nat) (f : Gang → Gang) : (s.modGang g f).cores = s.cores := rfl
@[simp] theorem State.modGang_ms (s : State) (g : Nat) (f : Gang → Gang) : (s.modGang g f).ms = s.ms := rfl
@[simp] theorem State.modGang_rays (s : State) (g : Nat) (f : Gang → Gang) : (s.modGang g f).rays = s.rays := rfl
@[simp] theorem State.modGang_splats (s : State) (g : Nat) (f : Gang → Gang) : (s.modGang g f).splats = s.splats := rfl
@[simp] theorem State.modGang_lineCores (s : State) (g : Nat) (f : Gang → Gang) : (s.modGang g f).lineCores = s.lineCores := rfl
@[simp] theorem State.modGang_heads (s : State) (g : Nat) (f : Gang → Gang) : (s.modGang g f).heads = s.heads := rfl
@[simp] theorem State.modGang_trace (s : State) (g : Nat) (f : Gang → Gang) : (s.modGang g f).trace = s.trace := rfl
@[simp] theorem State.modGang_mgmt (s : State) (g : Nat) (f : Gang → Gang) : (s.modGang g f).mgmt = s.mgmt := rfl
@[simp] theorem State.modGang_dev (s : State) (g : Nat) (f : Gang → Gang) : (s.modGang g f).dev = s.dev := rfl

/-! ### modPart -/

@[simp] theorem State.modPart_cycle (s : State) (p : Nat) (f : Part → Part) : (s.modPart p f).cycle = s.cycle := rfl
@[simp] theorem State.modPart_agenda (s : State) (p : Nat) (f : Part → Part) : (s.modPart p f).agenda = s.agenda := rfl
@[simp] theorem State.modPart_issue (s : State) (p : Nat) (f : Part → Part) : (s.modPart p f).issue = s.issue := rfl
@[simp] theorem State.modPart_free (s : State) (p : Nat) (f : Part → Part) : (s.modPart p f).free = s.free := rfl
@[simp] theorem State.modPart_uids (s : State) (p : Nat) (f : Part → Part) : (s.modPart p f).uids = s.uids := rfl
@[simp] theorem State.modPart_teams (s : State) (p : Nat) (f : Part → Part) : (s.modPart p f).teams = s.teams := rfl
@[simp] theorem State.modPart_gangs (s : State) (p : Nat) (f : Part → Part) : (s.modPart p f).gangs = s.gangs := rfl
@[simp] theorem State.modPart_launches (s : State) (p : Nat) (f : Part → Part) : (s.modPart p f).launches = s.launches := rfl
@[simp] theorem State.modPart_queues (s : State) (p : Nat) (f : Part → Part) : (s.modPart p f).queues = s.queues := rfl
@[simp] theorem State.modPart_cores (s : State) (p : Nat) (f : Part → Part) : (s.modPart p f).cores = s.cores := rfl
@[simp] theorem State.modPart_ms (s : State) (p : Nat) (f : Part → Part) : (s.modPart p f).ms = s.ms := rfl
@[simp] theorem State.modPart_rays (s : State) (p : Nat) (f : Part → Part) : (s.modPart p f).rays = s.rays := rfl
@[simp] theorem State.modPart_splats (s : State) (p : Nat) (f : Part → Part) : (s.modPart p f).splats = s.splats := rfl
@[simp] theorem State.modPart_lineCores (s : State) (p : Nat) (f : Part → Part) : (s.modPart p f).lineCores = s.lineCores := rfl
@[simp] theorem State.modPart_heads (s : State) (p : Nat) (f : Part → Part) : (s.modPart p f).heads = s.heads := rfl
@[simp] theorem State.modPart_trace (s : State) (p : Nat) (f : Part → Part) : (s.modPart p f).trace = s.trace := rfl
@[simp] theorem State.modPart_mgmt (s : State) (p : Nat) (f : Part → Part) : (s.modPart p f).mgmt = s.mgmt := rfl
@[simp] theorem State.modPart_dev (s : State) (p : Nat) (f : Part → Part) : (s.modPart p f).dev = s.dev := rfl

/-! ### modCore -/

@[simp] theorem State.modCore_cycle (s : State) (n : Nat) (f : Core → Core) : (s.modCore n f).cycle = s.cycle := rfl
@[simp] theorem State.modCore_agenda (s : State) (n : Nat) (f : Core → Core) : (s.modCore n f).agenda = s.agenda := rfl
@[simp] theorem State.modCore_issue (s : State) (n : Nat) (f : Core → Core) : (s.modCore n f).issue = s.issue := rfl
@[simp] theorem State.modCore_free (s : State) (n : Nat) (f : Core → Core) : (s.modCore n f).free = s.free := rfl
@[simp] theorem State.modCore_uids (s : State) (n : Nat) (f : Core → Core) : (s.modCore n f).uids = s.uids := rfl
@[simp] theorem State.modCore_teams (s : State) (n : Nat) (f : Core → Core) : (s.modCore n f).teams = s.teams := rfl
@[simp] theorem State.modCore_gangs (s : State) (n : Nat) (f : Core → Core) : (s.modCore n f).gangs = s.gangs := rfl
@[simp] theorem State.modCore_launches (s : State) (n : Nat) (f : Core → Core) : (s.modCore n f).launches = s.launches := rfl
@[simp] theorem State.modCore_queues (s : State) (n : Nat) (f : Core → Core) : (s.modCore n f).queues = s.queues := rfl
@[simp] theorem State.modCore_parts (s : State) (n : Nat) (f : Core → Core) : (s.modCore n f).parts = s.parts := rfl
@[simp] theorem State.modCore_ms (s : State) (n : Nat) (f : Core → Core) : (s.modCore n f).ms = s.ms := rfl
@[simp] theorem State.modCore_rays (s : State) (n : Nat) (f : Core → Core) : (s.modCore n f).rays = s.rays := rfl
@[simp] theorem State.modCore_splats (s : State) (n : Nat) (f : Core → Core) : (s.modCore n f).splats = s.splats := rfl
@[simp] theorem State.modCore_lineCores (s : State) (n : Nat) (f : Core → Core) : (s.modCore n f).lineCores = s.lineCores := rfl
@[simp] theorem State.modCore_heads (s : State) (n : Nat) (f : Core → Core) : (s.modCore n f).heads = s.heads := rfl
@[simp] theorem State.modCore_trace (s : State) (n : Nat) (f : Core → Core) : (s.modCore n f).trace = s.trace := rfl
@[simp] theorem State.modCore_mgmt (s : State) (n : Nat) (f : Core → Core) : (s.modCore n f).mgmt = s.mgmt := rfl
@[simp] theorem State.modCore_dev (s : State) (n : Nat) (f : Core → Core) : (s.modCore n f).dev = s.dev := rfl

/-! ### modQueue -/

@[simp] theorem State.modQueue_cycle (s : State) (q : Nat) (f : Queue → Queue) : (s.modQueue q f).cycle = s.cycle := rfl
@[simp] theorem State.modQueue_agenda (s : State) (q : Nat) (f : Queue → Queue) : (s.modQueue q f).agenda = s.agenda := rfl
@[simp] theorem State.modQueue_issue (s : State) (q : Nat) (f : Queue → Queue) : (s.modQueue q f).issue = s.issue := rfl
@[simp] theorem State.modQueue_free (s : State) (q : Nat) (f : Queue → Queue) : (s.modQueue q f).free = s.free := rfl
@[simp] theorem State.modQueue_uids (s : State) (q : Nat) (f : Queue → Queue) : (s.modQueue q f).uids = s.uids := rfl
@[simp] theorem State.modQueue_teams (s : State) (q : Nat) (f : Queue → Queue) : (s.modQueue q f).teams = s.teams := rfl
@[simp] theorem State.modQueue_gangs (s : State) (q : Nat) (f : Queue → Queue) : (s.modQueue q f).gangs = s.gangs := rfl
@[simp] theorem State.modQueue_launches (s : State) (q : Nat) (f : Queue → Queue) : (s.modQueue q f).launches = s.launches := rfl
@[simp] theorem State.modQueue_parts (s : State) (q : Nat) (f : Queue → Queue) : (s.modQueue q f).parts = s.parts := rfl
@[simp] theorem State.modQueue_cores (s : State) (q : Nat) (f : Queue → Queue) : (s.modQueue q f).cores = s.cores := rfl
@[simp] theorem State.modQueue_ms (s : State) (q : Nat) (f : Queue → Queue) : (s.modQueue q f).ms = s.ms := rfl
@[simp] theorem State.modQueue_rays (s : State) (q : Nat) (f : Queue → Queue) : (s.modQueue q f).rays = s.rays := rfl
@[simp] theorem State.modQueue_splats (s : State) (q : Nat) (f : Queue → Queue) : (s.modQueue q f).splats = s.splats := rfl
@[simp] theorem State.modQueue_lineCores (s : State) (q : Nat) (f : Queue → Queue) : (s.modQueue q f).lineCores = s.lineCores := rfl
@[simp] theorem State.modQueue_heads (s : State) (q : Nat) (f : Queue → Queue) : (s.modQueue q f).heads = s.heads := rfl
@[simp] theorem State.modQueue_trace (s : State) (q : Nat) (f : Queue → Queue) : (s.modQueue q f).trace = s.trace := rfl
@[simp] theorem State.modQueue_mgmt (s : State) (q : Nat) (f : Queue → Queue) : (s.modQueue q f).mgmt = s.mgmt := rfl
@[simp] theorem State.modQueue_dev (s : State) (q : Nat) (f : Queue → Queue) : (s.modQueue q f).dev = s.dev := rfl

/-! ### modLaunch -/

@[simp] theorem State.modLaunch_cycle (s : State) (l : Nat) (f : Launch → Launch) : (s.modLaunch l f).cycle = s.cycle := rfl
@[simp] theorem State.modLaunch_agenda (s : State) (l : Nat) (f : Launch → Launch) : (s.modLaunch l f).agenda = s.agenda := rfl
@[simp] theorem State.modLaunch_issue (s : State) (l : Nat) (f : Launch → Launch) : (s.modLaunch l f).issue = s.issue := rfl
@[simp] theorem State.modLaunch_free (s : State) (l : Nat) (f : Launch → Launch) : (s.modLaunch l f).free = s.free := rfl
@[simp] theorem State.modLaunch_uids (s : State) (l : Nat) (f : Launch → Launch) : (s.modLaunch l f).uids = s.uids := rfl
@[simp] theorem State.modLaunch_teams (s : State) (l : Nat) (f : Launch → Launch) : (s.modLaunch l f).teams = s.teams := rfl
@[simp] theorem State.modLaunch_gangs (s : State) (l : Nat) (f : Launch → Launch) : (s.modLaunch l f).gangs = s.gangs := rfl
@[simp] theorem State.modLaunch_queues (s : State) (l : Nat) (f : Launch → Launch) : (s.modLaunch l f).queues = s.queues := rfl
@[simp] theorem State.modLaunch_parts (s : State) (l : Nat) (f : Launch → Launch) : (s.modLaunch l f).parts = s.parts := rfl
@[simp] theorem State.modLaunch_cores (s : State) (l : Nat) (f : Launch → Launch) : (s.modLaunch l f).cores = s.cores := rfl
@[simp] theorem State.modLaunch_ms (s : State) (l : Nat) (f : Launch → Launch) : (s.modLaunch l f).ms = s.ms := rfl
@[simp] theorem State.modLaunch_rays (s : State) (l : Nat) (f : Launch → Launch) : (s.modLaunch l f).rays = s.rays := rfl
@[simp] theorem State.modLaunch_splats (s : State) (l : Nat) (f : Launch → Launch) : (s.modLaunch l f).splats = s.splats := rfl
@[simp] theorem State.modLaunch_lineCores (s : State) (l : Nat) (f : Launch → Launch) : (s.modLaunch l f).lineCores = s.lineCores := rfl
@[simp] theorem State.modLaunch_heads (s : State) (l : Nat) (f : Launch → Launch) : (s.modLaunch l f).heads = s.heads := rfl
@[simp] theorem State.modLaunch_trace (s : State) (l : Nat) (f : Launch → Launch) : (s.modLaunch l f).trace = s.trace := rfl
@[simp] theorem State.modLaunch_mgmt (s : State) (l : Nat) (f : Launch → Launch) : (s.modLaunch l f).mgmt = s.mgmt := rfl
@[simp] theorem State.modLaunch_dev (s : State) (l : Nat) (f : Launch → Launch) : (s.modLaunch l f).dev = s.dev := rfl

/-! ### modHead -/

@[simp] theorem State.modHead_cycle (s : State) (h : Nat) (f : Head → Head) : (s.modHead h f).cycle = s.cycle := rfl
@[simp] theorem State.modHead_agenda (s : State) (h : Nat) (f : Head → Head) : (s.modHead h f).agenda = s.agenda := rfl
@[simp] theorem State.modHead_issue (s : State) (h : Nat) (f : Head → Head) : (s.modHead h f).issue = s.issue := rfl
@[simp] theorem State.modHead_free (s : State) (h : Nat) (f : Head → Head) : (s.modHead h f).free = s.free := rfl
@[simp] theorem State.modHead_uids (s : State) (h : Nat) (f : Head → Head) : (s.modHead h f).uids = s.uids := rfl
@[simp] theorem State.modHead_teams (s : State) (h : Nat) (f : Head → Head) : (s.modHead h f).teams = s.teams := rfl
@[simp] theorem State.modHead_gangs (s : State) (h : Nat) (f : Head → Head) : (s.modHead h f).gangs = s.gangs := rfl
@[simp] theorem State.modHead_launches (s : State) (h : Nat) (f : Head → Head) : (s.modHead h f).launches = s.launches := rfl
@[simp] theorem State.modHead_queues (s : State) (h : Nat) (f : Head → Head) : (s.modHead h f).queues = s.queues := rfl
@[simp] theorem State.modHead_parts (s : State) (h : Nat) (f : Head → Head) : (s.modHead h f).parts = s.parts := rfl
@[simp] theorem State.modHead_cores (s : State) (h : Nat) (f : Head → Head) : (s.modHead h f).cores = s.cores := rfl
@[simp] theorem State.modHead_ms (s : State) (h : Nat) (f : Head → Head) : (s.modHead h f).ms = s.ms := rfl
@[simp] theorem State.modHead_rays (s : State) (h : Nat) (f : Head → Head) : (s.modHead h f).rays = s.rays := rfl
@[simp] theorem State.modHead_splats (s : State) (h : Nat) (f : Head → Head) : (s.modHead h f).splats = s.splats := rfl
@[simp] theorem State.modHead_lineCores (s : State) (h : Nat) (f : Head → Head) : (s.modHead h f).lineCores = s.lineCores := rfl
@[simp] theorem State.modHead_trace (s : State) (h : Nat) (f : Head → Head) : (s.modHead h f).trace = s.trace := rfl
@[simp] theorem State.modHead_mgmt (s : State) (h : Nat) (f : Head → Head) : (s.modHead h f).mgmt = s.mgmt := rfl
@[simp] theorem State.modHead_dev (s : State) (h : Nat) (f : Head → Head) : (s.modHead h f).dev = s.dev := rfl

/-! ### modLineCore -/

@[simp] theorem State.modLineCore_cycle (s : State) (n : Nat) (f : LineCore → LineCore) : (s.modLineCore n f).cycle = s.cycle := rfl
@[simp] theorem State.modLineCore_agenda (s : State) (n : Nat) (f : LineCore → LineCore) : (s.modLineCore n f).agenda = s.agenda := rfl
@[simp] theorem State.modLineCore_issue (s : State) (n : Nat) (f : LineCore → LineCore) : (s.modLineCore n f).issue = s.issue := rfl
@[simp] theorem State.modLineCore_free (s : State) (n : Nat) (f : LineCore → LineCore) : (s.modLineCore n f).free = s.free := rfl
@[simp] theorem State.modLineCore_uids (s : State) (n : Nat) (f : LineCore → LineCore) : (s.modLineCore n f).uids = s.uids := rfl
@[simp] theorem State.modLineCore_teams (s : State) (n : Nat) (f : LineCore → LineCore) : (s.modLineCore n f).teams = s.teams := rfl
@[simp] theorem State.modLineCore_gangs (s : State) (n : Nat) (f : LineCore → LineCore) : (s.modLineCore n f).gangs = s.gangs := rfl
@[simp] theorem State.modLineCore_launches (s : State) (n : Nat) (f : LineCore → LineCore) : (s.modLineCore n f).launches = s.launches := rfl
@[simp] theorem State.modLineCore_queues (s : State) (n : Nat) (f : LineCore → LineCore) : (s.modLineCore n f).queues = s.queues := rfl
@[simp] theorem State.modLineCore_parts (s : State) (n : Nat) (f : LineCore → LineCore) : (s.modLineCore n f).parts = s.parts := rfl
@[simp] theorem State.modLineCore_cores (s : State) (n : Nat) (f : LineCore → LineCore) : (s.modLineCore n f).cores = s.cores := rfl
@[simp] theorem State.modLineCore_ms (s : State) (n : Nat) (f : LineCore → LineCore) : (s.modLineCore n f).ms = s.ms := rfl
@[simp] theorem State.modLineCore_rays (s : State) (n : Nat) (f : LineCore → LineCore) : (s.modLineCore n f).rays = s.rays := rfl
@[simp] theorem State.modLineCore_splats (s : State) (n : Nat) (f : LineCore → LineCore) : (s.modLineCore n f).splats = s.splats := rfl
@[simp] theorem State.modLineCore_heads (s : State) (n : Nat) (f : LineCore → LineCore) : (s.modLineCore n f).heads = s.heads := rfl
@[simp] theorem State.modLineCore_trace (s : State) (n : Nat) (f : LineCore → LineCore) : (s.modLineCore n f).trace = s.trace := rfl
@[simp] theorem State.modLineCore_mgmt (s : State) (n : Nat) (f : LineCore → LineCore) : (s.modLineCore n f).mgmt = s.mgmt := rfl
@[simp] theorem State.modLineCore_dev (s : State) (n : Nat) (f : LineCore → LineCore) : (s.modLineCore n f).dev = s.dev := rfl

/-! ### setMe -/

@[simp] theorem State.setMe_cycle (s : State) (t : Team) : (s.setMe t).cycle = s.cycle := rfl
@[simp] theorem State.setMe_agenda (s : State) (t : Team) : (s.setMe t).agenda = s.agenda := rfl
@[simp] theorem State.setMe_issue (s : State) (t : Team) : (s.setMe t).issue = s.issue := rfl
@[simp] theorem State.setMe_free (s : State) (t : Team) : (s.setMe t).free = s.free := rfl
@[simp] theorem State.setMe_uids (s : State) (t : Team) : (s.setMe t).uids = s.uids := rfl
@[simp] theorem State.setMe_gangs (s : State) (t : Team) : (s.setMe t).gangs = s.gangs := rfl
@[simp] theorem State.setMe_launches (s : State) (t : Team) : (s.setMe t).launches = s.launches := rfl
@[simp] theorem State.setMe_queues (s : State) (t : Team) : (s.setMe t).queues = s.queues := rfl
@[simp] theorem State.setMe_parts (s : State) (t : Team) : (s.setMe t).parts = s.parts := rfl
@[simp] theorem State.setMe_cores (s : State) (t : Team) : (s.setMe t).cores = s.cores := rfl
@[simp] theorem State.setMe_ms (s : State) (t : Team) : (s.setMe t).ms = s.ms := rfl
@[simp] theorem State.setMe_rays (s : State) (t : Team) : (s.setMe t).rays = s.rays := rfl
@[simp] theorem State.setMe_splats (s : State) (t : Team) : (s.setMe t).splats = s.splats := rfl
@[simp] theorem State.setMe_lineCores (s : State) (t : Team) : (s.setMe t).lineCores = s.lineCores := rfl
@[simp] theorem State.setMe_heads (s : State) (t : Team) : (s.setMe t).heads = s.heads := rfl
@[simp] theorem State.setMe_trace (s : State) (t : Team) : (s.setMe t).trace = s.trace := rfl
@[simp] theorem State.setMe_mgmt (s : State) (t : Team) : (s.setMe t).mgmt = s.mgmt := rfl
@[simp] theorem State.setMe_dev (s : State) (t : Team) : (s.setMe t).dev = s.dev := rfl

/-! ### modMe -/

@[simp] theorem State.modMe_cycle (s : State) (f : Team → Team) : (s.modMe f).cycle = s.cycle := rfl
@[simp] theorem State.modMe_agenda (s : State) (f : Team → Team) : (s.modMe f).agenda = s.agenda := rfl
@[simp] theorem State.modMe_issue (s : State) (f : Team → Team) : (s.modMe f).issue = s.issue := rfl
@[simp] theorem State.modMe_free (s : State) (f : Team → Team) : (s.modMe f).free = s.free := rfl
@[simp] theorem State.modMe_uids (s : State) (f : Team → Team) : (s.modMe f).uids = s.uids := rfl
@[simp] theorem State.modMe_gangs (s : State) (f : Team → Team) : (s.modMe f).gangs = s.gangs := rfl
@[simp] theorem State.modMe_launches (s : State) (f : Team → Team) : (s.modMe f).launches = s.launches := rfl
@[simp] theorem State.modMe_queues (s : State) (f : Team → Team) : (s.modMe f).queues = s.queues := rfl
@[simp] theorem State.modMe_parts (s : State) (f : Team → Team) : (s.modMe f).parts = s.parts := rfl
@[simp] theorem State.modMe_cores (s : State) (f : Team → Team) : (s.modMe f).cores = s.cores := rfl
@[simp] theorem State.modMe_ms (s : State) (f : Team → Team) : (s.modMe f).ms = s.ms := rfl
@[simp] theorem State.modMe_rays (s : State) (f : Team → Team) : (s.modMe f).rays = s.rays := rfl
@[simp] theorem State.modMe_splats (s : State) (f : Team → Team) : (s.modMe f).splats = s.splats := rfl
@[simp] theorem State.modMe_lineCores (s : State) (f : Team → Team) : (s.modMe f).lineCores = s.lineCores := rfl
@[simp] theorem State.modMe_heads (s : State) (f : Team → Team) : (s.modMe f).heads = s.heads := rfl
@[simp] theorem State.modMe_trace (s : State) (f : Team → Team) : (s.modMe f).trace = s.trace := rfl
@[simp] theorem State.modMe_mgmt (s : State) (f : Team → Team) : (s.modMe f).mgmt = s.mgmt := rfl
@[simp] theorem State.modMe_dev (s : State) (f : Team → Team) : (s.modMe f).dev = s.dev := rfl

/-! ### modMyGang -/

@[simp] theorem State.modMyGang_cycle (s : State) (f : Gang → Gang) : (s.modMyGang f).cycle = s.cycle := rfl
@[simp] theorem State.modMyGang_agenda (s : State) (f : Gang → Gang) : (s.modMyGang f).agenda = s.agenda := rfl
@[simp] theorem State.modMyGang_issue (s : State) (f : Gang → Gang) : (s.modMyGang f).issue = s.issue := rfl
@[simp] theorem State.modMyGang_free (s : State) (f : Gang → Gang) : (s.modMyGang f).free = s.free := rfl
@[simp] theorem State.modMyGang_uids (s : State) (f : Gang → Gang) : (s.modMyGang f).uids = s.uids := rfl
@[simp] theorem State.modMyGang_teams (s : State) (f : Gang → Gang) : (s.modMyGang f).teams = s.teams := rfl
@[simp] theorem State.modMyGang_launches (s : State) (f : Gang → Gang) : (s.modMyGang f).launches = s.launches := rfl
@[simp] theorem State.modMyGang_queues (s : State) (f : Gang → Gang) : (s.modMyGang f).queues = s.queues := rfl
@[simp] theorem State.modMyGang_parts (s : State) (f : Gang → Gang) : (s.modMyGang f).parts = s.parts := rfl
@[simp] theorem State.modMyGang_cores (s : State) (f : Gang → Gang) : (s.modMyGang f).cores = s.cores := rfl
@[simp] theorem State.modMyGang_ms (s : State) (f : Gang → Gang) : (s.modMyGang f).ms = s.ms := rfl
@[simp] theorem State.modMyGang_rays (s : State) (f : Gang → Gang) : (s.modMyGang f).rays = s.rays := rfl
@[simp] theorem State.modMyGang_splats (s : State) (f : Gang → Gang) : (s.modMyGang f).splats = s.splats := rfl
@[simp] theorem State.modMyGang_lineCores (s : State) (f : Gang → Gang) : (s.modMyGang f).lineCores = s.lineCores := rfl
@[simp] theorem State.modMyGang_heads (s : State) (f : Gang → Gang) : (s.modMyGang f).heads = s.heads := rfl
@[simp] theorem State.modMyGang_trace (s : State) (f : Gang → Gang) : (s.modMyGang f).trace = s.trace := rfl
@[simp] theorem State.modMyGang_mgmt (s : State) (f : Gang → Gang) : (s.modMyGang f).mgmt = s.mgmt := rfl
@[simp] theorem State.modMyGang_dev (s : State) (f : Gang → Gang) : (s.modMyGang f).dev = s.dev := rfl

/-! ### modRegs -/

@[simp] theorem State.modRegs_cycle (s : State) (f : Regs → Regs) : (s.modRegs f).cycle = s.cycle := rfl
@[simp] theorem State.modRegs_agenda (s : State) (f : Regs → Regs) : (s.modRegs f).agenda = s.agenda := rfl
@[simp] theorem State.modRegs_issue (s : State) (f : Regs → Regs) : (s.modRegs f).issue = s.issue := rfl
@[simp] theorem State.modRegs_free (s : State) (f : Regs → Regs) : (s.modRegs f).free = s.free := rfl
@[simp] theorem State.modRegs_uids (s : State) (f : Regs → Regs) : (s.modRegs f).uids = s.uids := rfl
@[simp] theorem State.modRegs_gangs (s : State) (f : Regs → Regs) : (s.modRegs f).gangs = s.gangs := rfl
@[simp] theorem State.modRegs_launches (s : State) (f : Regs → Regs) : (s.modRegs f).launches = s.launches := rfl
@[simp] theorem State.modRegs_queues (s : State) (f : Regs → Regs) : (s.modRegs f).queues = s.queues := rfl
@[simp] theorem State.modRegs_parts (s : State) (f : Regs → Regs) : (s.modRegs f).parts = s.parts := rfl
@[simp] theorem State.modRegs_cores (s : State) (f : Regs → Regs) : (s.modRegs f).cores = s.cores := rfl
@[simp] theorem State.modRegs_ms (s : State) (f : Regs → Regs) : (s.modRegs f).ms = s.ms := rfl
@[simp] theorem State.modRegs_rays (s : State) (f : Regs → Regs) : (s.modRegs f).rays = s.rays := rfl
@[simp] theorem State.modRegs_splats (s : State) (f : Regs → Regs) : (s.modRegs f).splats = s.splats := rfl
@[simp] theorem State.modRegs_lineCores (s : State) (f : Regs → Regs) : (s.modRegs f).lineCores = s.lineCores := rfl
@[simp] theorem State.modRegs_heads (s : State) (f : Regs → Regs) : (s.modRegs f).heads = s.heads := rfl
@[simp] theorem State.modRegs_trace (s : State) (f : Regs → Regs) : (s.modRegs f).trace = s.trace := rfl
@[simp] theorem State.modRegs_mgmt (s : State) (f : Regs → Regs) : (s.modRegs f).mgmt = s.mgmt := rfl
@[simp] theorem State.modRegs_dev (s : State) (f : Regs → Regs) : (s.modRegs f).dev = s.dev := rfl

/-! ### modRegsC -/

@[simp] theorem State.modRegsC_cycle (s : State) (f : Regs → Regs) : (s.modRegsC f).cycle = s.cycle := rfl
@[simp] theorem State.modRegsC_agenda (s : State) (f : Regs → Regs) : (s.modRegsC f).agenda = s.agenda := rfl
@[simp] theorem State.modRegsC_issue (s : State) (f : Regs → Regs) : (s.modRegsC f).issue = s.issue := rfl
@[simp] theorem State.modRegsC_free (s : State) (f : Regs → Regs) : (s.modRegsC f).free = s.free := rfl
@[simp] theorem State.modRegsC_uids (s : State) (f : Regs → Regs) : (s.modRegsC f).uids = s.uids := rfl
@[simp] theorem State.modRegsC_gangs (s : State) (f : Regs → Regs) : (s.modRegsC f).gangs = s.gangs := rfl
@[simp] theorem State.modRegsC_launches (s : State) (f : Regs → Regs) : (s.modRegsC f).launches = s.launches := rfl
@[simp] theorem State.modRegsC_queues (s : State) (f : Regs → Regs) : (s.modRegsC f).queues = s.queues := rfl
@[simp] theorem State.modRegsC_parts (s : State) (f : Regs → Regs) : (s.modRegsC f).parts = s.parts := rfl
@[simp] theorem State.modRegsC_cores (s : State) (f : Regs → Regs) : (s.modRegsC f).cores = s.cores := rfl
@[simp] theorem State.modRegsC_ms (s : State) (f : Regs → Regs) : (s.modRegsC f).ms = s.ms := rfl
@[simp] theorem State.modRegsC_rays (s : State) (f : Regs → Regs) : (s.modRegsC f).rays = s.rays := rfl
@[simp] theorem State.modRegsC_splats (s : State) (f : Regs → Regs) : (s.modRegsC f).splats = s.splats := rfl
@[simp] theorem State.modRegsC_lineCores (s : State) (f : Regs → Regs) : (s.modRegsC f).lineCores = s.lineCores := rfl
@[simp] theorem State.modRegsC_heads (s : State) (f : Regs → Regs) : (s.modRegsC f).heads = s.heads := rfl
@[simp] theorem State.modRegsC_trace (s : State) (f : Regs → Regs) : (s.modRegsC f).trace = s.trace := rfl
@[simp] theorem State.modRegsC_mgmt (s : State) (f : Regs → Regs) : (s.modRegsC f).mgmt = s.mgmt := rfl
@[simp] theorem State.modRegsC_dev (s : State) (f : Regs → Regs) : (s.modRegsC f).dev = s.dev := rfl

/-! ### fin -/

@[simp] theorem State.fin_cycle (s : State) : (s.fin).cycle = s.cycle := rfl
@[simp] theorem State.fin_agenda (s : State) : (s.fin).agenda = s.agenda := rfl
@[simp] theorem State.fin_issue (s : State) : (s.fin).issue = s.issue := rfl
@[simp] theorem State.fin_free (s : State) : (s.fin).free = s.free := rfl
@[simp] theorem State.fin_uids (s : State) : (s.fin).uids = s.uids := rfl
@[simp] theorem State.fin_gangs (s : State) : (s.fin).gangs = s.gangs := rfl
@[simp] theorem State.fin_launches (s : State) : (s.fin).launches = s.launches := rfl
@[simp] theorem State.fin_queues (s : State) : (s.fin).queues = s.queues := rfl
@[simp] theorem State.fin_parts (s : State) : (s.fin).parts = s.parts := rfl
@[simp] theorem State.fin_cores (s : State) : (s.fin).cores = s.cores := rfl
@[simp] theorem State.fin_ms (s : State) : (s.fin).ms = s.ms := rfl
@[simp] theorem State.fin_rays (s : State) : (s.fin).rays = s.rays := rfl
@[simp] theorem State.fin_splats (s : State) : (s.fin).splats = s.splats := rfl
@[simp] theorem State.fin_lineCores (s : State) : (s.fin).lineCores = s.lineCores := rfl
@[simp] theorem State.fin_heads (s : State) : (s.fin).heads = s.heads := rfl
@[simp] theorem State.fin_trace (s : State) : (s.fin).trace = s.trace := rfl
@[simp] theorem State.fin_mgmt (s : State) : (s.fin).mgmt = s.mgmt := rfl
@[simp] theorem State.fin_dev (s : State) : (s.fin).dev = s.dev := rfl

/-! ### finC -/

@[simp] theorem State.finC_cycle (s : State) : (s.finC).cycle = s.cycle := rfl
@[simp] theorem State.finC_agenda (s : State) : (s.finC).agenda = s.agenda := rfl
@[simp] theorem State.finC_issue (s : State) : (s.finC).issue = s.issue := rfl
@[simp] theorem State.finC_free (s : State) : (s.finC).free = s.free := rfl
@[simp] theorem State.finC_uids (s : State) : (s.finC).uids = s.uids := rfl
@[simp] theorem State.finC_gangs (s : State) : (s.finC).gangs = s.gangs := rfl
@[simp] theorem State.finC_launches (s : State) : (s.finC).launches = s.launches := rfl
@[simp] theorem State.finC_queues (s : State) : (s.finC).queues = s.queues := rfl
@[simp] theorem State.finC_parts (s : State) : (s.finC).parts = s.parts := rfl
@[simp] theorem State.finC_cores (s : State) : (s.finC).cores = s.cores := rfl
@[simp] theorem State.finC_ms (s : State) : (s.finC).ms = s.ms := rfl
@[simp] theorem State.finC_rays (s : State) : (s.finC).rays = s.rays := rfl
@[simp] theorem State.finC_splats (s : State) : (s.finC).splats = s.splats := rfl
@[simp] theorem State.finC_lineCores (s : State) : (s.finC).lineCores = s.lineCores := rfl
@[simp] theorem State.finC_heads (s : State) : (s.finC).heads = s.heads := rfl
@[simp] theorem State.finC_trace (s : State) : (s.finC).trace = s.trace := rfl
@[simp] theorem State.finC_mgmt (s : State) : (s.finC).mgmt = s.mgmt := rfl
@[simp] theorem State.finC_dev (s : State) : (s.finC).dev = s.dev := rfl

/-! ### wait -/

@[simp] theorem State.wait_cycle (s : State) (c : WaitCond) : (s.wait c).cycle = s.cycle := rfl
@[simp] theorem State.wait_agenda (s : State) (c : WaitCond) : (s.wait c).agenda = s.agenda := rfl
@[simp] theorem State.wait_issue (s : State) (c : WaitCond) : (s.wait c).issue = s.issue := rfl
@[simp] theorem State.wait_free (s : State) (c : WaitCond) : (s.wait c).free = s.free := rfl
@[simp] theorem State.wait_uids (s : State) (c : WaitCond) : (s.wait c).uids = s.uids := rfl
@[simp] theorem State.wait_gangs (s : State) (c : WaitCond) : (s.wait c).gangs = s.gangs := rfl
@[simp] theorem State.wait_launches (s : State) (c : WaitCond) : (s.wait c).launches = s.launches := rfl
@[simp] theorem State.wait_queues (s : State) (c : WaitCond) : (s.wait c).queues = s.queues := rfl
@[simp] theorem State.wait_parts (s : State) (c : WaitCond) : (s.wait c).parts = s.parts := rfl
@[simp] theorem State.wait_cores (s : State) (c : WaitCond) : (s.wait c).cores = s.cores := rfl
@[simp] theorem State.wait_ms (s : State) (c : WaitCond) : (s.wait c).ms = s.ms := rfl
@[simp] theorem State.wait_rays (s : State) (c : WaitCond) : (s.wait c).rays = s.rays := rfl
@[simp] theorem State.wait_splats (s : State) (c : WaitCond) : (s.wait c).splats = s.splats := rfl
@[simp] theorem State.wait_lineCores (s : State) (c : WaitCond) : (s.wait c).lineCores = s.lineCores := rfl
@[simp] theorem State.wait_heads (s : State) (c : WaitCond) : (s.wait c).heads = s.heads := rfl
@[simp] theorem State.wait_trace (s : State) (c : WaitCond) : (s.wait c).trace = s.trace := rfl
@[simp] theorem State.wait_mgmt (s : State) (c : WaitCond) : (s.wait c).mgmt = s.mgmt := rfl
@[simp] theorem State.wait_dev (s : State) (c : WaitCond) : (s.wait c).dev = s.dev := rfl

/-! ### flow -/

@[simp] theorem State.flow_cycle (s : State) (x : Flow) : (s.flow x).cycle = s.cycle := rfl
@[simp] theorem State.flow_agenda (s : State) (x : Flow) : (s.flow x).agenda = s.agenda := rfl
@[simp] theorem State.flow_issue (s : State) (x : Flow) : (s.flow x).issue = s.issue := rfl
@[simp] theorem State.flow_free (s : State) (x : Flow) : (s.flow x).free = s.free := rfl
@[simp] theorem State.flow_uids (s : State) (x : Flow) : (s.flow x).uids = s.uids := rfl
@[simp] theorem State.flow_gangs (s : State) (x : Flow) : (s.flow x).gangs = s.gangs := rfl
@[simp] theorem State.flow_launches (s : State) (x : Flow) : (s.flow x).launches = s.launches := rfl
@[simp] theorem State.flow_queues (s : State) (x : Flow) : (s.flow x).queues = s.queues := rfl
@[simp] theorem State.flow_parts (s : State) (x : Flow) : (s.flow x).parts = s.parts := rfl
@[simp] theorem State.flow_cores (s : State) (x : Flow) : (s.flow x).cores = s.cores := rfl
@[simp] theorem State.flow_ms (s : State) (x : Flow) : (s.flow x).ms = s.ms := rfl
@[simp] theorem State.flow_rays (s : State) (x : Flow) : (s.flow x).rays = s.rays := rfl
@[simp] theorem State.flow_splats (s : State) (x : Flow) : (s.flow x).splats = s.splats := rfl
@[simp] theorem State.flow_lineCores (s : State) (x : Flow) : (s.flow x).lineCores = s.lineCores := rfl
@[simp] theorem State.flow_heads (s : State) (x : Flow) : (s.flow x).heads = s.heads := rfl
@[simp] theorem State.flow_trace (s : State) (x : Flow) : (s.flow x).trace = s.trace := rfl
@[simp] theorem State.flow_mgmt (s : State) (x : Flow) : (s.flow x).mgmt = s.mgmt := rfl
@[simp] theorem State.flow_dev (s : State) (x : Flow) : (s.flow x).dev = s.dev := rfl

/-! ### putS -/

@[simp] theorem State.putS_cycle (s : State) (d : BitVec 8) (v : Word) : (s.putS d v).cycle = s.cycle := rfl
@[simp] theorem State.putS_agenda (s : State) (d : BitVec 8) (v : Word) : (s.putS d v).agenda = s.agenda := rfl
@[simp] theorem State.putS_issue (s : State) (d : BitVec 8) (v : Word) : (s.putS d v).issue = s.issue := rfl
@[simp] theorem State.putS_free (s : State) (d : BitVec 8) (v : Word) : (s.putS d v).free = s.free := rfl
@[simp] theorem State.putS_uids (s : State) (d : BitVec 8) (v : Word) : (s.putS d v).uids = s.uids := rfl
@[simp] theorem State.putS_gangs (s : State) (d : BitVec 8) (v : Word) : (s.putS d v).gangs = s.gangs := rfl
@[simp] theorem State.putS_launches (s : State) (d : BitVec 8) (v : Word) : (s.putS d v).launches = s.launches := rfl
@[simp] theorem State.putS_queues (s : State) (d : BitVec 8) (v : Word) : (s.putS d v).queues = s.queues := rfl
@[simp] theorem State.putS_parts (s : State) (d : BitVec 8) (v : Word) : (s.putS d v).parts = s.parts := rfl
@[simp] theorem State.putS_cores (s : State) (d : BitVec 8) (v : Word) : (s.putS d v).cores = s.cores := rfl
@[simp] theorem State.putS_ms (s : State) (d : BitVec 8) (v : Word) : (s.putS d v).ms = s.ms := rfl
@[simp] theorem State.putS_rays (s : State) (d : BitVec 8) (v : Word) : (s.putS d v).rays = s.rays := rfl
@[simp] theorem State.putS_splats (s : State) (d : BitVec 8) (v : Word) : (s.putS d v).splats = s.splats := rfl
@[simp] theorem State.putS_lineCores (s : State) (d : BitVec 8) (v : Word) : (s.putS d v).lineCores = s.lineCores := rfl
@[simp] theorem State.putS_heads (s : State) (d : BitVec 8) (v : Word) : (s.putS d v).heads = s.heads := rfl
@[simp] theorem State.putS_trace (s : State) (d : BitVec 8) (v : Word) : (s.putS d v).trace = s.trace := rfl
@[simp] theorem State.putS_mgmt (s : State) (d : BitVec 8) (v : Word) : (s.putS d v).mgmt = s.mgmt := rfl
@[simp] theorem State.putS_dev (s : State) (d : BitVec 8) (v : Word) : (s.putS d v).dev = s.dev := rfl

/-! ### putC -/

@[simp] theorem State.putC_cycle (s : State) (d : BitVec 8) (b : Bool) : (s.putC d b).cycle = s.cycle := rfl
@[simp] theorem State.putC_agenda (s : State) (d : BitVec 8) (b : Bool) : (s.putC d b).agenda = s.agenda := rfl
@[simp] theorem State.putC_issue (s : State) (d : BitVec 8) (b : Bool) : (s.putC d b).issue = s.issue := rfl
@[simp] theorem State.putC_free (s : State) (d : BitVec 8) (b : Bool) : (s.putC d b).free = s.free := rfl
@[simp] theorem State.putC_uids (s : State) (d : BitVec 8) (b : Bool) : (s.putC d b).uids = s.uids := rfl
@[simp] theorem State.putC_gangs (s : State) (d : BitVec 8) (b : Bool) : (s.putC d b).gangs = s.gangs := rfl
@[simp] theorem State.putC_launches (s : State) (d : BitVec 8) (b : Bool) : (s.putC d b).launches = s.launches := rfl
@[simp] theorem State.putC_queues (s : State) (d : BitVec 8) (b : Bool) : (s.putC d b).queues = s.queues := rfl
@[simp] theorem State.putC_parts (s : State) (d : BitVec 8) (b : Bool) : (s.putC d b).parts = s.parts := rfl
@[simp] theorem State.putC_cores (s : State) (d : BitVec 8) (b : Bool) : (s.putC d b).cores = s.cores := rfl
@[simp] theorem State.putC_ms (s : State) (d : BitVec 8) (b : Bool) : (s.putC d b).ms = s.ms := rfl
@[simp] theorem State.putC_rays (s : State) (d : BitVec 8) (b : Bool) : (s.putC d b).rays = s.rays := rfl
@[simp] theorem State.putC_splats (s : State) (d : BitVec 8) (b : Bool) : (s.putC d b).splats = s.splats := rfl
@[simp] theorem State.putC_lineCores (s : State) (d : BitVec 8) (b : Bool) : (s.putC d b).lineCores = s.lineCores := rfl
@[simp] theorem State.putC_heads (s : State) (d : BitVec 8) (b : Bool) : (s.putC d b).heads = s.heads := rfl
@[simp] theorem State.putC_trace (s : State) (d : BitVec 8) (b : Bool) : (s.putC d b).trace = s.trace := rfl
@[simp] theorem State.putC_mgmt (s : State) (d : BitVec 8) (b : Bool) : (s.putC d b).mgmt = s.mgmt := rfl
@[simp] theorem State.putC_dev (s : State) (d : BitVec 8) (b : Bool) : (s.putC d b).dev = s.dev := rfl

/-! ### hold -/

@[simp] theorem State.hold_cycle (s : State) (l : List HeldStore) : (s.hold l).cycle = s.cycle := rfl
@[simp] theorem State.hold_agenda (s : State) (l : List HeldStore) : (s.hold l).agenda = s.agenda := rfl
@[simp] theorem State.hold_issue (s : State) (l : List HeldStore) : (s.hold l).issue = s.issue := rfl
@[simp] theorem State.hold_free (s : State) (l : List HeldStore) : (s.hold l).free = s.free := rfl
@[simp] theorem State.hold_uids (s : State) (l : List HeldStore) : (s.hold l).uids = s.uids := rfl
@[simp] theorem State.hold_gangs (s : State) (l : List HeldStore) : (s.hold l).gangs = s.gangs := rfl
@[simp] theorem State.hold_launches (s : State) (l : List HeldStore) : (s.hold l).launches = s.launches := rfl
@[simp] theorem State.hold_queues (s : State) (l : List HeldStore) : (s.hold l).queues = s.queues := rfl
@[simp] theorem State.hold_parts (s : State) (l : List HeldStore) : (s.hold l).parts = s.parts := rfl
@[simp] theorem State.hold_cores (s : State) (l : List HeldStore) : (s.hold l).cores = s.cores := rfl
@[simp] theorem State.hold_ms (s : State) (l : List HeldStore) : (s.hold l).ms = s.ms := rfl
@[simp] theorem State.hold_rays (s : State) (l : List HeldStore) : (s.hold l).rays = s.rays := rfl
@[simp] theorem State.hold_splats (s : State) (l : List HeldStore) : (s.hold l).splats = s.splats := rfl
@[simp] theorem State.hold_lineCores (s : State) (l : List HeldStore) : (s.hold l).lineCores = s.lineCores := rfl
@[simp] theorem State.hold_heads (s : State) (l : List HeldStore) : (s.hold l).heads = s.heads := rfl
@[simp] theorem State.hold_trace (s : State) (l : List HeldStore) : (s.hold l).trace = s.trace := rfl
@[simp] theorem State.hold_mgmt (s : State) (l : List HeldStore) : (s.hold l).mgmt = s.mgmt := rfl
@[simp] theorem State.hold_dev (s : State) (l : List HeldStore) : (s.hold l).dev = s.dev := rfl

/-! ### putReg -/

@[simp] theorem State.putReg_cycle (s : State) (x : Nat) (m : LaneMask) (f : Nat → Lane) : (s.putReg x m f).cycle = s.cycle := rfl
@[simp] theorem State.putReg_agenda (s : State) (x : Nat) (m : LaneMask) (f : Nat → Lane) : (s.putReg x m f).agenda = s.agenda := rfl
@[simp] theorem State.putReg_issue (s : State) (x : Nat) (m : LaneMask) (f : Nat → Lane) : (s.putReg x m f).issue = s.issue := rfl
@[simp] theorem State.putReg_free (s : State) (x : Nat) (m : LaneMask) (f : Nat → Lane) : (s.putReg x m f).free = s.free := rfl
@[simp] theorem State.putReg_uids (s : State) (x : Nat) (m : LaneMask) (f : Nat → Lane) : (s.putReg x m f).uids = s.uids := rfl
@[simp] theorem State.putReg_gangs (s : State) (x : Nat) (m : LaneMask) (f : Nat → Lane) : (s.putReg x m f).gangs = s.gangs := rfl
@[simp] theorem State.putReg_launches (s : State) (x : Nat) (m : LaneMask) (f : Nat → Lane) : (s.putReg x m f).launches = s.launches := rfl
@[simp] theorem State.putReg_queues (s : State) (x : Nat) (m : LaneMask) (f : Nat → Lane) : (s.putReg x m f).queues = s.queues := rfl
@[simp] theorem State.putReg_parts (s : State) (x : Nat) (m : LaneMask) (f : Nat → Lane) : (s.putReg x m f).parts = s.parts := rfl
@[simp] theorem State.putReg_cores (s : State) (x : Nat) (m : LaneMask) (f : Nat → Lane) : (s.putReg x m f).cores = s.cores := rfl
@[simp] theorem State.putReg_ms (s : State) (x : Nat) (m : LaneMask) (f : Nat → Lane) : (s.putReg x m f).ms = s.ms := rfl
@[simp] theorem State.putReg_rays (s : State) (x : Nat) (m : LaneMask) (f : Nat → Lane) : (s.putReg x m f).rays = s.rays := rfl
@[simp] theorem State.putReg_splats (s : State) (x : Nat) (m : LaneMask) (f : Nat → Lane) : (s.putReg x m f).splats = s.splats := rfl
@[simp] theorem State.putReg_lineCores (s : State) (x : Nat) (m : LaneMask) (f : Nat → Lane) : (s.putReg x m f).lineCores = s.lineCores := rfl
@[simp] theorem State.putReg_heads (s : State) (x : Nat) (m : LaneMask) (f : Nat → Lane) : (s.putReg x m f).heads = s.heads := rfl
@[simp] theorem State.putReg_trace (s : State) (x : Nat) (m : LaneMask) (f : Nat → Lane) : (s.putReg x m f).trace = s.trace := rfl
@[simp] theorem State.putReg_mgmt (s : State) (x : Nat) (m : LaneMask) (f : Nat → Lane) : (s.putReg x m f).mgmt = s.mgmt := rfl
@[simp] theorem State.putReg_dev (s : State) (x : Nat) (m : LaneMask) (f : Nat → Lane) : (s.putReg x m f).dev = s.dev := rfl

/-! ### putP -/

@[simp] theorem State.putP_cycle (s : State) (d : BitVec 8) (m : LaneMask) (f : Nat → Bool) : (s.putP d m f).cycle = s.cycle := rfl
@[simp] theorem State.putP_agenda (s : State) (d : BitVec 8) (m : LaneMask) (f : Nat → Bool) : (s.putP d m f).agenda = s.agenda := rfl
@[simp] theorem State.putP_issue (s : State) (d : BitVec 8) (m : LaneMask) (f : Nat → Bool) : (s.putP d m f).issue = s.issue := rfl
@[simp] theorem State.putP_free (s : State) (d : BitVec 8) (m : LaneMask) (f : Nat → Bool) : (s.putP d m f).free = s.free := rfl
@[simp] theorem State.putP_uids (s : State) (d : BitVec 8) (m : LaneMask) (f : Nat → Bool) : (s.putP d m f).uids = s.uids := rfl
@[simp] theorem State.putP_gangs (s : State) (d : BitVec 8) (m : LaneMask) (f : Nat → Bool) : (s.putP d m f).gangs = s.gangs := rfl
@[simp] theorem State.putP_launches (s : State) (d : BitVec 8) (m : LaneMask) (f : Nat → Bool) : (s.putP d m f).launches = s.launches := rfl
@[simp] theorem State.putP_queues (s : State) (d : BitVec 8) (m : LaneMask) (f : Nat → Bool) : (s.putP d m f).queues = s.queues := rfl
@[simp] theorem State.putP_parts (s : State) (d : BitVec 8) (m : LaneMask) (f : Nat → Bool) : (s.putP d m f).parts = s.parts := rfl
@[simp] theorem State.putP_cores (s : State) (d : BitVec 8) (m : LaneMask) (f : Nat → Bool) : (s.putP d m f).cores = s.cores := rfl
@[simp] theorem State.putP_ms (s : State) (d : BitVec 8) (m : LaneMask) (f : Nat → Bool) : (s.putP d m f).ms = s.ms := rfl
@[simp] theorem State.putP_rays (s : State) (d : BitVec 8) (m : LaneMask) (f : Nat → Bool) : (s.putP d m f).rays = s.rays := rfl
@[simp] theorem State.putP_splats (s : State) (d : BitVec 8) (m : LaneMask) (f : Nat → Bool) : (s.putP d m f).splats = s.splats := rfl
@[simp] theorem State.putP_lineCores (s : State) (d : BitVec 8) (m : LaneMask) (f : Nat → Bool) : (s.putP d m f).lineCores = s.lineCores := rfl
@[simp] theorem State.putP_heads (s : State) (d : BitVec 8) (m : LaneMask) (f : Nat → Bool) : (s.putP d m f).heads = s.heads := rfl
@[simp] theorem State.putP_trace (s : State) (d : BitVec 8) (m : LaneMask) (f : Nat → Bool) : (s.putP d m f).trace = s.trace := rfl
@[simp] theorem State.putP_mgmt (s : State) (d : BitVec 8) (m : LaneMask) (f : Nat → Bool) : (s.putP d m f).mgmt = s.mgmt := rfl
@[simp] theorem State.putP_dev (s : State) (d : BitVec 8) (m : LaneMask) (f : Nat → Bool) : (s.putP d m f).dev = s.dev := rfl

/-! ### modLc -/

@[simp] theorem State.modLc_cycle (s : State) (f : LineCore → LineCore) : (s.modLc f).cycle = s.cycle := rfl
@[simp] theorem State.modLc_agenda (s : State) (f : LineCore → LineCore) : (s.modLc f).agenda = s.agenda := rfl
@[simp] theorem State.modLc_issue (s : State) (f : LineCore → LineCore) : (s.modLc f).issue = s.issue := rfl
@[simp] theorem State.modLc_free (s : State) (f : LineCore → LineCore) : (s.modLc f).free = s.free := rfl
@[simp] theorem State.modLc_uids (s : State) (f : LineCore → LineCore) : (s.modLc f).uids = s.uids := rfl
@[simp] theorem State.modLc_teams (s : State) (f : LineCore → LineCore) : (s.modLc f).teams = s.teams := rfl
@[simp] theorem State.modLc_gangs (s : State) (f : LineCore → LineCore) : (s.modLc f).gangs = s.gangs := rfl
@[simp] theorem State.modLc_launches (s : State) (f : LineCore → LineCore) : (s.modLc f).launches = s.launches := rfl
@[simp] theorem State.modLc_queues (s : State) (f : LineCore → LineCore) : (s.modLc f).queues = s.queues := rfl
@[simp] theorem State.modLc_parts (s : State) (f : LineCore → LineCore) : (s.modLc f).parts = s.parts := rfl
@[simp] theorem State.modLc_cores (s : State) (f : LineCore → LineCore) : (s.modLc f).cores = s.cores := rfl
@[simp] theorem State.modLc_ms (s : State) (f : LineCore → LineCore) : (s.modLc f).ms = s.ms := rfl
@[simp] theorem State.modLc_rays (s : State) (f : LineCore → LineCore) : (s.modLc f).rays = s.rays := rfl
@[simp] theorem State.modLc_splats (s : State) (f : LineCore → LineCore) : (s.modLc f).splats = s.splats := rfl
@[simp] theorem State.modLc_heads (s : State) (f : LineCore → LineCore) : (s.modLc f).heads = s.heads := rfl
@[simp] theorem State.modLc_trace (s : State) (f : LineCore → LineCore) : (s.modLc f).trace = s.trace := rfl
@[simp] theorem State.modLc_mgmt (s : State) (f : LineCore → LineCore) : (s.modLc f).mgmt = s.mgmt := rfl
@[simp] theorem State.modLc_dev (s : State) (f : LineCore → LineCore) : (s.modLc f).dev = s.dev := rfl

/-! ### modB -/

@[simp] theorem State.modB_cycle (s : State) (f : BRegs → BRegs) : (s.modB f).cycle = s.cycle := rfl
@[simp] theorem State.modB_agenda (s : State) (f : BRegs → BRegs) : (s.modB f).agenda = s.agenda := rfl
@[simp] theorem State.modB_issue (s : State) (f : BRegs → BRegs) : (s.modB f).issue = s.issue := rfl
@[simp] theorem State.modB_free (s : State) (f : BRegs → BRegs) : (s.modB f).free = s.free := rfl
@[simp] theorem State.modB_uids (s : State) (f : BRegs → BRegs) : (s.modB f).uids = s.uids := rfl
@[simp] theorem State.modB_teams (s : State) (f : BRegs → BRegs) : (s.modB f).teams = s.teams := rfl
@[simp] theorem State.modB_gangs (s : State) (f : BRegs → BRegs) : (s.modB f).gangs = s.gangs := rfl
@[simp] theorem State.modB_launches (s : State) (f : BRegs → BRegs) : (s.modB f).launches = s.launches := rfl
@[simp] theorem State.modB_queues (s : State) (f : BRegs → BRegs) : (s.modB f).queues = s.queues := rfl
@[simp] theorem State.modB_parts (s : State) (f : BRegs → BRegs) : (s.modB f).parts = s.parts := rfl
@[simp] theorem State.modB_cores (s : State) (f : BRegs → BRegs) : (s.modB f).cores = s.cores := rfl
@[simp] theorem State.modB_ms (s : State) (f : BRegs → BRegs) : (s.modB f).ms = s.ms := rfl
@[simp] theorem State.modB_rays (s : State) (f : BRegs → BRegs) : (s.modB f).rays = s.rays := rfl
@[simp] theorem State.modB_splats (s : State) (f : BRegs → BRegs) : (s.modB f).splats = s.splats := rfl
@[simp] theorem State.modB_heads (s : State) (f : BRegs → BRegs) : (s.modB f).heads = s.heads := rfl
@[simp] theorem State.modB_trace (s : State) (f : BRegs → BRegs) : (s.modB f).trace = s.trace := rfl
@[simp] theorem State.modB_mgmt (s : State) (f : BRegs → BRegs) : (s.modB f).mgmt = s.mgmt := rfl
@[simp] theorem State.modB_dev (s : State) (f : BRegs → BRegs) : (s.modB f).dev = s.dev := rfl

/-! ### logQueue -/

@[simp] theorem State.logQueue_cycle (s : State) (p : Nat) (r : FaultRec) : (s.logQueue p r).cycle = s.cycle := rfl
@[simp] theorem State.logQueue_agenda (s : State) (p : Nat) (r : FaultRec) : (s.logQueue p r).agenda = s.agenda := rfl
@[simp] theorem State.logQueue_issue (s : State) (p : Nat) (r : FaultRec) : (s.logQueue p r).issue = s.issue := rfl
@[simp] theorem State.logQueue_free (s : State) (p : Nat) (r : FaultRec) : (s.logQueue p r).free = s.free := rfl
@[simp] theorem State.logQueue_uids (s : State) (p : Nat) (r : FaultRec) : (s.logQueue p r).uids = s.uids := rfl
@[simp] theorem State.logQueue_teams (s : State) (p : Nat) (r : FaultRec) : (s.logQueue p r).teams = s.teams := rfl
@[simp] theorem State.logQueue_gangs (s : State) (p : Nat) (r : FaultRec) : (s.logQueue p r).gangs = s.gangs := rfl
@[simp] theorem State.logQueue_launches (s : State) (p : Nat) (r : FaultRec) : (s.logQueue p r).launches = s.launches := rfl
@[simp] theorem State.logQueue_queues (s : State) (p : Nat) (r : FaultRec) : (s.logQueue p r).queues = s.queues := rfl
@[simp] theorem State.logQueue_cores (s : State) (p : Nat) (r : FaultRec) : (s.logQueue p r).cores = s.cores := rfl
@[simp] theorem State.logQueue_ms (s : State) (p : Nat) (r : FaultRec) : (s.logQueue p r).ms = s.ms := rfl
@[simp] theorem State.logQueue_rays (s : State) (p : Nat) (r : FaultRec) : (s.logQueue p r).rays = s.rays := rfl
@[simp] theorem State.logQueue_splats (s : State) (p : Nat) (r : FaultRec) : (s.logQueue p r).splats = s.splats := rfl
@[simp] theorem State.logQueue_lineCores (s : State) (p : Nat) (r : FaultRec) : (s.logQueue p r).lineCores = s.lineCores := rfl
@[simp] theorem State.logQueue_heads (s : State) (p : Nat) (r : FaultRec) : (s.logQueue p r).heads = s.heads := rfl
@[simp] theorem State.logQueue_trace (s : State) (p : Nat) (r : FaultRec) : (s.logQueue p r).trace = s.trace := rfl
@[simp] theorem State.logQueue_mgmt (s : State) (p : Nat) (r : FaultRec) : (s.logQueue p r).mgmt = s.mgmt := rfl
@[simp] theorem State.logQueue_dev (s : State) (p : Nat) (r : FaultRec) : (s.logQueue p r).dev = s.dev := rfl

/-! ### logDebug -/

@[simp] theorem State.logDebug_cycle (s : State) (p : Nat) (r : FaultRec) : (s.logDebug p r).cycle = s.cycle := rfl
@[simp] theorem State.logDebug_agenda (s : State) (p : Nat) (r : FaultRec) : (s.logDebug p r).agenda = s.agenda := rfl
@[simp] theorem State.logDebug_issue (s : State) (p : Nat) (r : FaultRec) : (s.logDebug p r).issue = s.issue := rfl
@[simp] theorem State.logDebug_free (s : State) (p : Nat) (r : FaultRec) : (s.logDebug p r).free = s.free := rfl
@[simp] theorem State.logDebug_uids (s : State) (p : Nat) (r : FaultRec) : (s.logDebug p r).uids = s.uids := rfl
@[simp] theorem State.logDebug_teams (s : State) (p : Nat) (r : FaultRec) : (s.logDebug p r).teams = s.teams := rfl
@[simp] theorem State.logDebug_gangs (s : State) (p : Nat) (r : FaultRec) : (s.logDebug p r).gangs = s.gangs := rfl
@[simp] theorem State.logDebug_launches (s : State) (p : Nat) (r : FaultRec) : (s.logDebug p r).launches = s.launches := rfl
@[simp] theorem State.logDebug_queues (s : State) (p : Nat) (r : FaultRec) : (s.logDebug p r).queues = s.queues := rfl
@[simp] theorem State.logDebug_cores (s : State) (p : Nat) (r : FaultRec) : (s.logDebug p r).cores = s.cores := rfl
@[simp] theorem State.logDebug_ms (s : State) (p : Nat) (r : FaultRec) : (s.logDebug p r).ms = s.ms := rfl
@[simp] theorem State.logDebug_rays (s : State) (p : Nat) (r : FaultRec) : (s.logDebug p r).rays = s.rays := rfl
@[simp] theorem State.logDebug_splats (s : State) (p : Nat) (r : FaultRec) : (s.logDebug p r).splats = s.splats := rfl
@[simp] theorem State.logDebug_lineCores (s : State) (p : Nat) (r : FaultRec) : (s.logDebug p r).lineCores = s.lineCores := rfl
@[simp] theorem State.logDebug_heads (s : State) (p : Nat) (r : FaultRec) : (s.logDebug p r).heads = s.heads := rfl
@[simp] theorem State.logDebug_trace (s : State) (p : Nat) (r : FaultRec) : (s.logDebug p r).trace = s.trace := rfl
@[simp] theorem State.logDebug_mgmt (s : State) (p : Nat) (r : FaultRec) : (s.logDebug p r).mgmt = s.mgmt := rfl
@[simp] theorem State.logDebug_dev (s : State) (p : Nat) (r : FaultRec) : (s.logDebug p r).dev = s.dev := rfl

end Sys2Proof.Machine
end

