-- ==== Sys2Proof/Tests/Teams.lean ====
section
/-!
SUPPORT. Small states for the tests, and a state and operands that meet the hypotheses of each statement about operations
of a team.
-/

namespace Sys2Proof.Tests

open Sys2Proof Sys2Proof.Machine

set_option maxRecDepth 20000
set_option exponentiation.threshold 5000
set_option Elab.async false

/-! ### Small states -/

/-- Team 2, of gang 1 on partition 0 and core 0, 32 lanes wide, executing operation i in slot k of its bundle 0. -/
def bench (k : Nat) (i : Instr) : State :=
  let at_ := fun (n : Nat) => if k = n then i else .nop 0
  let s : State := { State.reset.withBundle 0 0 with agenda := [], issue := ⟨2, k, 0, [], .none, none⟩ }
  s.modTeam 2 fun t => { t with
    flight := some ⟨⟨none, at_ 0, at_ 1, at_ 2, at_ 3⟩, false, 0, 0, 0, .seq, 0, t.regs, false, true, ⟨none, none, none⟩, 0⟩ }

/-- The state with the team's registers changed, as its bundle found them too. -/
def withRegs (s : State) (f : Regs → Regs) : State :=
  s.modTeam 2 fun t => { t with regs := f t.regs, flight := t.flight.map fun x => { x with before := f x.before } }

/-- The state with s[d] = v in the team. -/
def withS (s : State) (d : Nat) (v : Word) : State := withRegs s fun r => r.sset d v

/-- The state with the whole of one gibibyte of virtual memory of partition 0 mapped to physical address 0. -/
def mapped (s : State) : State :=
  let e : TlbEntry := ⟨0, 0, 2 ^ 30, 0x1D⟩
  { s.modPart 0 fun p => { p with keySet := 1 } with ms := { s.ms with l0 := [(0, [e]), (384, [e])] } }

/-- The state with bytes written into physical memory. -/
def withBytes (s : State) (pa : Nat) (b : List Byte) : State :=
  { s with ms := { s.ms with mem := Memory.writeBytes s.ms.mem pa b } }

/-- The ready device. -/
def ready : State := { State.reset with mgmt := { State.reset.mgmt with phase := 4, linkUp := true } }

/-! ### Scalar and vector operations -/

theorem witness_ScalarResults :
    (∃ r, (bench 0 (.sadd ⟨0, 4, 1, .imm 5⟩)).scalarResult (.sadd ⟨0, 4, 1, .imm 5⟩) = some r) ∧
    ∃ r, (bench 0 (.scmplt ⟨0, 7, 1, .imm 0⟩)).conditionResult (.scmplt ⟨0, 7, 1, .imm 0⟩) = some r ∧ r.d < 8 :=
  ⟨⟨_, rfl⟩, _, rfl, by decide⟩

theorem witness_MreadSelects :
    ((bench 0 (.mread ⟨0, 4, 0, .imm 34⟩)).sGuard 0 = true ∧ (sB (bench 0 (.nop 0)).rd false (.imm 34)).toNat < 35) ∧
    35 ≤ (sB (bench 0 (.nop 0)).rd false (.imm 35)).toNat := by decide +kernel

theorem witness_VectorResults :
    (∃ r, (bench 1 (.vaddI32 ⟨0, 4, 5, .reg 6⟩)).vectorResult (.vaddI32 ⟨0, 4, 5, .reg 6⟩) = some r ∧
      (∀ x ∈ r.reads, isPort x = false) ∧ ∀ x ∈ r.writes, isPort x = false) ∧
    (∃ r, (bench 1 (.vaddI64 ⟨0, 4, 6, .reg 8⟩)).wideResult (.vaddI64 ⟨0, 4, 6, .reg 8⟩) = some r ∧
      ∀ x ∈ r.reads, isPort x = false) ∧
    (∃ r, (bench 1 (.vcmpeqI32 ⟨0, 7, 5, .reg 6⟩)).predicateResult (.vcmpeqI32 ⟨0, 7, 5, .reg 6⟩) = some r ∧
      (bench 1 (.nop 0)).me.lanes ≤ 1024 ∧ ∀ x ∈ r.reads, isPort x = false) ∧
    ∃ r, (bench 1 (.vunpkH2 ⟨0, 4, 6, .reg 0⟩)).runResult (.vunpkH2 ⟨0, 4, 6, .reg 0⟩) = some r ∧
      ∀ x ∈ r.reads, isPort x = false :=
  ⟨⟨_, rfl, by decide +kernel⟩, ⟨_, rfl, by decide +kernel⟩, ⟨_, rfl, by decide +kernel⟩, _, rfl, by decide +kernel⟩

theorem witness_CrossLaneResults :
    (∃ f, (bench 2 (.xbcast ⟨0, 4, 5, .imm 32⟩)).crossResult (.xbcast ⟨0, 4, 5, .imm 32⟩) = some f) ∧
      (bench 2 (.nop 0)).me.lanes ≤ 1024 ∧ (bench 2 (.nop 0)).MembersOk ⟨0, 4, 5, .imm 32⟩ :=
  ⟨⟨_, rfl⟩, by decide +kernel, trivial⟩

/-! ### Control -/

theorem witness_FalseGuardIsNop :
    (guardedS (.tjoin ⟨1, 0, 0, .reg 0⟩) = some 1 ∧ (bench 0 (.nop 0)).sGuard 1 = false) ∧
    guardedFlow (.mpush ⟨1, 0, 0, .reg 0⟩) = some 1 ∧
    (let s := withRegs (bench 3 (.nop 0)) fun r => { r with masks := [⟨0, false, false, 0, 0⟩] }
     0x280 ≤ (Instr.ldB32 ⟨0, 4, 6, .imm 0⟩).opNum ∧ 0x280 ≤ (Instr.coll ⟨0, 4, 6, .imm 0⟩).opNum ∧
       s.effMask (Instr.ldB32 ⟨0, 4, 6, .imm 0⟩).guard = 0) := by decide +kernel

theorem witness_BranchResults : ∃ b, (bench 0 (.br ⟨0, 0x7FFFF⟩)).branchResult (.br ⟨0, 0x7FFFF⟩) = some b := ⟨_, rfl⟩

/-- The state as a member of a domain of two, in which the mapped virtual memory is that of the other device. -/
def abroad (s : State) : State :=
  let e : TlbEntry := ⟨0, 0, 2 ^ 30, 2 ^ 51 + 2 ^ 39 + 0x1D⟩
  { s with ms := { s.ms with l0 := [(0, [e]), (384, [e])] }, dev := { s.dev with domEn := true, ndev := 2, self := 0 } }

/-- A team of an image with a dispatch table of one entry, 7, at 0x1000. -/
def dispatcher (i : Instr) : State :=
  (withBytes (mapped (bench 0 i)) 0x1000 [7, 0, 0, 0]).modGang 1 fun g =>
    { g with image := { g.image with dtBase := 0x1000, dtLen := 1 } }

theorem witness_JidxBranches :
    (let s := dispatcher (.jidx ⟨0, 0, 5, .reg 0⟩)
     s.sGuard 0 = true ∧ (s.sA ⟨0, 0, 5, .reg 0⟩).toNat < s.myGang.image.dtLen ∧ s.dispatchEntry 0 = .ok 7) ∧
    (let s := withS (dispatcher (.jidx ⟨0, 0, 5, .reg 0⟩)) 5 1
     s.myGang.image.dtLen ≤ (s.sA ⟨0, 0, 5, .reg 0⟩).toNat) ∧
    (let s := (dispatcher (.jidx ⟨0, 0, 5, .reg 0⟩)).modGang 1 fun g => { g with image := { g.image with dtBase := 2 ^ 31 } }
     (s.sA ⟨0, 0, 5, .reg 0⟩).toNat < s.myGang.image.dtLen ∧ ∃ f, s.entryGot 0 = .fail f) ∧
    (let s := abroad (dispatcher (.jidx ⟨0, 0, 5, .reg 0⟩))
     (s.sA ⟨0, 0, 5, .reg 0⟩).toNat < s.myGang.image.dtLen ∧ ∃ d q a, s.entryGot 0 = .remote d q a) :=
  ⟨⟨by decide +kernel, by decide +kernel, by rfl⟩, by decide +kernel, ⟨by decide +kernel, _, rfl⟩, by decide +kernel,
    _, _, _, rfl⟩

theorem witness_VjidxServesLeast :
    (let s := dispatcher (.vjidx ⟨0, 0, 3, .reg 0⟩)
     s.sGuard 0 = true ∧ (∃ l ∈ s.active s.topMask, (s.rd.vget 3 l).toNat = 0) ∧
       (∀ l ∈ s.active s.topMask, 0 ≤ (s.rd.vget 3 l).toNat ∧ (s.rd.vget 3 l).toNat < s.myGang.image.dtLen) ∧
       s.dispatchEntry 0 = .ok 7 ∧ s.rd.masks.length + 2 ≤ (if s.me.handler.isSome then 8 else 32)) ∧
    (let s := fun (m : LaneMask) => withRegs (dispatcher (.djoin ⟨0, 0, 0, .reg 0⟩)) fun r =>
       { r with masks := ⟨1, false, true, 0, 0⟩ :: ⟨m, true, false, 3, 1⟩ :: r.masks }
     ((s 0).rd.masks.length = 3 ∧ (s 0).me.regs.masks = (s 0).rd.masks ∧ (s 0).active 0 = []) ∧
       (∃ l ∈ (s 2).active 2, ((s 2).rd.vget 3 l).toNat = 0) ∧ (s 2).dispatchEntry 0 = .ok 7) ∧
    (let s := withRegs (dispatcher (.vjidx ⟨0, 0, 3, .reg 0⟩)) fun r => { r with masks := [⟨0, false, false, 0, 0⟩] }
     s.sGuard 0 = true ∧ s.active s.topMask = []) ∧
    (let past := fun (s : State) (m : LaneMask) =>
       (s.active m).filter fun l => decide (s.myGang.image.dtLen ≤ (s.rd.vget 3 l).toNat)
     let s := fun (m : LaneMask) => withRegs (dispatcher (.nop 0)) fun r =>
       { (r.vput 32 3 4 fun _ => 1) with masks := ⟨1, false, true, 0, 0⟩ :: ⟨m, true, false, 3, 1⟩ :: r.masks }
     let d := fun (n : Nat) => withRegs (dispatcher (.nop 0)) fun r => { r with masks := List.replicate n ⟨3, false, false, 0, 0⟩ }
     (s 4).me.lanes ≤ 1024 ∧ past (withRegs (dispatcher (.nop 0)) fun r => r.vput 32 3 4 fun _ => 1) 7 = [2] ∧
       past (s 4) 4 = [2] ∧ ((d 31).active (d 31).topMask ≠ [] ∧ past (d 31) (d 31).topMask = [] ∧
         (if (d 31).me.handler.isSome then 8 else 32) < (d 31).rd.masks.length + 2) ∧
       (d 1).rd.masks = [⟨3, false, false, 0, 0⟩]) := by
  refine ⟨⟨by decide +kernel, by decide +kernel, by decide +kernel, rfl, by decide +kernel⟩,
    ⟨⟨by decide +kernel, by decide +kernel, by decide +kernel⟩, by decide +kernel, rfl⟩, by decide +kernel, by decide +kernel⟩

theorem witness_LoopResults :
    (bench 0 (.nop 0)).rd.sget 5 = 0 ∧
    ((withS (bench 0 (.nop 0)) 5 1).rd.sget 5 ≠ 0 ∧ (bench 0 (.nop 0)).rd.loops.length < 4) ∧
    (let s := withRegs (bench 0 (.nop 0)) fun r => { r with loops := [⟨1, 5, 1, 0, 0, false, 0⟩] }
     s.rd.loops = ⟨1, 5, 1, 0, 0, false, 0⟩ :: [] ∧ s.me.regs.loops = s.rd.loops ∧ s.sGuard 0 = true) ∧
    (bench 0 (.nop 0)).rd.loops = [] ∧
    (let s := withS (withRegs (bench 0 (.nop 0)) fun r => { r with loops := List.replicate 4 ⟨1, 5, 1, 0, 0, false, 0⟩ }) 5 1
     4 ≤ s.rd.loops.length ∧ s.rd.sget 5 ≠ 0) := by decide +kernel

/-- A team whose mask stack has n entries. -/
def stacked (n : Nat) (i : Instr) : State :=
  withRegs (bench 0 i) fun r => { r with masks := List.replicate n ⟨3, false, false, 0, 0⟩ }

theorem witness_MaskResults :
    (∃ l, (stacked 31 (.nop 0)).maskResult (.mpush ⟨0, 0, 1, .reg 0⟩) = some (⟨0, 0, 1, .reg 0⟩, l)) ∧
    (∃ l, (stacked 2 (.nop 0)).maskResult (.mpop ⟨0, 0, 0, .reg 0⟩) = some (⟨0, 0, 0, .reg 0⟩, l)) ∧
    (stacked 2 (.nop 0)).sGuard 0 = true ∧ (stacked 32 (.nop 0)).maskResult (.mpush ⟨0, 0, 1, .reg 0⟩) = none ∧
    (stacked 1 (.nop 0)).maskResult (.minv ⟨0, 0, 0, .reg 0⟩) = none ∧
    (let s := fun (g d : Bool) => withRegs (bench 0 (.nop 0)) fun r => { r with masks := ⟨1, d, g, 3, 1⟩ :: r.masks }
     (s true false).maskResult (.minv ⟨0, 0, 0, .reg 0⟩) = none ∧ (s false true).maskResult (.mpop ⟨0, 0, 0, .reg 0⟩) = none) :=
  ⟨⟨_, rfl⟩, ⟨_, rfl⟩, by decide +kernel⟩

theorem witness_SetResults :
    (∃ r, (bench 0 (.nop 0)).setResult (.setf ⟨0, 0, 4, .reg 0⟩) = some (0, r)) ∧
    (∃ r, (withS (bench 0 (.nop 0)) 4 8).setResult (.setc ⟨0, 0, 4, .imm 14⟩) = some (0, r)) ∧
    (let s := fun (n : Word) => withS (bench 0 (.nop 0)) 4 n
     1 ≤ ((s 1).sA ⟨0, 3, 4, .reg 0⟩).toNat ∧ ((s 256).sA ⟨0, 3, 4, .reg 0⟩).toNat ≤ 256) := by
  refine ⟨⟨_, rfl⟩, ⟨_, rfl⟩, by decide +kernel⟩

/-- A team in its trap handler, which a TRAP entered. -/
def handling (i : Instr) : State :=
  (bench 0 i).modTeam 2 fun t => { t with
    handler := some ⟨⟨.softwareTrap, 0, 0, 0, 0, 0, 0, 1, 0, [0, 0, 0, 0], 0, 0⟩, t.ckpt, t.regs.masks, [], [], []⟩ }

theorem witness_FlowChosen :
    ((bench 0 (.nop 0)).sGuard 0 = true ∧ (bench 0 (.nop 0)).me.joinCnt = 0) ∧
    ((bench 0 (.nop 0)).modTeam 2 fun t => { t with joinCnt := 1 }).me.joinCnt ≠ 0 ∧
    ∃ h, (handling (.nop 0)).me.handler = some h ∧ h.frame.code = .softwareTrap :=
  ⟨by decide +kernel, by decide +kernel, _, rfl, rfl⟩

/-- The team's gang as gang 0 of launch 9 of queue 0. -/
def launched (s : State) : State :=
  { s.modGang 1 fun g => { g with launch := some 9 } with launches := [(9, Launch.absent)] }

theorem witness_WnextDraws :
    (let s := launched (bench 0 (.wnext ⟨0, 4, 0, .reg 0⟩))
     s.sGuard 0 = true ∧ s.myGang.launch = some 9 ∧ tfind s.launches 9 = some Launch.absent) ∧
    (let s := (bench 0 (.tfork ⟨0, 4, 5, .imm 32⟩)).modGang 1 fun g => { g with image := { g.image with codeLen := 1 } }
     s.myGang.recompute = none ∧ (sB s.rd false (.imm 32)).toNat ≤ 32 ∧
       (s.sA ⟨0, 4, 5, .imm 32⟩).toNat < s.myGang.image.codeLen ∧ s.issue.team < s.uids) ∧
    (let s := fun (t : Team) => { (bench 0 (.nop 0)) with
       teams := [(2, t), (3, { Team.absent with gang := 1, parent := some 2, birth := some (1, 0) })] }
     let h : HeldStore := ⟨.recipe 0 5, 2 ^ 30 + 5, [9], false, 0, 0⟩
     ((s { Team.absent with storeQ := [h] }).team 3).birth = some (1, 0) ∧
       ((s { Team.absent with storeQ := [h] }).team 3).parent = some 2 ∧ (0 < (1 : Nat) - h.region ∧ h ∈ [h]) ∧
       (⟨1, ⟨.store [0], 0, 1, 0, 2⟩, 0, 0, none, false, .none⟩ : RemoteOut).sentAt ≤ 0) := by decide +kernel

theorem witness_FaultsTaken :
    (let s := (bench 0 (.nop 0)).modGang 1 fun g => { g with hndEn := true, image := { g.image with trapVec := some 0 } }
     s.sGuard 0 = true ∧ s.me.handler = none ∧ s.myGang.recompute = none ∧ s.myGang.hndEn = true ∧
       s.myGang.image.trapVec = some 0 ∧ (s.part s.myGang.part).dbgEn = false) ∧
    (let s := launched (bench 0 (.nop 0))
     s.myGang.launch = some 9 ∧ s.trapVec s.issue.team = none ∧ (∀ w, s.pausedRays w = []) ∧
       (s.launch 9).desc.abort1 = false) ∧
    (let s := launched (handling (.nop 0))
     s.me.handler.isSome = true ∧ s.myGang.recompute = none) ∧
    (let s := launched ({ (bench 0 (.nop 0)) with teams := tset (bench 0 (.nop 0)).teams 3 { Team.absent with gang := 1 } })
     ∃ y, tfind s.teams 3 = some y ∧ y.gang = s.me.gang ∧ y.ended = false) :=
  ⟨by decide +kernel, ⟨by decide +kernel, by decide +kernel, fun _ => rfl, by decide +kernel⟩, by decide +kernel,
    _, rfl, by decide +kernel, by decide +kernel⟩


/-! ### Memory accesses -/

/-- The state with lane 0 alone active. -/
def oneLane (s : State) : State := withRegs s fun r => { r with masks := [⟨1, false, false, 0, 0⟩] }

/-- A team with lane 0 active, s1 = 0x1000 in mapped memory and a gang store of 4 KiB. -/
def reader (k : Nat) (i : Instr) : State := withS (oneLane (mapped (bench k i))) 1 0x1000

/-- A record read from virtual memory. -/
theorem recordIs_virtual {s : State} {va : Word} {n : Nat} {b : List Byte}
    (h : s.gotVa (s.teamCtx s.issue.team) .load s.ownStores s.me.remote va (n / 128 + 2) n = .ok b) :
    s.RecordIs 0 va n b := by
  simpa [State.RecordIs] using h

/-- A record of n bytes, zero but for the fields given by offset, width and value. -/
def recordOf (n : Nat) (l : List (Nat × Nat × Nat)) : List Byte :=
  l.foldl (fun b x => setBytes b x.1 (natBytes x.2.2 x.2.1)) (List.replicate n 0)

theorem witness_LoadResults :
    (let s := reader 3 (.ldvB32 ⟨0, 4, 1, .imm 0⟩)
     (s.effMask 0 ≠ 0 ∧ s.active (s.effMask 0) = [0] ∧ isPort 4 = false) ∧
       s.laneVirtual .load (s.sA ⟨0, 4, 1, .imm 0⟩ + s.offS (.imm 0) 4 + 0) 4 = .ok ⟨.phys 0x1000 0, 0x1000, 0, false⟩ ∧
       s.ReadsAtOnce (.phys 0x1000 0) 4) ∧
    (let s := withRegs (reader 3 (.ldroB32 ⟨0, 4, 6, .imm 0⟩)) fun r => r.vput 32 6 1 fun _ => 0x1000
     s.laneVirtual .readOnly (s.addrV ⟨0, 4, 6, .imm 0⟩ 4 0) 4 = .ok ⟨.phys 0x1000 0, 0x1000, 0, false⟩ ∧
       s.ReadsAtOnce (.phys 0x1000 0) 4) := by
  refine ⟨⟨by decide +kernel, by rfl, by decide +kernel, by rfl⟩, by rfl, by decide +kernel, by rfl⟩

theorem witness_StoreResults :
    (let s := reader 3 (.stvB32 ⟨0, 4, 1, .imm 0⟩)
     s.effMask 0 ≠ 0 ∧ s.active (s.effMask 0) = [0] ∧
       s.laneVirtual .store (s.sA ⟨0, 4, 1, .imm 0⟩ + s.offS (.imm 0) 4 + 0) 4 = .ok ⟨.phys 0x1000 0, 0x1000, 0, false⟩ ∧
       s.Withholds (.phys 0x1000 0)) ∧
    (let s := reader 3 (.nop 0)
     (s.target 0x1000 == .remote) = false ∧ Memory.wf s.ms.mem = true ∧ tsorted s.ms.lineKeys = true ∧
       s.UnderKey 0 0x1000 4 0x1010) := by
  exact ⟨⟨by decide +kernel, by decide +kernel, by rfl, by decide +kernel, by decide +kernel⟩, by decide +kernel,
    by decide +kernel, by decide +kernel, Or.inl (by decide +kernel)⟩

theorem witness_AccessFaults :
    let s := withS (reader 3 (.ldvB32 ⟨0, 4, 1, .imm 0⟩)) 1 0x1001
    s.active (s.effMask 0) = [0] ∧
      s.laneVirtual .load (s.sA ⟨0, 4, 1, .imm 0⟩ + s.offS (.imm 0) 4 + 0) 4 = .error ⟨.alignment, 0x1001⟩ := by
  exact ⟨by decide +kernel, by rfl⟩

theorem witness_ScalarAccesses :
    (let s := reader 3 (.sldB64 ⟨0, 4, 1, .imm 0⟩)
     s.effMask 0 ≠ 0 ∧ s.scalarAt .load (s.addrS ⟨0, 4, 1, .imm 0⟩ 8) 8 = .ok ⟨.phys 0x1000 0, 0x1000, 0, false⟩ ∧
       s.ReadsAtOnce (.phys 0x1000 0) 8) ∧
    (let s := reader 3 (.ldaB64 ⟨0, 4, 1, 5, false⟩)
     s.laneVirtual .load (s.rd.sget 1) 8 = .ok ⟨.phys 0x1000 0, 0x1000, 0, false⟩ ∧ s.scopeReaches 5 (.phys 0x1000 0) = true) ∧
    (let s := reader 3 (.stlB64 ⟨0, 4, 1, 5, false⟩)
     s.laneVirtual .store (s.rd.sget 1) 8 = .ok ⟨.phys 0x1000 0, 0x1000, 0, false⟩ ∧ s.me.unacked.isEmpty = true) := by
  refine ⟨⟨by decide +kernel, by rfl, by decide +kernel, by rfl⟩, ⟨by rfl, by decide +kernel⟩, by rfl, by decide +kernel⟩

/-! ### Rings, walkers and copies -/

/-- A team whose gang has ring 0 of 256 entries with n filled, on a gang store of 1 MiB. -/
def ringed (i : Instr) (n : Nat) : State :=
  (bench 3 i).modGang 1 fun g => { g with gstore := 256, rings := [(0, ⟨0, 255, 0, true, false, 0, 0, BitVec.ofNat 32 n, none⟩)] }

theorem witness_Rings :
    (let s := withS ((bench 3 (.qinit ⟨0, 0, 1, .reg 2⟩)).modGang 1 fun g => { g with gstore := 256 }) 2 8191
     s.effMask 0 ≠ 0 ∧ (s.sA ⟨0, 0, 1, .reg 2⟩).toNat % 128 = 0 ∧ (sB s.rd false (.reg 2)).toNat < 2 ^ 13 ∧
       bitsOf (s.sA ⟨0, 0, 1, .reg 2⟩).toNat 21 20 < s.myGang.span ∧
       (8191 % 256 + 1) * ((8191 / 256 + 1) * 128) ≤ s.myGang.gstore * 4096 ∧
       ((s.myGang.ring 0).bound && (s.myGang.walker 0).run) = false) ∧
    (let s := ringed (.qcommit ⟨0, 0, 0, .imm 1⟩) 255
     s.me.storeQ = [] ∧ s.me.storeFails = [] ∧ (s.myGang.ring 0).init = true ∧ (s.myGang.ring 0).bound = false ∧
       (s.myGang.ring 0).filled + 1 ≤ (s.myGang.ring 0).size) ∧
    (let s := ringed (.qpop ⟨0, 7, 0, .imm 1⟩) 1
     s.effMask 0 ≠ 0 ∧ (s.myGang.ring 0).init = true ∧ 1 ≤ (s.myGang.ring 0).size ∧ 1 ≤ (s.myGang.ring 0).filled) := by
  decide +kernel

/-- A team with a 64-byte record at 0x1000. -/
def recorded (k : Nat) (i : Instr) (l : List (Nat × Nat × Nat)) : State :=
  withBytes (withS ((reader k i).modGang 1 fun g => { g with rings := [(0, ⟨0, 0, 0, true, false, 0, 0, 0, none⟩)] }) 2 0x1000)
    0x1000 (recordOf 64 l)

theorem witness_CopyQueued :
    (let d : List (Nat × Nat × Nat) := [(0, 8, 0x2000), (8, 4, 1)]
     let s := recorded 3 (.wbind ⟨0, 0, 0, .reg 2⟩) d
     (s.effMask 0 ≠ 0 ∧ s.me.storeQ = [] ∧ s.me.storeFails = [] ∧ (sB s.rd false (.reg 2)).toNat % 64 = 0 ∧
       walkOk (recordOf 64 d) = true ∧ walkAligned (recordOf 64 d) = true ∧ (s.myGang.walker 0).run = false ∧
       (s.myGang.ring 0).init = true ∧ (s.myGang.ring 0).bound = false) ∧
     s.RecordIs 0 (sB s.rd false (.reg 2)) 64 (recordOf 64 d)) ∧
    (let s := (bench 3 (.wstart ⟨0, 7, 0, .reg 0⟩)).modGang 1 fun g =>
       { g with walkers := [(7, { (default : Walker) with bound := true })] }
     (s.myGang.walker 7).bound = true ∧ (s.myGang.walker 7).run = false) ∧
    (let d : List (Nat × Nat × Nat) := [(0, 8, 0x2000), (8, 8, 0x3000), (0x28, 3, 1)]
     let s := recorded 3 (.cpy ⟨0, 4, 2, .imm 0⟩) d
     (s.copyCheck (recordOf 64 d) = none ∧ s.me.copyQ.length < 32 ∧ (s.sA ⟨0, 4, 2, .imm 0⟩).toNat % 64 = 0) ∧
     s.RecordIs 0 (s.sA ⟨0, 4, 2, .imm 0⟩) 64 (recordOf 64 d)) := by
  refine ⟨⟨by decide +kernel, recordIs_virtual (by decide +kernel)⟩, by decide +kernel, by decide +kernel,
    recordIs_virtual (by decide +kernel)⟩

theorem witness_LinesControlled :
    let s := reader 3 (.lock ⟨0, 4, 1, .imm 1⟩)
    s.effMask 0 ≠ 0 ∧ (sB s.rd false (.imm 1)).toNat ≤ 65536 ∧ (s.sA ⟨0, 4, 1, .imm 1⟩).toNat % 128 = 0 ∧
      lockPlaces (s.rangeLines .lock (s.sA ⟨0, 4, 1, .imm 1⟩) 1) = .ok [0x1000] ∧ tsorted s.ms.l2 = true ∧
      sB s.rd false (.imm 1) ≠ 0 ∧ sB s.rd false (.imm 0) = 0 ∧ tsorted (tget [] s.ms.sampler s.cluster) = true := by
  exact ⟨by decide +kernel, by decide +kernel, by decide +kernel, by rfl, by decide +kernel, by decide +kernel,
    by decide +kernel, by decide +kernel⟩

/-- The one line to lock has room in a quota of one and finds its frame free, or the quota is 0. -/
theorem witness_LinesControlled_room :
    let s := reader 3 (.lock ⟨0, 4, 1, .imm 1⟩)
    let held : State := { s with gangs := tset s.gangs s.me.gang { s.myGang with locks := s.myGang.locks ++ [0x1000] } }
    let q := fun (n : BitVec 16) => s.modPart 0 fun p => { p with lockQuota := n }
    held.crowded true [0x1000] = [] ∧ held.crowded false [0x1000] = [] ∧
      slicesHold ((s.lockedLines ++ [0x1000]).eraseDups) (s.generalWays * 512) = true ∧
      (q 1).charged 1 + 1 ≤ ((q 1).part 0).lockQuota.toNat ∧ ¬ (q 0).charged 1 + 1 ≤ ((q 0).part 0).lockQuota.toNat := by
  decide +kernel

/-! ### Trellis and tiles -/

/-- A team whose gang has two tiles of one binary32 element each (FORMAT 1) and a tile budget of one unit. -/
def tiled (k : Nat) (i : Instr) : State :=
  withS ((bench k i).modGang 1 fun g => { g with ntile := 2, tileKb := 1, tc := [(0, 1), (1, 1)] }) 5 1

theorem witness_TrellisCommandsEnter :
    let s := tiled 3 (.tzero ⟨0, 0, 0, .reg 0⟩)
    (∃ x, s.trellisRule [] [] (.tzero ⟨0, 0, 0, .reg 0⟩) = some x ∧ x.ok) ∧ s.effMask 0 ≠ 0 ∧
      (s.me.storeQ = [] ∧ s.me.storeFails = []) ∧ s.myGang.tileWait [] [0] = none ∧
      (s.table s.myGang.cluster_).length < 64 :=
  ⟨⟨_, rfl, by decide +kernel⟩, by decide +kernel, by decide +kernel, by decide +kernel, by decide +kernel⟩

theorem witness_TileRows :
    (let s := tiled 3 (.ttov ⟨0, 4, 1, .imm 0⟩)
     s.effMask 0 ≠ 0 ∧ tcFormat (s.tcSeen 1) ≠ 0 ∧ 0 < tcRows (s.tcSeen 1) ∧ s.myGang.tileWait [1] [] = none ∧
       (∀ l ∈ s.active (s.effMask 0), 0 * tcCols (s.tcSeen 1) + l < tcRows (s.tcSeen 1) * tcCols (s.tcSeen 1) →
         badLine (s.myGang.tile 1).bad ((0 * tcCols (s.tcSeen 1) + l) * tcElem (s.tcSeen 1)) (tcElem (s.tcSeen 1)) = none) ∧
       s.myGang.tileWait [] [1] = none ∧ Memory.wf (s.myGang.tile 1).bytes = true) ∧
    (let s := tiled 0 (.movtc ⟨0, 1, 5, .reg 0⟩)
     s.sGuard 0 = true ∧ s.me.storeFails = [] ∧ s.myGang.tileWait [] [1] = none ∧ tcOk (s.sA ⟨0, 1, 5, .reg 0⟩) = true ∧ s.sA ⟨0, 1, 5, .reg 0⟩ = tget 0 s.myGang.tc 1 ∧
       ((List.range s.myGang.ntile).map fun k =>
         tcFootprint (if k = 1 then s.sA ⟨0, 1, 5, .reg 0⟩ else tget 0 s.myGang.tc k)).sum ≤ s.myGang.tileKb * 65536) ∧
    (let s := withS (tiled 0 (.movtc ⟨0, 1, 5, .reg 0⟩)) 5 2
     tcOk (s.sA ⟨0, 1, 5, .reg 0⟩) = true ∧ s.sA ⟨0, 1, 5, .reg 0⟩ ≠ tget 0 s.myGang.tc 1) := by
  decide +kernel

/-! ### Recipe tiles and synchronisation -/

/-- A kernel image of one overlay and one bundle. -/
def kernel : List Byte :=
  recordOf 0x110 [(0, 4, 0x494B4446), (4, 2, 1), (8, 8, 7), (0x14, 4, 4096), (0x18, 2, 1), (0x1C, 4, 0x100), (0x20, 4, 0),
    (0x30, 4, 0x200), (0x34, 4, 1), (0x104, 4, 1)]

/-- A team whose partition has a recipe window of two tiles at 1 GiB, records at 0x10000 and images at 0x20000; the record
of tile 0 holds state st and names an entry. -/
def recipes (st entry : Nat) : State :=
  let e : TlbEntry := ⟨0, 1, 2 ^ 30, 0x2D⟩
  let s := withBytes (withBytes (mapped (bench 3 (.nop 0))) 0x10000
    (recordOf 64 [(0, 4, st + 8 * 2 ^ 16), (8, 4, entry)])) 0x20000 kernel
  let s1 := s.modPart 0 fun p => { p with
    rcpWin := 2 ^ 30, rcpBase := 0x10000, rcpImg := 0x20000, rcpLen := 2, ctxBase := 0x10000000, ctxSize := 1 }
  withS { s1 with ms := { s1.ms with l0 := s1.ms.l0.map fun x => (x.1, e :: x.2) } } 1 (2 ^ 30)

/-- A team that locks the line at 0x1000 where one way is left for general use and an open tile has 1,100 lines in frames,
all at that line's place. -/
def crowding : State :=
  let s := withS (recipes 1 0) 1 0x1000
  let s1 := s.modPart 0 fun p => { p with
    shadow := 48, lockQuota := 4, rtiles := [(0, ⟨0, [(0x1000, 255), (0x1004, 127)], true, none, List.replicate 1100 0x1000, 0, []⟩)] }
  { s1 with dev := { s1.dev with fxSize := 15 } }

/-- That state with the line locked. -/
def crowdingHeld : State :=
  { crowding with gangs := tset crowding.gangs 1 { crowding.gang 1 with locks := (crowding.gang 1).locks ++ [0x1000] } }

theorem witness_LinesControlled_crowded :
    (crowding.effMask 0 ≠ 0 ∧ (crowding.sA ⟨0, 4, 1, .imm 1⟩).toNat % 128 = 0 ∧
      crowding.charged 1 + 1 ≤ (crowding.part 0).lockQuota.toNat ∧
      slicesHold ((crowding.lockedLines ++ [0x1000]).eraseDups) (crowding.generalWays * 512) = true) ∧
    lockPlaces (crowding.rangeLines .lock (crowding.sA ⟨0, 4, 1, .imm 1⟩) 1) = .ok [0x1000] ∧
    crowdingHeld.crowded true [0x1000] ≠ [] := by
  refine ⟨by decide +kernel, by rfl, ?_⟩
  have e : crowdingHeld.lineLoads true = List.replicate 1101 (0x1000, 2) := by decide +kernel
  have c : crowdingHeld.generalWays = 1 := by decide +kernel
  have n : ¬ crowdingHeld.lockedLines.length + crowdingHeld.pinnedTileLines.length ≤ 1 * 1024 := by decide +kernel
  have h : crowdingHeld.crowded true [0x1000] = [homeOf 0x1000] := by
    simp only [State.crowded, c, e, if_neg n, if_true, List.map_cons, List.map_nil]
    simp
  simp [h]

/-- A pair whose second part is none. -/
theorem fst_none {α β : Type} {x : α × Option β} (h : x.2.isNone = true) : ∃ w, x = (w, none) :=
  ⟨x.1, Prod.ext rfl (Option.isNone_iff_eq_none.mp h)⟩

/-- A computation that does not fail. -/
theorem is_ok {ε α : Type} {x : Except ε α} (h : x.toOption.isSome = true) : ∃ a, x = .ok a := by
  cases x with
  | error e => cases h
  | ok a => exact ⟨a, rfl⟩

/-- A computation that gives a. -/
theorem ok_eq {ε α : Type} {x : Except ε α} {a : α} (h : x.toOption = some a) : x = .ok a := by
  cases x with
  | error e => cases h
  | ok b => exact congrArg _ (Option.some.inj h)

/-- A computation that fails. -/
theorem is_error {ε α : Type} {x : Except ε α} (h : x.toOption.isSome = false) : ∃ e, x = .error e := by
  cases x with
  | error e => exact ⟨e, rfl⟩
  | ok a => cases h

/-- The team's gang rebuilds tile 0. -/
def rebuilding (s : State) : State :=
  s.modGang 1 fun g => { g with recompute := some ⟨0, 1, [0], 8, [], [], true⟩ }

theorem witness_RecipeOps :
    (let o : A3 := ⟨0, 4, 1, .reg 0⟩
     let s := recipes 1 0
     (∃ w c, s.recipeRule 0 .opened (.seal o) = some (o, w, c)) ∧ s.effMask 0 ≠ 0 ∧ s.myGang.recompute = none ∧ s.Settled ∧
       s.tileNamed (s.sA o) = .ok 0 ∧ s.tileState 0 0 = .ok .opened ∧ ∃ r, s.recipeOf s.myGang.part 0 = .ok r) ∧
    (let o : A3 := ⟨0, 4, 1, .reg 0⟩
     let s := recipes 3 1
     s.tileNamed (s.sA o) = .ok 0 ∧ s.tileState 0 0 = .ok .dropped ∧ ((s.part s.myGang.part).rtile 0).pins ≠ 0xFFFF ∧
       ∃ f, s.startCheck s.issue.team s.myGang.part 0 = .error f) ∧
    (let o : A3 := ⟨0, 4, 1, .reg 0⟩
     let s := recipes 3 0
     s.tileNamed (s.sA o) = .ok 0 ∧ s.tileState 0 0 = .ok .dropped ∧
       (∃ r, s.startCheck s.issue.team s.myGang.part 0 = .ok r) ∧
       (∃ w, s.startTile s.issue.team s.myGang.part 0 false = (w, none)) ∧ ∃ r, s.record s.myGang.part 0 = .ok r) ∧
    (let s := rebuilding (recipes 4 0)
     s.myGang.recompute = some ⟨0, 1, [0], 8, [], [], true⟩ ∧ s.enginesIdle s.me.gang = true ∧ s.Settled) := by
  refine ⟨⟨⟨_, _, rfl⟩, by decide +kernel, by decide +kernel, ⟨rfl, rfl⟩, by rfl, by rfl, is_ok (by decide +kernel)⟩,
    ⟨by rfl, by rfl, by decide +kernel, is_error (by decide +kernel)⟩,
    ⟨by rfl, by rfl, is_ok (by decide +kernel), fst_none (by decide +kernel), is_ok (by decide +kernel)⟩,
    by decide +kernel, by decide +kernel, rfl, rfl⟩

/-- A team with lane 0 active, v6 of it 0x1000 in v6 and v7. -/
def atomics (i : Instr) : State := withRegs (reader 3 i) fun r => r.vput 32 6 1 fun _ => 0x1000

theorem witness_AtomicResults :
    let s := atomics (.atomaddI32 ⟨0, 4, 6, 5, false⟩)
    s.effMask 0 ≠ 0 ∧ s.myGang.recompute = none ∧ s.Released 5 ∧ s.active (s.atomMask ⟨0, 4, 6, 5, false⟩) = [0] ∧
      s.issue.quota = none ∧ ({ s with issue := { s.issue with quota := some 0 } } : State).issue.quota = some 0 ∧
      s.atomAt ⟨0, 4, 6, 5, false⟩ 4 0 = .ok ⟨.phys 0x1000 0, 0x1000, 0, false⟩ ∧ s.isRemote (.phys 0x1000 0) = false ∧
      Memory.wf s.ms.mem = true ∧ tsorted s.ms.lineKeys = true ∧ s.UnderKey 0 0x1000 4 0x1008 :=
  ⟨by decide +kernel, by decide +kernel, ⟨⟨rfl, rfl⟩, fun _ => rfl⟩, by decide +kernel, rfl, rfl, by rfl, by decide +kernel,
    by decide +kernel, by decide +kernel, Or.inl (by decide +kernel)⟩

theorem witness_Fences :
    ((bench 3 (.nop 0)).effMask 0 ≠ 0 ∧ (bench 3 (.nop 0)).Released 5 ∧ (3#3).toNat ≤ 3) ∧
    ((bench 3 (.nop 0)).modTeam 2 fun t => { t with storeQ := [⟨.gang 0, 0, [1], false, 0, 0⟩] }).me.storeQ ≠ [] :=
  ⟨⟨by decide +kernel, ⟨⟨rfl, rfl⟩, fun _ => rfl⟩, by decide⟩, by decide +kernel⟩

theorem witness_TimelineResults :
    (let s := withS (bench 3 (.nop 0)) 5 9
     s.effMask 0 ≠ 0 ∧ s.myGang.recompute = none ∧ s.Released 3 ∧ desOk (s.rd.sget 5) = true ∧
       scopeFits (desKind (s.rd.sget 5)) 3 = true ∧ s.timelineOf (s.rd.sget 5) = .ok (.slot 9)) ∧
    (let s := withS (mapped (bench 3 (.nop 0))) 5 (2 ^ 62 + 0x1000)
     s.Released 5 ∧ desOk (s.rd.sget 5) = true ∧ scopeFits (desKind (s.rd.sget 5)) 5 = true ∧
       s.timelineOf (s.rd.sget 5) = .ok (.mem 0x1000 0) ∧ Memory.wf s.ms.mem = true ∧ tsorted s.ms.lineKeys = true) ∧
    (let s := withS (bench 3 (.nop 0)) 5 (2 ^ 63)
     desKind (s.rd.sget 5) = 2 ∧ desOk (s.rd.sget 5) = true ∧ s.timelineOf (s.rd.sget 5) = .ok (.engine 0) ∧
       (s.rd.sget 4).toNat ≤ s.me.copyNum.toNat ∧ (s.rd.sget 4).toNat ≤ (s.timelineVal (.engine 0)).toNat ∧
       ∀ n, Timeline.engine 0 = .engine n → dueFail (s.failsOf n) s.issue.team (s.timelineVal (.engine 0)) = none) ∧
    (let s := withS (withS (bench 3 (.nop 0)) 5 9) 4 1
     s.timelineOf (s.rd.sget 5) = .ok (.slot 9) ∧ (s.timelineVal (.slot 9)).toNat < (s.rd.sget 4).toNat) := by
  refine ⟨⟨by decide +kernel, by decide +kernel, ⟨⟨rfl, rfl⟩, fun _ => rfl⟩, by decide +kernel, by decide +kernel, by rfl⟩,
    ⟨⟨⟨rfl, rfl⟩, fun _ => rfl⟩, by decide +kernel, by decide +kernel, by rfl, by decide +kernel, by decide +kernel⟩,
    ⟨by decide +kernel, by decide +kernel, by rfl, by decide +kernel, by decide +kernel, ?_⟩, by rfl, by decide +kernel⟩
  intro n h
  cases h
  decide +kernel

/-- A team whose gang store begins with some words. -/
def stored (l : List Nat) : State :=
  (bench 3 (.nop 0)).modGang 1 fun g => { g with store := Memory.writeBytes g.store 0 (l.flatMap (natBytes · 4)) }

theorem witness_BarrierResults :
    (let s := stored [0x400]
     s.effMask 0 ≠ 0 ∧ s.myGang.recompute = none ∧ s.Settled ∧ s.bankAt (s.sA ⟨0, 4, 0, .imm 1⟩) 4 4 = .ok (.gang 0) ∧
       barArrive (s.bankWord (.gang 0) 4) (sB s.rd false (.imm 1)).toNat = some (0x80000400, 2) ∧
       bitsOf (s.bankWord (.gang 0) 4) 31 31 ≠ (sB s.rd false (.imm 1)).toNat % 2 ∧
       bitsOf (s.bankWord (.gang 0) 4) 31 31 = (sB s.rd false (.imm 0)).toNat % 2) ∧
    (let b : BufTab := ⟨.gang 0, 0, 2, 128, 1, 0⟩
     (stored [0, 1, 1, 0]).bufTab 0 = .ok b ∧ (b.acq - b.rel).toNat < b.nbuf ∧
       (sB (bench 3 (.nop 0)).rd false (.imm 1)).toNat ≤ (b.acq - b.rel).toNat) ∧
    Memory.wf (stored [0x400]).myGang.store = true ∧ ([1, 2, 3, 4] : List Byte).length < 128 :=
  ⟨⟨by decide +kernel, by decide +kernel, ⟨rfl, rfl⟩, by rfl, by decide +kernel, by decide +kernel, by decide +kernel⟩,
    ⟨by rfl, by decide +kernel, by decide +kernel⟩, by decide +kernel, by decide +kernel⟩

/-- A team with an open work queue of 16 records of 16 bytes and with launch queue 3 of its partition, of 16 entries. -/
def queued : State :=
  let s := reader 3 (.nop 0)
  let s1 := s.modPart 0 fun p => { p with wqs := [(3, { WorkQueue.reset with
    enable := true, store := 0x8000, capLog := 4, rpg := 8, thresh := 100, lq := 3 })] }
  { s1 with queues := [(3, { Queue.reset with en := true, device := true, sizeLog := 4, base := 0x9000 })] }

theorem witness_QueuesTake :
    (queued.effMask 0 ≠ 0 ∧ queued.myGang.recompute = none ∧ queued.Released 5 ∧ pushArgs queued.rd (.imm 3) = (3, 1, true) ∧
      (queued.wq 0 3).rpg ≠ 0 ∧ (queued.wq 0 3).enable = true ∧ (queued.wq 0 3).used + 1 ≤ 2 ^ (queued.wq 0 3).capLog ∧
      queued.RecordIs 0 (queued.sA ⟨0, 4, 1, .imm 3⟩) 16 (recordOf 16 []) ∧
      ∃ w, (List.range 1).foldl (fun (y : State × Option Failure) i => match y with
        | (z, none) => z.writeMem (sysCtx 0)
            ((queued.wq 0 3).store + BitVec.ofNat 64 (((queued.wq 0 3).tail.toNat + i) % 2 ^ (queued.wq 0 3).capLog * 16))
            (((recordOf 16 []).drop (i * 16)).take 16)
        | y => y) (queued.recordRead 0 (queued.sA ⟨0, 4, 1, .imm 3⟩) 16, none) = (w, none)) ∧
    ((bench 3 (.nop 0)).wq 0 3).rpg = 0 ∧
    ((sB queued.rd false (.imm 3)).toNat < 1024 ∧ (queued.queue 3).part = queued.myGang.part ∧
      (queued.queue 3).device = true ∧ (queued.queue 3).hasRoom = true ∧
      queued.RecordIs 0 (queued.sA ⟨0, 4, 1, .imm 3⟩) 32 (recordOf 32 []) ∧
      ∃ w, (queued.recordRead 0 (queued.sA ⟨0, 4, 1, .imm 3⟩) 32).writeAll (sysCtx 0) 0x9000 (recordOf 32 []) = (w, none)) ∧
    ((queued.modQueue 3 fun q => { q with en := false }).queue 3).hasRoom = false := by
  refine ⟨⟨by decide +kernel, by decide +kernel, ⟨⟨rfl, rfl⟩, fun _ => rfl⟩, by decide +kernel, by decide +kernel,
    by decide +kernel, by decide +kernel, recordIs_virtual (by decide +kernel), fst_none (by decide +kernel)⟩,
    by decide +kernel, ⟨by decide +kernel, by decide +kernel, by decide +kernel, by decide +kernel,
      recordIs_virtual (by decide +kernel), fst_none (by decide +kernel)⟩, by decide +kernel⟩

/-! ### Rays, splats, samples and collectives -/

theorem witness_RaysQueued :
    (withRegs (bench 3 (.nop 0)) fun r => { r with masks := [⟨0, false, false, 0, 0⟩] }).effMask 0 = 0 ∧
    let s := atomics (.nop 0)
    s.effMask 0 ≠ 0 ∧ s.myGang.recompute = none ∧ s.Settled ∧ s.active (s.effMask 0) = [0] ∧
      s.rayAt 6 [0] 0 = .ok 0x1000 ∧ (tget [] s.rays s.cluster).length + 1 ≤ 4096 :=
  ⟨by decide +kernel, by decide +kernel, by decide +kernel, ⟨rfl, rfl⟩, by decide +kernel, by rfl, by decide +kernel⟩

/-- A team with a paused ray of record 0x1000 in slot 5 of its cluster's ray unit. -/
def paused : State :=
  { atomics (.nop 0) with
    rays := [(0, [(5, ⟨1, 2, 1, 0x1000, false, false, false, false, some (recordOf 128 []), [], 0, none, 0, 0, false, false,
      some 7, 0, ⟨[], false⟩, none⟩)])] }

theorem witness_RayDecisions :
    (let s := atomics (.nop 0)
     s.effMask 0 ≠ 0 ∧ s.myGang.recompute = none ∧ s.Settled ∧ s.raysOf s.issue.team = [] ∧
       0 ∈ s.active (s.effMask 0) ∧ ∀ k, k ∈ s.active (s.effMask 0) → ¬ k < 0) ∧
    (paused.effMask 0 ≠ 0 ∧ paused.myGang.recompute = none ∧ paused.Settled ∧ paused.active (paused.effMask 0) = [0] ∧
      ∃ r, (paused.raysOf paused.issue.team).find? (fun r => r.2.2.addr == paused.rayAddr 6 0 && r.2.2.paused.isSome) =
        some (0, 5, r) ∧ tfind (tget [] paused.rays 0) 5 = some r) :=
  ⟨⟨by decide +kernel, by decide +kernel, ⟨rfl, rfl⟩, by decide +kernel, by decide +kernel, by decide +kernel⟩,
    by decide +kernel, by decide +kernel, ⟨rfl, rfl⟩, by decide +kernel, _, rfl, rfl⟩

theorem witness_SplatResults :
    (let s := reader 3 (.nop 0)
     s.effMask 0 ≠ 0 ∧ s.myGang.recompute = none ∧ 1 ≤ (sB s.rd false (.imm 1)).toNat ∧
       (s.sA ⟨0, 4, 1, .imm 1⟩).toNat % 32 = 0) ∧
    (let d := [(0x20, 2, 1), (0x22, 2, 16384), (0x24, 4, 0x3F800000), (0x34, 4, 1)]
     let s := recorded 3 (.nop 0) d
     s.Settled ∧ (s.sA ⟨0, 4, 2, .reg 0⟩).toNat % 64 = 0 ∧
       s.RecordIs 0 (s.sA ⟨0, 4, 2, .reg 0⟩) 64 (recordOf 64 d) ∧ frameCheck (recordOf 64 d) = none) ∧
    (let s := withS (reader 3 (.nop 0)) 5 0x1000
     let x : Tex := ⟨0, 1, 1, 0, 1, false, 0, 0⟩
     s.laneVirtual .readOnly (sB s.rd false (.reg 5)) 32 = .ok ⟨.phys 0x1000 0, 0x1000, 0, false⟩ ∧
       s.ReadsAtOnce (.phys 0x1000 0) 32 ∧
       parseTex (s.samplerBytes s.cluster s.myGang.part (.phys 0x1000 0) 32) = some x ∧
       (x.plan 0 [f32.decode 0, f32.decode 0]) = some [(0, .fin false 1 0)] ∧
       s.texelsAt x.texel [(0, .fin false 1 0)] = .ok [⟨.phys 0 0, 0, 0, false⟩] ∧ s.ReadsAtOnce (.phys 0 0) x.texel) := by
  refine ⟨by decide +kernel, ⟨⟨rfl, rfl⟩, by decide +kernel, recordIs_virtual (by decide +kernel), by decide +kernel⟩,
    by rfl, ⟨by decide +kernel, by rfl⟩, by rfl, by rfl, by rfl, by decide +kernel, by rfl⟩

theorem witness_CollectiveEnters :
    (let d := [(0, 8, 0x2000), (8, 8, 0x3000), (0x10, 4, 1)]
     let r := [(0, 4, 2 ^ 31), (8, 8, 0x31000)]
     let b := recordOf 64 d ++ recordOf 16 r ++ [0, 0]
     let s0 := (withBytes (recorded 3 (.nop 0) d) 0x30000 (recordOf 16 r)).modPart 0 fun p => { p with collGrp := 0x30001 }
     let s := { s0 with dev := { s0.dev with domEn := true } }
     let v1 := s.recordRead 0 (s.sA ⟨0, 4, 2, .reg 0⟩) 64
     let v2 := v1.recordRead 0 0x30000 16
     s.effMask 0 ≠ 0 ∧ s.myGang.recompute = none ∧ s.Settled ∧ (s.sA ⟨0, 4, 2, .reg 0⟩).toNat % 64 = 0 ∧
       s.RecordIs 0 (s.sA ⟨0, 4, 2, .reg 0⟩) 64 (recordOf 64 d) ∧ collFields (recordOf 64 d) = true ∧
       collGroup (recordOf 64 d) < bitsOf (s.part s.myGang.part).collGrp.toNat 15 0 ∧
       v1.RecordIs 0 0x30000 16 (recordOf 16 r) ∧ v2.recordUsable (recordOf 64 d ++ recordOf 16 r) = true ∧
       v2.RecordIs 0 0x31000 2 [0, 0] ∧ (v2.recordRead 0 0x31000 2).collCheck b = none ∧
       (tget (0, none) s.dev.groups (groupKey s.myGang.part (collGroup b))).2 = none) ∧
    ((bench 1 (.nop 0)).rd.masks.length = 1 ∧ (bench 1 (.nop 0)).me.lanes ≤ 1024 ∧
      (bench 1 (.nop 0)).me.regs.masks = (bench 1 (.nop 0)).rd.masks) := by
  refine ⟨⟨by decide +kernel, by decide +kernel, ⟨rfl, rfl⟩, by decide +kernel, recordIs_virtual (by decide +kernel),
    by decide +kernel, by decide +kernel, recordIs_virtual (by decide +kernel), by decide +kernel,
    recordIs_virtual (by decide +kernel), by decide +kernel, by decide +kernel⟩, by decide +kernel⟩

end Sys2Proof.Tests
end

