-- ==== Sys2Proof/Tests/Lines.lean ====
section
/-!
SUPPORT. Small states for line cores, queues and the machine's own steps, and a state that meets the hypotheses of each
statement about them.
-/

namespace Sys2Proof.Tests

open Sys2Proof Sys2Proof.Machine

set_option maxRecDepth 20000
set_option exponentiation.threshold 5000
set_option Elab.async false

/-! ### Line cores -/

/-- Line core 0 in slot k of a bundle of band 0 of head 0. -/
def bandSlot (k : Nat) : State := { State.reset.withLineBundle 0 with agenda := [], issue := ⟨0, k, 0, [], .none, none⟩ }

/-- The state with line core 0 changed. -/
def withCore (s : State) (f : LineCore → LineCore) : State := s.modLineCore 0 f

/-- The state with g[n] = v as the slot reads it. -/
def withG (s : State) (n : Nat) (v : Lane) : State := withCore s fun c => { c with before := c.before.gset n v }

theorem witness_LineResults :
    (∃ x, (bandSlot 0).lineRule (.gadd ⟨0, 4, 0, 0, 1⟩) = some (True, x)) ∧
    (∃ ok x, (bandSlot 2).lineRule (.lld ⟨0, 4, 0, 0, 1⟩) = some (ok, x) ∧ ok) ∧
    ∃ ok x, (bandSlot 2).lineRule (.mld ⟨0, 4, 0, 0, 0⟩) = some (ok, x) ∧ ok := by
  refine ⟨⟨_, rfl⟩, ⟨_, _, rfl, ?_⟩, _, _, rfl, ?_⟩
  · have h : ∀ l, l < 64 → (bandSlot 2).lineAddr ⟨0, 4, 0, 0, 1⟩ l % 4 = 0 ∧
        (bandSlot 2).lineAddr ⟨0, 4, 0, 0, 1⟩ l + 4 ≤ lineMemory := by decide +kernel
    exact ⟨fun l hl _ => h l hl, fun _ _ _ => by simp [show (bandSlot 2).lc.bad = [] from by decide +kernel]⟩
  · exact ⟨rfl, by decide +kernel, by decide +kernel⟩

theorem witness_LineFlow :
    (let s := bandSlot 0
     (s.lc.pc : Int) + (0 : BitVec 18).toInt = (0 : Nat) ∧ 0 < s.progLen ∧ (s.lc.pc : Int) + (-1 : BitVec 18).toInt < 0 ∧
       (s.progLen : Int) ≤ s.lc.pc + (1 : BitVec 18).toInt ∧ s.br.fget 0 = BitVec.allOnes 64) ∧
    (bandSlot 0).br.gget 5 = 0 ∧
    ((withG (bandSlot 0) 5 1).br.gget 5 ≠ 0 ∧ (withG (bandSlot 0) 5 1).lc.loops.length < 4) ∧
    4 ≤ (withCore (withG (bandSlot 0) 5 1) fun c => { c with loops := List.replicate 4 ⟨1, 1, 1⟩ }).lc.loops.length ∧
    (bandSlot 0).MatrixDone ∧ ¬ (withCore (bandSlot 0) fun c => { c with matrix := some (false, ⟨0, 0, 0, 0, 0⟩) }).MatrixDone ∧
    (let s := withG (bandSlot 0) 5 1
     (s.bandHead.ltc - s.bandRun.start).toNat < (s.br.gget 5 + s.gB ⟨0, 5, 0, 0, 1⟩).toNat) ∧
    ¬ (withG (bandSlot 2) 5 2).InLines ⟨0, 5, 0, 0, 1⟩ ((withG (bandSlot 2) 5 2).lineAddr ⟨0, 5, 0, 0, 1⟩) ∧
    ¬ (withG (bandSlot 2) 5 2).InLines ⟨0, 6, 5, 0, 0⟩
      (fun l => ((withG (bandSlot 2) 5 2).br.gget 5).toNat + ((withG (bandSlot 2) 5 2).br.kget 6 l).toNat) := by
  refine ⟨by decide +kernel, by decide +kernel, by decide +kernel, by decide +kernel, ?_, ?_, by decide +kernel, ?_, ?_⟩
  · show (bandSlot 0).lc.matrix = none
    decide +kernel
  · intro h
    cases h
  · intro h
    exact absurd (h 0 (by decide) (by decide +kernel)).1 (by decide +kernel)
  · intro h
    exact absurd (h 0 (by decide) (by decide +kernel)).1 (by decide +kernel)

theorem witness_LineStores :
    ((bandSlot 2).InLines ⟨0, 4, 0, 0, 1⟩ ((bandSlot 2).lineAddr ⟨0, 4, 0, 0, 1⟩) ∧ Memory.wf (bandSlot 2).lc.lmem = true) ∧
    (let s := withG (bandSlot 2) 5 (BitVec.ofNat 32 (lineMemory - mTileBytes))
     s.lc.matrix = none ∧ (s.br.gget 5).toNat % 4 = 0 ∧ (s.br.gget 5).toNat + mTileBytes ≤ lineMemory) ∧
    (let s := withCore (bandSlot 2) fun c => { c with matrix := some (false, ⟨0, 1, 0, 0, 0⟩) }
     (s.lineCore 0).matrix = some (false, ⟨0, 1, 0, 0, 0⟩) ∧ ∀ k, k < 16 → k ≠ 0 → (s.lineCore k).matrix = none) ∧
    (let s := bandSlot 2
     s.bandRun.frame = s.bandHead.frame ∧ (s.bandHead.bandLines s.bandRun.band).1 ≤ (s.br.gget 4).toNat ∧
       (s.br.gget 4).toNat < (s.bandHead.bandLines s.bandRun.band).2 ∧ (s.bandHead.line 0).complete = false ∧
       s.bandHead.buffers < 8 ∧ s.lc.matrix = none) ∧
    (let s := (bandSlot 2).modHead 0 fun x => { x with
       fifo := (List.range 8).map fun l => (l + 1, ⟨[], false, true, false⟩) }
     (s.bandHead.line 0).buffer = false ∧ 8 ≤ s.bandHead.buffers) := by
  refine ⟨⟨?_, by decide +kernel⟩, by decide +kernel, by decide +kernel, by decide +kernel, by decide +kernel⟩
  have h : ∀ l, l < 64 → (bandSlot 2).lineAddr ⟨0, 4, 0, 0, 1⟩ l % 4 = 0 ∧
      (bandSlot 2).lineAddr ⟨0, 4, 0, 0, 1⟩ l + 4 ≤ lineMemory := by decide +kernel
  exact fun l hl _ => h l hl

/-! ### Queues and launches -/

/-- The ready device with queue 0 of partition 0, which runs, its memory mapped. -/
def served (f : Queue → Queue) : State :=
  let s := mapped ((ready.withBundle 0 0).modQueue 0 f)
  { s with agenda := [] }

theorem witness_WorkQueues :
    (let s := served fun q => { q with en := true, tail := 1, sizeLog := 4 }
     s.mgmt.phase = 4 ∧ (s.queue 0).en = true ∧ (s.queue 0).device = false ∧
       (16 - (s.queue 0).head).toNat ≤ 2 ^ (s.queue 0).sizeLog ∧
       ((s.queue 0).tail - (s.queue 0).head).toNat ≤ (16 - (s.queue 0).head).toNat ∧
       2 ^ (s.queue 0).sizeLog < (17 - (s.queue 0).head).toNat ∧
       (0 - (s.queue 0).head).toNat < ((s.queue 0).tail - (s.queue 0).head).toNat) ∧
    (let s := served id
     (s.queue 0).en = false ∧ bitsOf (0x301 : BitVec 64).toNat 12 8 < 4 ∧ 16 < bitsOf (0x1101 : BitVec 64).toNat 12 8 ∧
       4 ≤ bitsOf (0x401 : BitVec 64).toNat 12 8 ∧ bitsOf (0x1001 : BitVec 64).toNat 12 8 ≤ 16 ∧ (s.queue 0).built = [] ∧
       s.NoTakes ∧ s.NoCloses 0) ∧
    (let d := recordOf 64 [(8, 4, 2 ^ 16 + 1), (0x0C, 4, 1), (0x10, 4, 1)]
     let s := withBytes (served id) 0x1000 d
     s.mgmt.phase = 4 ∧ (s.wq 0 0).enable = false ∧ (s.wq 0 0).bound = false ∧
       s.readMem (sysCtx 0) .load (bindAddr 0x1000) 64 = .ok d ∧
       ((parseWq (bindAddr 0x1000) d).map (·.closeEn) = some false) ∧ parseWq (bindAddr 0x1000) (recordOf 64 []) = none ∧
       ∃ f, s.readMem (sysCtx 0) .load (bindAddr (2 ^ 40)) 64 = .error f) ∧
    (let s := fun (w : WorkQueue) => (served fun q => { q with en := true, sizeLog := 4 }).modPart 0 fun p =>
       { p with wqs := [(0, w)] }
     ((s { WorkQueue.reset with enable := true }).wq 0 0).enable = true ∧
       ((s { WorkQueue.reset with enable := true }).wq 0 0).unlaunched = 0 ∧
       (let x := s { WorkQueue.reset with bound := true, desc := 0x1000 }
        (x.wq 0 0).bound = true ∧ (x.wq 0 0).unlaunched = 0 ∧ (x.wq 0 0).covers = [] ∧ (x.wq 0 0).pending = [] ∧
          ∃ u, x.writeAll (sysCtx 0) 0x1028 (natBytes 0 8 ++ natBytes 0 8 ++ natBytes 0 8) = (u, none)) ∧
       let x := { s { WorkQueue.reset with bound := true, tail := 1, ticks := [0], ageMax := 1, rpg := 1, thresh := 2 } with cycle := 3 }
       (x.wq 0 0).ticks = [0] ∧ 0 + (x.wq 0 0).ageMax ≤ x.tick ∧ (x.wq 0 0).unlaunched ≠ 0 ∧ (x.wq 0 0).unlaunched < (x.wq 0 0).thresh ∧
         (x.wq 0 0).pending = [] ∧
         (x.wq 0 0).rpg ≠ 0 ∧ (x.queue (x.wq 0 0).lq).hasRoom = true) := by
  refine ⟨by decide +kernel, ⟨by decide +kernel, by decide +kernel, by decide +kernel, by decide +kernel, by decide +kernel,
      by decide +kernel, ?_, ?_⟩,
    ⟨by decide +kernel, by decide +kernel, by decide +kernel, by rfl, by decide +kernel, by decide +kernel,
      is_error (by decide +kernel)⟩,
    by decide +kernel, by decide +kernel, ⟨by decide +kernel, by decide +kernel, by decide +kernel, by decide +kernel,
      fst_none (by decide +kernel)⟩, by decide +kernel⟩
  · show ∀ x ∈ (served id).parts, ∀ w ∈ x.2.wqs, w.2.pending = []
    decide +kernel
  · show ∀ w ∈ ((served id).part 0).wqs, (w.2.enable && w.2.closeEn) = false
    decide +kernel

/-- A launch descriptor for image 0x20000 of one gang of one team, and of some more fields. -/
def descOf (l : List (Nat × Nat × Nat)) : List Byte :=
  recordOf 256 ([(0, 8, 0x20000), (0x14, 4, 1), (0x2C, 2, 3), (0x30, 8, 5), (0x84, 4, 2 ^ 8 + 8 * 2 ^ 16)] ++ l)

/-- Queue 0 with a waiting entry that names a descriptor at 0xA000, and the kernel's image. -/
def waitingEntry (l : List (Nat × Nat × Nat)) : State :=
  withBytes (withBytes (served fun q => { q with en := true, sizeLog := 4, phase := .waiting ⟨0xA000, 0, false, false, 0, none⟩ })
    0xA000 (descOf l)) 0x20000 kernel

/-- Queue 0 with launch 9 of that descriptor checked and an argument area of the partition at 4 MiB. -/
def checkedLaunch (l : List (Nat × Nat × Nat)) : State :=
  let s := (served fun q => { q with en := true, phase := .checked 9 }).modPart 0 fun p =>
    { p with argBase := 2 ^ 22, argSize := 1 }
  { s with launches := [(9, { Launch.absent with desc := parseDesc (descOf l) })] }

theorem witness_LaunchBegins :
    (let s := withBytes (served fun q => { q with en := true, sizeLog := 4, base := 0x9000, tail := 1 }) 0x9000
       (recordOf 32 [(0, 8, 0xA000)])
     let b := recordOf 32 [(0, 8, 0xA000)]
     (s.queue 0).en = true ∧ (s.queue 0).phase = .idle ∧ (s.queue 0).head ≠ (s.queue 0).tail ∧ (s.part 0).st = .running ∧
       tfind (s.queue 0).built (s.queue 0).head.toNat = none ∧ s.readMem (sysCtx 0) .load 0x9000 32 = .ok b ∧
       fieldAt b 0 8 % 64 = 0 ∧ fieldAt b 8 4 < 2 ^ 18 ∧ fieldAt b 0x0C 4 = 0 ∧ fieldAt b 0x18 8 = 0) ∧
    (let s := waitingEntry []
     (s.part 0).st = .running ∧ s.readMem (sysCtx 0) .load 0xA000 256 = .ok (descOf []) ∧
       ∃ img, s.checkDesc 0 0xA000 (descOf []) = .ok img) ∧
    (let s := waitingEntry [(0x14, 4, 0)]
     s.entryReady 0 ⟨0xA000, 0, false, false, 0, none⟩ = true ∧
       s.readMem (sysCtx 0) .load 0xA000 256 = .ok (descOf [(0x14, 4, 0)]) ∧
       ∃ f, s.checkDesc 0 0xA000 (descOf [(0x14, 4, 0)]) = .error f) ∧
    (((checkedLaunch []).queue 0).phase = .checked 9 ∧ ((checkedLaunch []).part 0).st = .running ∧
      ((checkedLaunch []).launch 9).desc.argLen = 0) ∧
    (let s := checkedLaunch [(8, 8, 0x1000), (0x10, 4, 1)]
     let d := (s.launch 9).desc
     d.argLen ≠ 0 ∧ tfind s.launches 9 = some (s.launch 9) ∧ freePages [] (s.part 0).argPages 1 1 0 = some 0 ∧
       s.keyOk d.part d.keyId = true ∧ s.readMem (sysCtx 0) .load d.args d.argLen = .ok [0] ∧
       ∃ w, s.writeAll (keyCtx d.part d.keyId) (2 ^ 22) ([0] ++ List.replicate 4095 0) = (w, none)) := by
  refine ⟨⟨by decide +kernel, by decide +kernel, by decide +kernel, by decide +kernel, by decide +kernel, by rfl,
      by decide +kernel⟩,
    ⟨by decide +kernel, ok_eq (by decide +kernel), is_ok (by decide +kernel)⟩,
    ⟨by decide +kernel, ok_eq (by decide +kernel), is_error (by decide +kernel)⟩,
    by decide +kernel, by decide +kernel, by decide +kernel, by decide +kernel, by decide +kernel, by rfl,
    fst_none (by decide +kernel)⟩

end Sys2Proof.Tests
end

