-- ==== Sys2Proof/Tests/Events.lean ====
section
/-!
SUPPORT. Small states for gang placement, teams in their slots, partitions, the domain, engines, heads and the device, and
a state that meets the hypotheses of each statement about them.
-/

namespace Sys2Proof.Tests

open Sys2Proof Sys2Proof.Machine

set_option maxRecDepth 20000
set_option exponentiation.threshold 5000
set_option Elab.async false

/-- Launch 9 of queue 0 offers its gang; the partition holds cluster 95 and a context pool of 2 MiB. -/
def offering : State :=
  let s := (served fun q => { q with phase := .placing 9 }).modPart 0 fun p => { p with mask := 2 ^ 95, ctxSize := 1 }
  { s with launches := [(9, { Launch.absent with desc := parseDesc (descOf []) })], gangs := [], teams := [] }

theorem witness_GangPlaced :
    (∃ a b c e, offering.offers = [(a, b, c, e, .fresh 9)]) ∧ tfind offering.launches 9 = some (offering.launch 9) ∧
      (offering.chooseTarget (offering.needOf 9)).map (·.1) = some 380 ∧
      (offering.chooseTarget (offering.needOf 9)).map (·.2) = some offering ∧
      (∃ n, (offering.needOf 9).bytes = some n ∧ ((offering.part 0).takePool n).isSome = true) ∧
      tfind offering.gangs offering.uids = none :=
  ⟨⟨_, _, _, _, rfl⟩, by decide +kernel, by decide +kernel, by decide +kernel, ⟨_, rfl, by decide +kernel⟩, by decide +kernel⟩

/-! ### Teams in their slots -/

/-- Team 2 between two bundles, changed. -/
def idle (f : Team → Team) : State := (mapped (bench 0 (.nop 0))).modTeam 2 fun t => f { t with flight := none }

/-- The idle team, out of its slot, of 8 vector registers, with its image's place at 0x10000. -/
def leaving : State := idle fun t => { t with st := .out, vregs := 8, img := 0x10000 }

/-- That team with its image in memory. -/
def outTeam : State :=
  withBytes (withBytes leaving 0x10000 (leaving.team 2).controlArea) 0x14000 (leaving.team 2).lineArea

theorem controlArea_length : (leaving.team 2).controlArea.length = 0x3000 := by decide +kernel

theorem lineArea_length : (leaving.team 2).lineArea.length = 8 * 32 * 4 := by decide +kernel

/-- Bytes in two runs. -/
theorem readBytes_add (m : Memory) (a x y : Nat) :
    Memory.readBytes m a (x + y) = Memory.readBytes m a x ++ Memory.readBytes m (a + x) y := by
  induction x generalizing a with
  | zero => simp [Memory.readBytes]
  | succ x ih =>
    rw [show x + 1 + y = (x + y) + 1 by omega]
    simp only [Memory.readBytes, List.cons_append, ih]
    rw [show a + 1 + x = a + (x + 1) by omega]

/-- Bytes whose reads are known. -/
theorem readBytes_eq (m : Memory) (l : List Byte) (a : Nat) (h : ∀ k (hk : k < l.length), Memory.read m (a + k) = l[k]) :
    Memory.readBytes m a l.length = l := by
  induction l generalizing a with
  | nil => rfl
  | cons b r ih =>
    simp only [List.length_cons, Memory.readBytes]
    rw [show Memory.read m a = b from h 0 (by simp),
      ih (a + 1) fun k hk => by
        have := h (k + 1) (by simpa using hk)
        rw [List.getElem_cons_succ] at this
        rw [← this, show a + 1 + k = a + (k + 1) by omega]]

/-- The check of a mapped address. -/
theorem check_mapped (s : State) (va : Word) (n : Nat) (h1 : s.issue.pages = [])
    (h2 : tget [] s.ms.l0 384 = [⟨0, 0, 2 ^ 30, 0x1D⟩]) (h3 : (s.part 0).keySet.getLsbD 0 = true) (hv : va.toNat < 2 ^ 30) :
    s.check (keyCtx 0 0) .load va n 1 = .ok (.phys va.toNat 0, ⟨va.toNat, 0, false, true, true, true⟩) := by
  have hc : canonical va = true := by
    have : va.extractLsb' 56 8 = 0 := by
      apply BitVec.eq_of_toNat_eq
      simp only [BitVec.extractLsb'_toNat]
      have : va.toNat >>> 56 = 0 := by rw [Nat.shiftRight_eq_div_pow]; exact Nat.div_eq_of_lt (by omega)
      simp [this]
    simp [canonical, this]
  have hm : va.toNat % 2 ^ 57 = va.toNat := Nat.mod_eq_of_lt (by omega)
  have hp : va.toNat / 2 ^ 30 = 0 := Nat.div_eq_of_lt hv
  have hl : s.cachedLeaf (keyCtx 0 0) (va.toNat % 2 ^ 57) = some ⟨0, 0, 2 ^ 30, 0x1D⟩ := by
    simp only [State.cachedLeaf, h1, keyCtx, h2, hm, List.find?, hp]
    rfl
  rw [hm] at hl
  have hf : leafOf 0x1D (2 ^ 30) va.toNat = ⟨va.toNat, 0, false, true, true, true⟩ := by
    have h8 : bitsOf (0x1D : Word).toNat 51 8 = 0 := by decide
    simp only [leafOf, Nat.mod_eq_of_lt hv, h8, Nat.zero_mul, Nat.zero_add]
    rfl
  have ht : s.target va.toNat = .hbm := if_pos (by omega)
  have hx : s.xlate (keyCtx 0 0) va = .ok ⟨va.toNat, 0, false, true, true, true⟩ := by
    simp only [State.xlate, hc, hl, hm, hf, ht]
    rfl
  have hr : s.recomputeOf (keyCtx 0 0) = none := rfl
  have hk : s.keyOk 0 0 = true := by simp [State.keyOk, h3]
  unfold State.check
  simp only [Nat.mod_one, ne_eq, not_true_eq_false, if_false, hx, hr]
  simp [Leaf.permits, State.areaOk, keyCtx, ht, State.recipeMay]
  have hq : s.recomputeOf ⟨0, 384, none, some 0#12⟩ = none := rfl
  simp only [keyCtx] at hr
  have hz : s.keyOk 0 0#12 = true := hk
  simp [hq, hz, State.reaches, State.keyMay, ht]

/-- Where no line is under a key ID, a read without one finds the bytes of memory. -/
theorem physRead_plain (s : State) (h : s.ms.lineKeys = []) (pa n : Nat) :
    s.physRead 0 pa n = Memory.readBytes s.ms.mem pa n :=
  s.physRead_keyed 0 pa n (by simp [State.keyed, State.otherKeyed, h, tget])

/-- Mapped memory reads as physical memory. -/
theorem readVa_mapped (s : State) (h1 : s.issue.pages = []) (h2 : tget [] s.ms.l0 384 = [⟨0, 0, 2 ^ 30, 0x1D⟩])
    (h3 : (s.part 0).keySet.getLsbD 0 = true) (h4 : s.ms.poisoned = []) (h5 : s.ms.lineKeys = []) (fuel n : Nat) (va : Word)
    (hv : va.toNat + n < 2 ^ 30) (ha : va.toNat % 128 = 0) (hf : n ≤ 128 * fuel) :
    s.readVa (s.tileGate (keyCtx 0 0)) (keyCtx 0 0) .load va fuel n = .ok (Memory.readBytes s.ms.mem va.toNat n) := by
  induction fuel generalizing va n with
  | zero =>
    have : n = 0 := by omega
    subst this
    rfl
  | succ f ih =>
    cases n with
    | zero => rfl
    | succ n =>
      have ht : s.target va.toNat = .hbm := if_pos (by omega)
      have hto : (va + BitVec.ofNat 64 (min (n + 1) 128)).toNat = va.toNat + min (n + 1) 128 := by
        rw [BitVec.toNat_add, BitVec.toNat_ofNat, Nat.mod_eq_of_lt (a := min (n + 1) 128) (by omega),
          Nat.mod_eq_of_lt (by omega)]
      have hp : ∀ k, (s.poisonIn va.toNat k) = none := by
        intro k
        simp [State.poisonIn, h4]
      have e : s.readVa (s.tileGate (keyCtx 0 0)) (keyCtx 0 0) .load (va + BitVec.ofNat 64 (min (n + 1) 128)) f (n + 1 - min (n + 1) 128) =
          .ok (Memory.readBytes s.ms.mem (va.toNat + min (n + 1) 128) (n + 1 - min (n + 1) 128)) := by
        by_cases hn : n + 1 ≤ 128
        · rw [show n + 1 - min (n + 1) 128 = 0 by omega]
          cases f <;> rfl
        · rw [ih _ _ (by rw [hto]; omega) (by rw [hto]; omega) (by omega), hto]
      unfold State.readVa
      have hs : s.selfRefuses (.phys va.toNat 0) 0 = false := by simp [State.selfRefuses, State.homeLoc, ht]
      have hb : s.badAt (keyCtx 0 0).part 0 (.phys va.toNat 0) (min (n + 1) 128) = false := by simp [State.badAt, hp]
      have hr : s.readPiece (keyCtx 0 0) (.phys va.toNat 0) ⟨va.toNat, 0, false, true, true, true⟩ va (min (n + 1) 128) =
          .ok (Memory.readBytes s.ms.mem va.toNat (min (n + 1) 128)) := by
        simp only [State.readPiece, hs, State.homeLoc, State.isRemote, ht, State.readLoc]
        show (if s.badAt (keyCtx 0 0).part 0 (.phys va.toNat 0) (min (n + 1) 128) = true then _
          else Except.ok (s.physRead 0 va.toNat (min (n + 1) 128))) = _
        rw [hb, physRead_plain s h5]
        rfl
      simp only [ha, Nat.sub_zero, check_mapped s va _ h1 h2 h3 (by omega), e, hr, State.tileGate]
      simp [← readBytes_add, show min (n + 1) 128 + (n + 1 - min (n + 1) 128) = n + 1 by omega]

/-- Where an image has been written it is read back. -/
theorem image_read (s : State) (a : Word) (l : List Byte) (h1 : s.issue.pages = [])
    (h2 : tget [] s.ms.l0 384 = [⟨0, 0, 2 ^ 30, 0x1D⟩]) (h3 : (s.part 0).keySet.getLsbD 0 = true) (h4 : s.ms.poisoned = [])
    (h5 : s.ms.lineKeys = []) (hv : a.toNat + l.length < 2 ^ 30) (ha : a.toNat % 128 = 0)
    (hm : ∀ k (hk : k < l.length), Memory.read s.ms.mem (a.toNat + k) = l[k]) :
    s.readMem (keyCtx 0 0) .load a l.length = .ok l := by
  unfold State.readMem
  rw [readVa_mapped s h1 h2 h3 h4 h5 _ _ a hv ha (by omega), readBytes_eq _ _ _ hm]

theorem withBytes_team (s : State) (pa : Nat) (b : List Byte) (u : Nat) : (withBytes s pa b).team u = s.team u := rfl

theorem withBytes_mem (s : State) (pa : Nat) (b : List Byte) :
    (withBytes s pa b).ms.mem = Memory.writeBytes s.ms.mem pa b := rfl

/-- The team with its image is the team as it left. -/
theorem outTeam_team : outTeam.team 2 = leaving.team 2 := by
  unfold outTeam
  rw [withBytes_team, withBytes_team]

/-- The parts of the team's image are read as they were written. -/
theorem outTeam_image :
    outTeam.readMem (outTeam.imageCtx 1) .load 0x10000 0x3000 = .ok (outTeam.team 2).controlArea ∧
      outTeam.readMem (outTeam.imageCtx 1) .load 0x14000 (8 * 32 * 4) = .ok (outTeam.team 2).lineArea := by
  have hc : outTeam.imageCtx 1 = keyCtx 0 0 := by decide +kernel
  rw [hc]
  have hw : Memory.wf leaving.ms.mem = true := by decide +kernel
  have h1 : outTeam.issue.pages = [] := by decide +kernel
  have h2 : tget [] outTeam.ms.l0 384 = [⟨0, 0, 2 ^ 30, 0x1D⟩] := by decide +kernel
  have h3 : (outTeam.part 0).keySet.getLsbD 0 = true := by decide +kernel
  have h4 : outTeam.ms.poisoned = [] := by decide +kernel
  have h5 : outTeam.ms.lineKeys = [] := by decide +kernel
  have hm : outTeam.ms.mem = Memory.writeBytes (Memory.writeBytes leaving.ms.mem 0x10000 (leaving.team 2).controlArea) 0x14000
      (leaving.team 2).lineArea := by
    unfold outTeam
    rw [withBytes_mem, withBytes_mem]
  rw [outTeam_team]
  generalize hca : (leaving.team 2).controlArea = c at hm
  generalize hl : (leaving.team 2).lineArea = l at hm
  have hcl : c.length = 0x3000 := by rw [← hca]; exact controlArea_length
  have hll : l.length = 8 * 32 * 4 := by rw [← hl]; exact lineArea_length
  rw [← hcl, ← hll]
  have e1 : (0x10000 : Word).toNat = 0x10000 := by decide
  have e2 : (0x14000 : Word).toNat = 0x14000 := by decide
  constructor
  · refine image_read outTeam 0x10000 c h1 h2 h3 h4 h5 (by rw [e1]; omega) (by decide) fun k hk => ?_
    rw [hm, e1, Memory.read_writeBytes_out _ _ _ _ (Memory.wf_writeBytes _ _ _ hw) (by omega)]
    exact Memory.read_writeBytes_in _ _ _ _ hw hk
  · refine image_read outTeam 0x14000 l h1 h2 h3 h4 h5 (by rw [e2]; omega) (by decide) fun k hk => ?_
    rw [hm, e2]
    exact Memory.read_writeBytes_in _ _ _ _ (Memory.wf_writeBytes _ _ _ hw) hk

theorem witness_TeamsWake :
    (let s := { idle fun t => { t with st := .blocked, waits := [.join] } with cycle := 12288 }
     (s.team 2).st = .blocked ∧ (s.team 2).since + 4096 ≤ s.tick) ∧
    (let s := idle fun t => { t with st := .parked, waits := [.join] }
     (s.team 2).ended = false ∧ (s.team 2).stopped = false ∧ (s.part (s.gang (s.team 2).gang).part).st = .running ∧
       (s.team 2).st ≠ .out ∧ (s.team 2).st ≠ .draining ∧ ∃ c ∈ (s.team 2).waits, s.waitHolds 2 c = true) ∧
    (let s := idle fun t => { t with st := .parked, waits := [.join], joinCnt := 1 }
     ∀ c ∈ (s.team 2).waits, s.waitHolds 2 c = false) ∧
    (tsorted outTeam.teams = true ∧ outTeam.nextReturn 0 = some 2 ∧ (outTeam.team 2).handler = none ∧ (∃ k r, outTeam.freeSlots 0 = k :: r) ∧
      outTeam.readMem (outTeam.imageCtx 1) .load 0x10000 0x3000 = .ok (outTeam.team 2).controlArea ∧
      outTeam.readMem (outTeam.imageCtx 1) .load 0x14000 (8 * 32 * 4) = .ok (outTeam.team 2).lineArea) ∧
    (let s := (idle id).modGang 1 fun g => { g with suspended := true, imgLen := 4096 }
     (s.gang 1).suspended = true ∧ (s.part 0).resident = true ∧ (s.gang 1).imgLen ≠ 0 ∧ (s.gang 1).tilesOut = false ∧
       (s.gang 1).trellis = []) := by
  refine ⟨by decide +kernel, by decide +kernel, ?_, ⟨by decide +kernel, by decide +kernel, by decide +kernel, List.exists_cons_of_ne_nil (by decide +kernel),
      outTeam_image⟩, by decide +kernel⟩
  intro s c h
  have : c = .join := by
    have e : (s.team 2).waits = [.join] := by decide +kernel
    rw [e] at h
    exact List.mem_singleton.mp h
  subst this
  decide +kernel

theorem witness_FrontEnd :
    (idle id).chooseTeam 0 = some 2 ∧
    (ready.anyRunnable 5 = false ∧ (ready.core 5).fills = [] ∧ ∀ x ∈ (ready.core 5).due, x.1 < ready.cycle) ∧
    (let s := (idle id).modCore 0 fun c => { c with gated := true }
     (s.core 0).gated = true ∧ s.anyRunnable 0 = true) ∧
    (let f : Fill := ⟨0, { Image.absent with codeBase := 0x1000 }, 0, 0, 1, [], 0, ⟨[], false⟩⟩
     let s := (idle id).modCore 0 fun c => { c with fills := [f] }
     (s.core 0).fills[0]? = some f ∧
       (∃ w, ({ s with issue := { s.issue with pages := f.old.pages } } : State).fillWords ⟨0, 0, none, none⟩ f.image 0 1 = .ok w) ∧
       ((s.core 0).store.map fun o => frames o.count).sum + frames 1 ≤ 64) :=
  ⟨by decide +kernel, by decide +kernel, by decide +kernel, rfl, is_ok (by decide +kernel), by decide +kernel⟩

/-- A child of team 2, which has ended. -/
def childEnded : State :=
  let s := (idle fun t => { t with joinCnt := 1 }).modGang 1 fun g => { g with unseen := [⟨3, false, 1, 0, [0]⟩] }
  { s with teams := tset s.teams 3 { Team.absent with gang := 1, parent := some 2, ended := true, st := .draining } }

theorem witness_TeamsStop :
    (let f : EngineFail := ⟨4, 2, ⟨.xlate, 0⟩⟩
     let s := (idle fun t => { t with contNum := some 4, contFails := [f] }).modGang 1 fun g =>
       { g with hndEn := true, image := { g.image with trapVec := some 0 } }
     (s.team 2).contFail = some f ∧ (s.team 2).st = .runnable ∧ (s.team 2).flight = none ∧ (s.team 2).ended = false ∧
       (s.team 2).handler = none ∧ (s.gang 1).recompute = none ∧ (s.gang 1).hndEn = true ∧
       (s.gang 1).image.trapVec = some 0) ∧
    (let s := idle fun t => { t with fenced := true }
     (s.team 2).fenced = true ∧ (s.team 2).ended = false ∧ s.pausedRays 2 = [] ∧ (s.team 2).st = .runnable ∧
       (s.team 2).flight = none ∧ (s.team 2).held = [] ∧ (s.team 2).storeQ = []) ∧
    (let s := idle fun t => { t with fenced := true, st := .parked }
     s.pausedRays 2 = [] ∧ (s.team 2).st ≠ .runnable) ∧
    (let i : FaultInfo := ⟨.breakpoint, 0, 0, 1⟩
     let s := (idle fun t => { t with stopAsked := some i }).modPart 0 fun p => { p with dbgEn := true }
     (s.part (s.gang (s.team 2).gang).part).dbgEn = true ∧ (s.team 2).stopAsked = some i ∧ (s.team 2).flight = none ∧ (s.team 2).stopped = false ∧ (s.team 2).dispatched = 0 ∧
       (s.team 2).pc = (s.team 2).ckpt.n) ∧
    ((idle id).part ((idle id).gang ((idle id).team 2).gang).part).dbgEn = false ∧
    (let s := { (idle fun t => { t with stopped := true, st := .parked, img := 0x5000, waits := [.service] }).modPart 0 fun p =>
       { p with dbgEn := true } with mgmt := ready.mgmt }
     s.mgmt.phase = 4 ∧ (s.team 2).waits = [.service] ∧ s.stoppedAt 0 0x5001 = some 2 ∧ s.stoppedAt 0 0x5003 = some 2 ∧ (s.team 2).st ≠ .out ∧
       (s.team 2).st ≠ .draining) ∧
    ((childEnded.part (childEnded.gang 1).part).resident = true ∧ tfind childEnded.teams 3 = some (childEnded.team 3) ∧
      tsorted childEnded.teams = true ∧ childEnded.drainedTeam 3 = true ∧ childEnded.lateFails 3 = [] ∧
      (∃ w ∈ childEnded.teams, w.1 ≠ 3 ∧ w.2.gang = (childEnded.team 3).gang) ∧ (childEnded.team 3).parent = some 2 ∧
      (tfind childEnded.teams 2).isSome = true ∧ (childEnded.team 2).st ≠ .out) := by
  refine ⟨?_, ?_, ?_, ?_, ?_, ?_, ?_⟩
  all_goals decide +kernel

/-! ### Partitions and the domain -/

/-- The ready device with partition 0 in a state. -/
def partIn (st : PState) : State :=
  let s := { idle id with mgmt := ready.mgmt }
  s.modPart 0 fun p => { p with st := st }

theorem witness_PartitionControl :
    ((partIn .off).mgmt.phase = 4 ∧ ((partIn .off).part 0).resident = false ∧
      (192 : BitVec 8).toNat + (partIn .off).shadowOthers 0 ≤ 192 ∧ 192 < (193 : BitVec 8).toNat + (partIn .off).shadowOthers 0 ∧
      ((partIn .off).part 0).st = .off ∧ (partIn .off).clustersFree 0 = true ∧
      ((partIn .off).part 0).shadow.toNat + (partIn .off).shadowOthers 0 ≤ 192) ∧
    (((partIn .running).part 0).resident = true ∧ ((partIn .running).part 0).st = .running ∧
      tsorted (partIn .running).teams = true) ∧
    (((partIn .halted).part 0).st = .halted ∧ tsorted (partIn .halted).launches = true) ∧
    (let s := fun (n : BitVec 8) => (partIn .saved).modPart 0 fun q => { q with shadow := n }
     ((s 0).part 0).resident = false ∧ (s 192).generalWays < (s 0).generalWays ∧ (s 0).generalWays ≤ (s 0).generalWays) ∧
    (((partIn .saved).part 0).st = .saved ∧ (partIn .saved).clustersFree 0 = true ∧ tsorted (partIn .saved).launches = true) ∧
    (((partIn .halting).part 0).st = .halting ∧ (partIn .halting).inFlight 0 = false ∧
      ((partIn .halting).part 0).heldByDebug = false) ∧
    (((partIn .saving).part 0).st = .saving ∧ ((partIn .restoring).part 0).st = .restoring) ∧
    (let s := ((partIn .off).modPart 0 fun q => { q with mask := 1 }).modPart 1 fun q => { q with st := .running, mask := 1 }
     s.clustersFree 0 = false) ∧
    (let s := (partIn .off).modPart 0 fun q => { q with shadow := 193 }
     192 < (s.part 0).shadow.toNat + s.shadowOthers 0) := by
  decide +kernel

theorem witness_HoldsAndInvalidation :
    ((partIn .running).mgmt.phase = 4 ∧ tsorted (partIn .running).parts = true ∧ tsorted (partIn .running).teams = true) ∧
    ((partIn .running).part 0).tlbiBusy = false ∧
    (let s := (partIn .running).modPart 0 fun p => { p with tlbiBusy := true }
     (s.part 0).tlbiBusy = true ∧ s.anyAhead 0 = false ∧ ∀ w ∈ (s.part 0).wqs, (w.2.enable && w.2.closeEn) = false) := by
  decide +kernel

/-- The ready device as a member of a domain of two, partition 0 in a state. -/
def member (st : PState) : State := { partIn st with dev := { (partIn st).dev with domEn := true, ndev := 2 } }

/-- A request of n bytes at the start of a member's window. -/
def wanted (k : RemoteKind) (n : Nat) : RemoteReq := ⟨k, 2 ^ 39, n, 0, 2⟩

/-- A collective of one member over n i32 elements at 0x2000, with its result at 0x3000. -/
def collective (n : Nat) (due : Option Nat) : State :=
  let d := recordOf 64 [(0, 8, 0x2000), (8, 8, 0x3000), (0x10, 4, n)] ++ recordOf 16 [(0, 4, 2 ^ 31)] ++ [0, 0]
  (member .running).modGang 1 fun g => { g with
    collNum := 1, colls := [⟨1, 2, d, 0x1000, 1, 0, due, false, ⟨[], false⟩, none⟩] }

/-- A write that is made. -/
def EngWrite.made : EngWrite → Bool
  | .done _ => true
  | _ => false

/-- What a write that is made leaves. -/
theorem made_done {x : EngWrite} (h : EngWrite.made x = true) : ∃ s, x = .done s := by
  cases x with
  | done s => exact ⟨s, rfl⟩
  | fail f s => cases h
  | wait s => cases h

/-- The machine a write leaves. -/
def EngWrite.left (x : EngWrite) : State :=
  match x with
  | .done s => s
  | .fail _ s => s
  | .wait s => s

/-- The machine at the writes of a collective's end. -/
def ending (s : State) : State := s.keeping (.coll 1) ⟨[], false⟩

theorem witness_DomainTraffic :
    ((partIn .off).mgmt.phase = 4 ∧ (∀ x ∈ (partIn .off).parts, x.2.st = .off) ∧
      (let v : BitVec 64 := BitVec.ofNat 64 (2304 * 2 ^ 32 + 2303 * 2 ^ 16)
       bitsOf v.toNat 44 32 = 2304 ∧ bitsOf v.toNat 27 16 < bitsOf v.toNat 44 32) ∧
      (∃ x ∈ (partIn .running).parts, x.2.st ≠ .off) ∧ bitsOf (0 : BitVec 64).toNat 44 32 = 0) ∧
    ((partIn .off).dev.domEn = false ∧ (member .off).dev.domEn = true ∧
      (wanted .load 8).ndev ≤ (member .off).dev.ndev.toNat ∧
      (member .off).keyOk (member .off).dev.domPart.toNat (wanted .load 8).keyId = true ∧
      (member .off).keyOk (member .off).dev.domPart.toNat 7 = false ∧
      (member .off).poisonIn ((wanted .load 8).offset % 2 ^ 39) 8 = none ∧ tsorted (member .off).ms.lineKeys = true ∧
      (member .off).memOk) ∧
    (let y : RemoteOut := ⟨1, wanted .load 8, 0, 0, none, false, .none⟩
     let s := { idle fun t => { t with remote := [y] } with cycle := 600000 }
     (s.team 2).remote = [] ++ y :: [] ∧ y.answer = none ∧ (s.team 2).unacked = [] ∧ (s.team 2).engRemote = [] ∧
       y.sentAt + 200000 ≤ s.tick) ∧
    (let y : RemoteOut := ⟨1, wanted (.store [0]) 1, 0, 0, none, false, .none⟩
     ((idle fun t => { t with unacked := [y] }).team 2).unacked = y :: []) ∧
    (let s := collective 1 none
     ∃ c, (s.gang 1).colls = [c] ∧ c.done = false ∧ (s.part (s.gang 1).part).st = .running ∧ c.old = ⟨[], false⟩ ∧
       c.outcome = none ∧ [[0, 0, 0, 0]].length = collMembers c.desc ∧ treeOk (.leaf 0) (collMembers c.desc) = true ∧
       (∀ b ∈ [([0, 0, 0, 0] : List Byte)], b.length = collSrcLen c.desc) ∧
       (ending s).engGet (s.teamCtx 2) .load 0x2000 4 = .ok [0, 0, 0, 0] ∧
       let x := ((ending s).noteRange (s.teamCtx 2) 0x2000 4).engWrite 2 0x3000 (collResult c.desc [[0, 0, 0, 0]] (.leaf 0))
       let y := (EngWrite.left x).engWrite 2 0x1020 (natBytes 0 8)
       (∃ t, x = .done t) ∧ (∃ t, y = .done t) ∧ (EngWrite.left y).gang 1 = s.gang 1 ∧
         ((EngWrite.left y).part (s.gang 1).part).st = .running) ∧
    (let s := { collective 0 (some 0) with cycle := 6000 }
     let x := fun (c : CollCmd) => ((ending s).spoilDst c).engWrite 2 0x1020 (natBytes FaultCode.collectiveTimeout.num 8)
     ∃ c, (s.gang 1).colls = [c] ∧ c.due = some 0 ∧ 0 + 2000 ≤ s.tick ∧ c.outcome = none ∧ (∃ w, x c = .done w) ∧
       (EngWrite.left (x c)).gang 1 = s.gang 1 ∧ ((EngWrite.left (x c)).part (s.gang 1).part).st = .running) ∧
    ((0x10000 : BitVec 64).getLsbD 16 = true ∧
      ∀ x ∈ (member .running).gangs, x.2.part = 0 → ∀ c ∈ x.2.colls, c.done = true ∨ collGroup c.desc ≠ 0) := by
  refine ⟨by decide +kernel, ⟨by decide +kernel, by decide +kernel, by decide +kernel, by decide +kernel, by decide +kernel,
      by decide +kernel, by decide +kernel, ?_⟩, by decide +kernel, by decide +kernel,
    ⟨_, rfl, rfl, by decide +kernel, rfl, rfl, by decide +kernel, by decide +kernel,
      by decide +kernel, by decide +kernel, made_done (by decide +kernel), made_done (by decide +kernel),
      by decide +kernel, by decide +kernel⟩,
    ⟨_, rfl, rfl, by decide +kernel, rfl, made_done (by decide +kernel), by decide +kernel, by decide +kernel⟩,
    by decide +kernel, by decide +kernel⟩
  show Memory.wf (member .off).ms.mem = true
  decide +kernel

end Sys2Proof.Tests
end

