-- ==== Sys2Proof/Tests/Device.lean ====
section
/-!
SUPPORT. A state and operands that meet the hypotheses of each statement about the engines, the heads, the device, the
host and the step itself.
-/

namespace Sys2Proof.Tests

open Sys2Proof Sys2Proof.Machine

set_option maxRecDepth 20000
set_option exponentiation.threshold 5000
set_option Elab.async false

/-! ### Engines -/

/-- A copy of one byte from 0x2000 to 0x3000. -/
def copyOne : List Byte := recordOf 64 [(0, 8, 0x2000), (8, 8, 0x3000), (0x28, 3, 1)]

/-- A copy of one byte from an address without a translation. -/
def copyNowhere : List Byte := recordOf 64 [(0, 8, 2 ^ 40), (8, 8, 0x3000), (0x28, 3, 1)]

/-- Team 2 with one copy command in its queue. -/
def copying (r : List Byte) (started : Bool) : State :=
  idle fun t => { t with copyNum := 1, copyQ := [⟨1, r, 0, none, started, false, ⟨[], false⟩, 0, []⟩] }

/-- A write that fails without a change. -/
def EngWrite.fails : EngWrite → Bool
  | .fail _ _ => true
  | _ => false

/-- What a failing write leaves. -/
theorem fails_fail {x : EngWrite} (h : EngWrite.fails x = true) : ∃ f s, x = .fail f s := by
  cases x with
  | done s => cases h
  | fail f s => exact ⟨f, s, rfl⟩
  | wait s => cases h

/-- Gang 1 with a running walker over ring 0 of one entry, which reads at va. -/
def walking (va : Nat) : State :=
  (idle id).modGang 1 fun g => { g with
    rings := [(0, ⟨0, 0, 0, true, true, 0, 0, 0, none⟩)]
    walkers := [(0, ⟨recordOf 64 [(0, 8, va), (8, 4, 1)], 0, true, true, false, 2, 0, 0, .xlate, 0, none⟩)] }

theorem witness_CopiesRun :
    (let s := copying copyOne false
     let c : CopyCmd := ⟨1, copyOne, 0, none, false, false, ⟨[], false⟩, 0, []⟩
     (s.team 2).copyQ = [] ++ c :: [] ∧ c.started = false ∧ (s.part (s.gang (s.team 2).gang).part).st = .running) ∧
    (let s := copying copyOne true
     let c : CopyCmd := ⟨1, copyOne, 0, none, true, false, ⟨[], false⟩, 0, []⟩
     let x := (s.keeping (.copy 1) c.old).copyRest 2 c
     (s.team 2).copyQ = c :: [] ∧ (s.team 2).st ≠ .out ∧ (s.team 2).waits = [] ∧ (∃ w, x = .done w) ∧
       (EngWrite.left x).team 2 = { s.team 2 with copyQ := [{ c with row := 1 }], engRemote := [], engFails := [] }) ∧
    (let s := copying copyNowhere true
     let c : CopyCmd := ⟨1, copyNowhere, 0, none, true, false, ⟨[], false⟩, 0, []⟩
     let x := (s.keeping (.copy 1) c.old).copyRest 2 c
     (s.team 2).copyQ = c :: [] ∧ (∃ f w, x = .fail f w) ∧
       (EngWrite.left x).team 2 = { s.team 2 with copyQ := [c], engRemote := [], engFails := [] } ∧
       (s.team 2).ended = false ∧ c.cont = none) ∧
    (let s := (copying copyNowhere true).modTeam 2 fun t => { t with copyQ := t.copyQ.map fun c => { c with cont := some 3 } }
     let c : CopyCmd := ⟨1, copyNowhere, 0, some 3, true, false, ⟨[], false⟩, 0, []⟩
     (s.team 2).copyQ = c :: [] ∧ ∃ f w, (s.keeping (.copy 1) c.old).copyRest 2 c = .fail f w) ∧
    (let s := walking 0x2000
     ((s.gang 1).walker 0).run = true ∧ (s.gang 1).suspended = false ∧ (s.part 0).st = .running ∧
       ((s.gang 1).ring 0).filled < ((s.gang 1).ring 0).size ∧
       (tfind s.teams (s.walkerTeam 1 ((s.gang 1).walker 0))).isSome = true ∧
       ({ s with issue := { s.issue with eng := .walker 0 } } : State).engGet (s.teamCtx 2) .load 0x2000
         ((s.gang 1).ring 0).entryBytes = .ok (recordOf 128 [])) ∧
    (let s := walking (2 ^ 40)
     ((s.gang 1).walker 0).run = true ∧
       ({ s with issue := { s.issue with eng := .walker 0 } } : State).engGet (s.teamCtx 2) .load (2 ^ 40) ((s.gang 1).ring 0).entryBytes = .fail ⟨.xlate, 2 ^ 40⟩) := by
  refine ⟨by decide +kernel, ⟨by decide +kernel, by decide +kernel, rfl, made_done (by decide +kernel),
      by decide +kernel⟩, ⟨by decide +kernel, fails_fail (by decide +kernel), by decide +kernel, by decide +kernel, rfl⟩,
    ⟨by decide +kernel, fails_fail (by decide +kernel)⟩, by decide +kernel, by decide +kernel⟩

/-- A copy of n bytes within the gang store, from 5 to 300. -/
def copyWithin (n : Nat) : List Byte := recordOf 64 [(0, 8, 5), (8, 8, 300), (0x28, 3, n), (0x30, 1, 0x50)]

theorem witness_CopiesRun_row :
    let s := (copying (copyWithin 200) true).modGang 1 fun g => { g with gstore := 1, store := [(5, 7)] }
    let c : CopyCmd := ⟨1, copyWithin 200, 0, none, true, false, ⟨[], false⟩, 0, []⟩
    ((s.team 2).copyQ = c :: [] ∧ (s.team 2).st ≠ .out ∧ (s.team 2).waits = [] ∧ c.row + 1 = copyRows c.rec_ ∧
      copyOp c.rec_ = 0 ∧ copySsp c.rec_ = 1 ∧ copyDsp c.rec_ = 1 ∧ copyLen c.rec_ = 200) ∧
    ((s.gang 1).suspended = false ∧ (s.gang 1).unseen = [] ∧ Memory.wf (s.gang 1).store = true) ∧
    s.storeRead 1 5 200 1 = .ok (.gang 5) ∧ (s.gang 1).checkStore 300 200 1 = .ok (.gang 300) := by
  exact ⟨by decide +kernel, by decide +kernel, by rfl, by rfl⟩

/-- Gang 1 with tile 0 and one command of its Trellis context. -/
def trellised (c : TrellisCmd) : State :=
  (idle id).modGang 1 fun g => { g with ntile := 2, tileKb := 1, tc := [(0, 1)], trellisNum := 1, trellis := [c] }

/-- TZERO of tile 0. -/
def zeroing : TrellisCmd := ⟨1, 2, .tzero 0, [(0, 1)], [], [], 0, 1, 0, false, false, none, ⟨[], false⟩⟩

/-- CBLOAD of codebook 3 from 0x2000, granted. -/
def fetching : TrellisCmd := ⟨1, 2, .cbload 3 0x2000, [], [(3, 0x2000)], [], 0, 1, 0, true, false, none, ⟨[], false⟩⟩

theorem witness_TrellisRuns :
    (let s := trellised zeroing
     let s1 := s.setGang 1
       { s.gang 1 with trellis := (s.gang 1).trellis.map fun y => if y.num = 1 then { y with running := true } else y }
     s.table 0 = [(1, zeroing)] ∧ zeroing.running = false ∧ zeroing.filled = false ∧ (s.part 0).st = .running ∧
       s1.stalls { zeroing with running := true } = false ∧ ∃ w, (s1.keeping (.trellis 1) zeroing.old).trellisWork 0 1 { zeroing with running := true } = .done w) ∧
    (let c := { zeroing with running := true, filled := true }
     ((trellised c).gang 1).trellis = [c] ∧ c.filled = true ∧ c.more = false ∧ c.fail = none ∧
       (trellised c).stalls c = false) ∧
    (let s := trellised fetching
     s.table 0 = [(1, fetching)] ∧ fetching.running = true ∧ fetching.filled = false ∧ fetching.books = [0x2000] ∧
       (∃ k, s.wants 0 fetching 0x2000 = some k) ∧
       ∃ b, (s.keeping (.book 0) fetching.old).engGet (s.teamCtx 2) .load 0x2000 2048 = .ok b) := by
  refine ⟨⟨by decide +kernel, rfl, rfl, by decide +kernel, by decide +kernel, made_done (by decide +kernel)⟩, by decide +kernel,
    by decide +kernel, rfl, rfl, rfl, ⟨_, rfl⟩, ?_⟩
  exact ⟨List.replicate 2048 0, by decide +kernel⟩

theorem witness_TrellisRuns_work :
    (let s := trellised zeroing
     (s.gang 1).badTile zeroing.readsNow = none) ∧
    (let c : TrellisCmd := { zeroing with op := .tmma 0 0 0 1, tcs := [(0, 1), (1, 1)] }
     ((trellised c).gang 1).badTile c.readsNow = none ∧ Memory.wf (((trellised c).gang 1).tile 0).bytes = true) ∧
    (let c : TrellisCmd := { zeroing with op := .tcvt 0 1, tcs := [(0, 2), (1, 1)] }
     ((trellised c).gang 1).badTile c.readsNow = none ∧ tcScale (c.tc 0) = 0 ∧ tcFormat (c.tc 0) = 2) := by
  decide +kernel

/-- A ray of team 2 with some work left, in slot 5 of cluster 0. -/
def tracing (pausedOn : Option (BitVec 32)) (ending : Option Nat) (l : List RayWork) : State :=
  { idle id with
    rays := [(0, [(5, ⟨1, 2, 1, 0x1000, false, false, false, false, some (recordOf 128 []), l, 0, none, 0, 0, false, false,
      pausedOn, 0, ⟨[], false⟩, ending⟩)])] }

/-- A splat job of gang 1 over one pixel, without lists. -/
def splatting (started : Bool) : SplatJob :=
  ⟨1, 2, 1, 0x1000, recordOf 64 [(8, 8, 0x4000), (0x10, 8, 0x5000), (0x18, 8, 0x6000), (0x20, 2, 1), (0x22, 2, 1),
    (0x24, 4, 0x3F800000), (0x34, 4, 1), (0x38, 8, 0x7000)], [], started, ⟨[], false⟩, none⟩

theorem witness_EnginesTraverse :
    (let s := tracing (some 7) none []
     ∃ y, tfind (tget [] s.rays 0) 5 = some y ∧ y.old = ⟨[], false⟩ ∧ s.issue.pages = [] ∧ s.issue.eng = .none ∧
       y.paused ≠ none) ∧
    (let s := tracing none none [.node 0x2000 0x3FF0000000000000]
     ∃ y, tfind (tget [] s.rays 0) 5 = some y ∧ y.paused = none ∧ y.geom ≠ none ∧ y.ending = none ∧
       (!FVal.le (f64.decode 0x3FF0000000000000) (f64.decode y.tcur.toNat)) = true) ∧
    (let s := tracing none none [.node 0x2000 0xFFF0000000000000]
     ∃ y, tfind (tget [] s.rays 0) 5 = some y ∧
       (!FVal.le (f64.decode 0xFFF0000000000000) (f64.decode y.tcur.toNat)) = false ∧ y.log = false ∧ y.replay = false ∧
       (s.keeping (.ray 0 5) y.old).engGet ⟨0, 0, some 2, none⟩ .load 0x2000 128 = .ok (recordOf 128 []) ∧ boxOk (recordOf 128 []) = true) ∧
    (let s := withBytes (tracing none none [.block 0x2000 0xFFF0000000000000]) 0x2000 [1]
     ∃ y, tfind (tget [] s.rays 0) 5 = some y ∧
       (s.keeping (.ray 0 5) y.old).engGet ⟨0, 0, some 2, none⟩ .load 0x2000 256 = .ok (recordOf 256 [(0, 1, 1)]) ∧
       blockOk (recordOf 256 [(0, 1, 1)]) = true ∧ (y.testTris (recordOf 256 [(0, 1, 1)]) 1 0 0).2.2 = false) ∧
    (let s := tracing none none []
     ∃ y, tfind (tget [] s.rays 0) 5 = some y ∧ y.stack = [] ∧ y.replay = false) ∧
    (let s := tracing none (some 1) []
     ∃ y, tfind (tget [] s.rays 0) 5 = some y ∧ y.paused = none ∧ y.geom ≠ none ∧ y.ending = some 1 ∧
       ∃ w, (s.keeping (.ray 0 5) y.old).engWrite 2 (y.addr + 0x20) (y.hitBlock 1) = .done w) ∧
    (let s := { idle id with splats := [(0, [splatting false])] }
     tget [] s.splats 0 = splatting false :: [] ∧ (splatting false).started = false ∧ (s.part 0).st = .running) ∧
    (let s := { idle id with splats := [(0, [splatting true])] }
     let x := (s.keeping (.splat 1) (splatting true).old).splatPixels (splatting true) [] 1 0
     tget [] s.splats 0 = splatting true :: [] ∧ (splatting true).started = true ∧
       (splatting true).outcome = none ∧ (splatting true).lists = [] ∧
       (∃ w, x = .done w) ∧ fieldAt (splatting true).desc 0x38 8 = 0x7000 ∧
       ∃ v, (EngWrite.left x).engWrite 2 0x7000 (List.replicate 16 0) = .done v) := by
  refine ⟨⟨_, rfl, rfl, rfl, rfl, by decide⟩, ⟨_, rfl, by decide +kernel⟩, ⟨_, rfl, by decide +kernel⟩,
    ⟨_, rfl, by decide +kernel⟩, ⟨_, rfl, rfl, rfl⟩,
    ⟨_, rfl, rfl, by decide +kernel, rfl, made_done (by decide +kernel)⟩, by decide +kernel, rfl, rfl, rfl, rfl,
    made_done (by decide +kernel), by decide +kernel, made_done (by decide +kernel)⟩

/-- A splat over pixel (0, 0) of opacity one half, whose feature is a block of zeros. -/
theorem witness_EnginesTraverse_pixel :
    let p : Splat := ⟨.fin false 1 (-1), .fin false 1 (-1), .fin false 1 0, .fin false 0 0, .fin false 1 0, 0, .fin false 1 (-1), 0⟩
    let one : FVal := .fin false 1 0
    let zero : FVal := .fin false 0 0
    let add := fun (a b : FVal) => rdf (FVal.add false a b)
    let mul := fun (a b : FVal) => rdf (FVal.mul a b)
    let dx := add (.fin false 1 (-1)) p.cx.neg
    let dy := add (.fin false 1 (-1)) p.cy.neg
    let q := FVal.add false (FVal.add false (FVal.mul p.qa (FVal.mul dx dx))
      (FVal.mul (.fin false 2 0) (FVal.mul p.qb (FVal.mul dx dy)))) (FVal.mul p.qc (FVal.mul dy dy))
    let a := mul p.opacity (f32.decode (FVal.expBits .rne (FVal.mul (.fin true 1 (-1)) (rdf q))))
    (FVal.lt one (f32.decode (fieldAt (splatting true).desc 0x24 4)) = false ∧ FVal.le (f32.decode 0x3F7D70A4) a = false ∧
      FVal.lt a (f32.decode 0x3B808081) = false ∧ FVal.lt zero (add one (mul one (add one a.neg)).neg) = true) ∧
    (idle id).engGet ((idle id).teamCtx 2) .load (BitVec.ofNat 64 (fieldAt (splatting true).desc 0 8) + BitVec.ofNat 64 0) 32 =
      .ok (List.replicate 32 0) := by
  exact ⟨by decide +kernel, by decide +kernel⟩

/-- A store of one byte to recipe tile 0 that has not been performed yet, the tile's record in state st. -/
def tileStoring (st : Nat) : State :=
  (recipes st 0).modTeam 2 fun t => { t with flight := none, storeQ := [⟨.recipe 0 5, 2 ^ 30 + 5, [9], false, 0, 0⟩] }

/-- A store to a tile that is performed. -/
def TileStore.performed : TileStore → Bool
  | .done _ => true
  | _ => false

/-- What performing it leaves. -/
theorem performed_done {x : TileStore} (h : TileStore.performed x = true) : ∃ s, x = .done s := by
  cases x with
  | done s => exact ⟨s, rfl⟩
  | refused f => cases h
  | wait n => cases h

/-- A store to a tile that is refused. -/
def TileStore.isRefused : TileStore → Bool
  | .refused _ => true
  | _ => false

/-- Why it is refused. -/
theorem isRefused_refused {x : TileStore} (h : TileStore.isRefused x = true) : ∃ f, x = .refused f := by
  cases x with
  | done s => cases h
  | refused f => exact ⟨f, rfl⟩
  | wait n => cases h

/-- A store to a tile that waits. -/
def TileStore.waits : TileStore → Bool
  | .wait _ => true
  | _ => false

/-- The tile it waits for. -/
theorem waits_wait {x : TileStore} (h : TileStore.waits x = true) : ∃ n, x = .wait n := by
  cases x with
  | done s => cases h
  | refused f => cases h
  | wait n => exact ⟨n, rfl⟩

theorem witness_LinesLeave :
    (let s := (idle id).modGang 1 fun g => { g with locks := [0x1000] }
     lineOf 0x1001 ∈ s.lockedLines ∧ lineOf 0x2001 ∉ s.lockedLines ∧ s.target (lineOf 0x2001) ≠ .fx) ∧
    (let s := (recipes 2 0).modPart 0 fun p => { p with rtiles := [(0, ⟨0, [], true, none, [], 0, []⟩)] }
     s.tileState 0 0 = .ok .sealed ∧ ((s.part 0).rtile 0).pins = 0 ∧ s.hpin 0 0 = false) ∧
    (recipes 3 0).tileState 0 0 = .ok .dropped ∧
    (let s := (tileStoring 1).modPart 0 fun p => { p with lockQuota := 4 }
     let h : HeldStore := ⟨.recipe 0 5, 2 ^ 30 + 5, [9], false, 0, 0⟩
     (s.team 2).storeQ = h :: [] ∧ ∃ w, s.tileStore 0 (some 1) 0 5 h.va h.data = .done w) ∧
    (let s := ((tileStoring 1).modPart 0 fun p => { p with
       lockQuota := 0, rtiles := [(0, ⟨0, [], true, some 1, [], 0, []⟩), (1, ⟨1, [], true, some 1, [], 0, []⟩)] })
     let x := withBytes s 0x10040 (recordOf 64 [(0, 4, 2 + 8 * 2 ^ 16)])
     ∃ n, x.tileStore 0 (some 1) 0 5 (2 ^ 30 + 5) [9] = .wait n) ∧
    (∃ f, (recipes 7 0).tileState 0 0 = .error f) ∧
    ∃ f, (tileStoring 3).tileStore 0 (some 1) 0 5 (2 ^ 30 + 5) [9] = .refused f := by
  refine ⟨by decide +kernel, ⟨by rfl, by decide +kernel, by decide +kernel⟩, by rfl,
    ⟨by decide +kernel, performed_done (by decide +kernel)⟩, waits_wait (by decide +kernel), ⟨_, rfl⟩,
    isRefused_refused (by decide +kernel)⟩

/-! ### Heads -/

/-- A head whose descriptor is a block of zeros with one line core, running or not. -/
def headIn (run en : Bool) : Head := { Head.reset with desc := recordOf 256 [(4, 4, 1)], run := run, en := en }

/-- The ready device with head 4 as given, its memory mapped. -/
def headed (x : Head) : State :=
  let e : TlbEntry := ⟨0, 1, 2 ^ 30, 2 ^ 49 + 0x1D⟩
  let s := { mapped ready with heads := [(4, x)] }
  { s with ms := { s.ms with l0 := s.ms.l0.map fun x => (x.1, e :: x.2) }, dev := { s.dev with fxSize := 1 } }

/-- A head descriptor of one line of one pixel: slots in the frame exchange range at 1 GiB, timetable at 0xC000, band
program at 0xD000, surface at 0xE000. -/
def headDesc : List Byte :=
  recordOf 256 [(4, 4, 1), (8, 8, 4 * 2 ^ 32 + 5 * 2 ^ 48), (0x10, 4, 100), (0x1A, 2, 1), (0x20, 8, 2 ^ 30), (0x28, 8, 0xD000),
    (0x30, 4, 1), (0x38, 8, 0xC000), (0x50, 8, 0xE000), (0x58, 4, 8)]

/-- Head 4 with a valid descriptor at 0xB000. -/
def enabling : State := withBytes (withBytes (headed Head.reset) 0xB000 headDesc) 0xC000 [0, 0, 3, 0]

theorem witness_Heads :
    ((headed (headIn true true)).mgmt.phase = 4 ∧ ((headed (headIn true true)).head 4).en = true) ∧
    (((headed Head.reset).head 4).en = false ∧ ((headed Head.reset).head 4).run = false ∧
      ((headed Head.reset).modHead 4 fun y => y.configure 0xB001).headRead 4 false = none) ∧
    (∃ y prog, (enabling.modHead 4 fun y => y.configure 0xB001).headRead 4 false = some (y, prog)) ∧
    (let s := headed { headIn true false with stopping := true }
     (s.head 4).en = false ∧ (s.head 4).stopping = true ∧ s.lineCores = []) ∧
    (let s := headed { headIn true false with epoch := 1 }
     (s.head 4).tickDue 4 s.tick = false) ∧
    (let s := headed (headIn true false)
     (s.head 4).run = true ∧ (s.head 4).tickDue 4 s.tick = true ∧ (s.head 4).en = false) ∧
    (let s := headed { headIn true true with start := 1 }
     (s.head 4).run = true ∧ (s.head 4).tickDue 4 s.tick = true ∧ (s.head 4).en = true ∧ s.frameOver 4 ((s.head 4).ltc + 1 - (s.head 4).start).toNat = false) ∧
    (let s := headed (headIn true true)
     s.frameOver 4 ((s.head 4).ltc + 1 - (s.head 4).start).toNat = true) ∧
    (let b : BandState := ⟨0, 1, [], [], false, 0, false, false⟩
     let x := { headIn true true with bands := [(0, b)] }
     let s := headed x
     (s.lineCore 0).run = none ∧ tfind s.heads 4 = some (s.head 4) ∧ tsorted s.heads = true ∧ (s.head 4).slipped = false ∧
       (s.head 4).stopping = false ∧ (s.head 4).run = true ∧
       tsorted (s.head 4).bands = true ∧ tfind (s.head 4).bands 0 = some b) := by
  refine ⟨by decide +kernel, ⟨by decide +kernel, by decide +kernel, by decide +kernel⟩, ?_, by decide +kernel, by decide +kernel,
    by decide +kernel, by decide +kernel, by decide +kernel, by decide +kernel⟩
  have h : ((enabling.modHead 4 fun y => y.configure 0xB001).headRead 4 false).isSome = true := by decide +kernel
  exact ⟨_, _, (Option.some_get h).symm⟩

/-! ### The device and the whole machine -/

theorem witness_DeviceManagement :
    (State.reset.mgmt.phase ≠ 4 ∧ State.reset.mgmt.phase.toNat < 4 ∧ State.reset.mgmt.recov = false ∧ ready.mgmt.phase = 4 ∧
      (let m := { State.reset.mgmt with phase := 1 }; m.phase = 1 ∧ m.recov = false) ∧ 3 ≤ ready.mgmt.phase.toNat) ∧
    (let m := fun (n : BitVec 3) (up : Bool) => { State.reset.mgmt with phase := n, linkUp := up }
     let f : Firmware := ⟨[1], []⟩
     ((m 3 false).phase = 3 ∧ (m 3 false).linkUp = false) ∧ ((m 3 true).phase = 3 ∧ (m 3 true).linkUp = true) ∧
       ((m 2 false).phase = 2 ∧ (m 2 false).recov = false) ∧ Memory.wf State.reset.ms.mem = true ∧
       [f][0]? = some f ∧ ¬ f.signature.length = 2820) ∧
    (tfind (idle id).gangs 1).isSome = true ∧
    ((1 : BitVec 12) ≠ 0 ∧ (1 : BitVec 12).toNat ∉ ready.mgmt.keys ∧ ready.mgmt.attCount < 2 ^ 20 ∧
      2 ^ 20 ≤ ({ ready.mgmt with attCount := 2 ^ 20 } : Mgmt).attCount) ∧
    (let at_ := fun (t : Int) (c : Int) => 16 * c ≤ t
     at_ 1760 ready.mgmt.trip.toNat ∧ ¬ at_ 1759 ready.mgmt.trip.toNat ∧ at_ 1600 ready.mgmt.throtAt.toNat ∧
       ¬ at_ 1599 ready.mgmt.throtAt.toNat ∧ at_ 1520 (ready.mgmt.throtAt.toNat - 5) ∧
       ¬ at_ 1519 (ready.mgmt.throtAt.toNat - 5)) ∧
    (let s := { ready with cycle := 3000000, mgmt := { ready.mgmt with throt := true, coolAt := 1 } }
     s.mgmt.throt = true ∧ 0 < s.mgmt.coolAt ∧ s.mgmt.coolAt + 999999 ≤ s.tick) := by
  decide +kernel

theorem witness_HostAndTrace :
    (¬ State.reset.mgmt.phase = 4 ∧ ready.mgmt.phase = 4 ∧ (⟨2, true, false⟩ : RegAccess).size ≠ 4 ∧
      (ready.part 7).resident = false ∧ ((partIn .running).part 0).resident = true ∧
      ({ ready.mgmt with phase := 3 } : Mgmt).phase = 3 ∧ ready.mgmt.exposed.1 + ready.mgmt.exposed.2 < 0 + 4) ∧
    ((∀ h ∈ ready.heads, h.2.en = false ∧ h.2.run = false) ∧ ((9 : BitVec 64).extractLsb' 0 4).toNat < 10 ∧
      10 ≤ ((10 : BitVec 64).extractLsb' 0 4).toNat ∧ (∃ h ∈ (headed (headIn true true)).heads, h.2.en = true ∨ h.2.run = true) ∧
      Memory.wf ready.ms.mem = true) ∧
    (let s := { ready with mgmt := { ready.mgmt with hdm := 512 } }
     s.mgmt.exposed.1 ≤ 2 ^ 39 - 4 ∧ 2 ^ 39 - 4 + 4 ≤ s.mgmt.exposed.1 + s.mgmt.exposed.2 ∧
       bitsOf s.mgmt.hdm.toNat 43 32 = 0 ∧ s.poisonIn (2 ^ 39 - 4) 4 = none) ∧
    (let m := { ready.mgmt with hdm := 2 ^ 32 }
     bitsOf m.hdm.toNat 43 32 ≠ 0 ∧ bitsOf m.hdm.toNat 43 32 ∉ m.keys) ∧
    (ready.mgmt.railOn = true ∧ ready.mgmt.linkUp = true ∧ ({ ready.mgmt with linkUp := false } : Mgmt).linkUp = false ∧
      ({ ready.mgmt with railOn := false } : Mgmt).railOn = false ∧ tsorted ready.ms.lineKeys = true) ∧
    (State.reset.trace.link = false ∧ State.reset.trace.everUp = false ∧
      ({ State.reset.trace with link := true } : Trace).link = true ∧
      ({ State.reset.trace with everUp := true } : Trace).everUp = true) := by
  decide +kernel

/-- 02 Tables 2-4, 2-5: an 8-byte write of 2^32 + 0x50 to PARTCTL sets SHADOW 1 and starts the partition; it then reads SHADOW 1,
STATE 1 and EN 1, and PARTSTAT at 0x08_1000 of its control page 1. -/
theorem test_partctl_write_and_read :
    (match execRegisterWrite (.partCtl 3) ⟨8, true, false⟩ 0x100000050 ready with
     | .next t => (t.hostRead (.partCtl 3) ⟨8, true, false⟩, t.barRead true 0x681000 8, t.barRead true 0x681000 2)
     | _ => (none, none, none)) = (some 0x100010001, some 1, some 0) := by decide +kernel

/-- 10 R228: an error in byte 0x84 of a gang's store poisons the line at 0x80, which a write of 128 bytes at 0x80 mends
and one of 128 at 0x90 does not. -/
theorem test_poison_of_a_gang_store :
    (let s := ({ ready with gangs := [(1, Gang.absent)] } : State).poison (.gang 1 0x84)
     (badLine (s.gang 1).bad 0xFF 1, badLine (s.gang 1).bad 0x100 4, mended (s.gang 1).bad 0x80 128,
       mended (s.gang 1).bad 0x90 128)) = (some 0x80, none, [], [0x80]) := by decide +kernel

/-- 02 Table 2-2: page 5 of BAR2 holds queue 5; a LQBASE write of 0x12345 keeps bits 63:8, and its high half reads 0. -/
theorem test_queue_page :
    (match ready.barWrite false 0x5008 8 0x12345 with
     | .next t => (t.barRead false 0x5008 4, t.barRead false 0x500C 4, t.barRead false 0x6008 8)
     | _ => (none, none, none)) = (some 0x12300, some 0, some 0) := by decide +kernel

theorem witness_StepRunsDecoded :
    (let w : BitVec 128 := 0x000000005200E4124000828C00406091
     let s := State.reset.withBundle w 0
     s.mgmt.railOn = true ∧ s.agenda = ⟨0, .team 2⟩ :: [] ∧ s.mayFetch 2 = true ∧ (s.team 2).flight = none ∧
       (s.team 2).fenced = false ∧ (s.team 2).contFail = none ∧ (s.core 0).fetched = none ∧ (s.core 0).acted = none ∧
       (s.team 2).pc < (s.gang 1).image.codeLen ∧ (s.gang 1).image.ovlOf 0 = some (0, ⟨0, 1, false⟩) ∧
       (∃ ov, (s.core 0).resident 0 (s.gang 1).image 0 = some ov ∧ tget 0 ov.words 0 = w) ∧ bundleHasLiteral w = false ∧
       (∃ b, decodeBundle none (fun i => decide (i.vTop ≤ 224) && decide (i.tTop ≤ 32)) w 0 = .ok b) ∧
       (s.team 2).skipLand = false ∧ (s.team 2).stopAsked = none ∧ (s.team 2).storeFails = [] ∧ (s.team 2).held = [] ∧
       (s.team 2).storeQ = []) ∧
    (let s := bench 0 (.sadd ⟨0, 4, 1, .imm 5⟩)
     ∃ f, (s.team 2).flight = some f ∧ f.done.getLsbD 0 = false ∧ mayRun f.bundle f.done 0 = true ∧ s.breakAt 2 0 = false ∧
       (s.team 2).stepOne = false ∧ f.oversize = false) ∧
    (let s := { State.reset with agenda := [⟨0, .ev .powerLoss⟩] }
     s.mgmt.railOn = true ∧ s.agenda = ⟨0, .ev .powerLoss⟩ :: [] ∧ Instr.powerLoss.enc = .step) := by
  refine ⟨⟨rfl, rfl, by decide +kernel, rfl, rfl, rfl, rfl, rfl, by decide +kernel, by decide +kernel, ⟨_, rfl, by decide +kernel⟩, by decide +kernel,
      ⟨_, rfl⟩, by decide +kernel⟩,
    ⟨_, rfl, by decide +kernel⟩, by decide +kernel⟩

/-- Team 2 with the slots of its bundle done and a flow chosen, changed. -/
def leavingBy (x : Flow) (f : Team → Team) : State :=
  (bench 0 (.nop 0)).modTeam 2 fun t => f { t with flight := t.flight.map fun y => { y with done := 0xF, flow := x } }

theorem witness_StepRunsDecoded_flow :
    (∀ x ∈ [Flow.seq, .leave 5, .jump 7, .ended, .cont 1 4], let s := leavingBy x id
      ∃ f, (s.team 2).flight = some f ∧ f.flow = x ∧ f.done = 0xF ∧ f.oversize = false ∧ (s.team 2).fenced = false ∧
        (s.team 2).ended = false ∧ (s.team 2).handler = none ∧ (s.gang (s.team 2).gang).recompute = none) ∧
    (let s := leavingBy (.tret 1) fun t => { t with handler := (handling (.nop 0)).me.handler }
     ∃ f h, (s.team 2).flight = some f ∧ f.flow = .tret 1 ∧ (s.team 2).handler = some h) ∧
    (let s := leavingBy .seq fun t => { t with regs := { t.regs with
       loops := [⟨0, 0, 1, 0, 0, false, 0⟩, ⟨3, 0, 2, 0, 0, false, 0⟩] } }
     s.teamLoops 2 0 = ([⟨3, 0, 1, 0, 0, false, 0⟩], 3)) := by
  refine ⟨?_, ⟨_, _, rfl, rfl, rfl⟩, by decide +kernel⟩
  intro x h
  simp only [List.mem_cons, List.not_mem_nil, or_false] at h
  rcases h with rfl | rfl | rfl | rfl | rfl <;>
  exact ⟨_, rfl, rfl, by decide +kernel⟩

theorem witness_LineStepRunsDecoded :
    (let s := State.reset.withLineBundle 0
     s.mgmt.railOn = true ∧ s.agenda = ⟨0, .lineCore 0⟩ :: [] ∧ (∃ b, (s.lineCore 0).run = some b ∧
       let q := ({ s with agenda := [] } : State).ticksHeld b.head
       (q.lineCore 0).run = some b ∧ (q.lineCore 0).pc < fieldAt (q.head b.head).desc 0x30 4) ∧ (∃ i, decodeBelv 0 0 = .ok i) ∧
       ∃ c, decodeBelv 0 0x3F000000 = .error c) ∧
    (let s := fun (i : Instr) => { State.reset with agenda := [⟨0, .ev i⟩], mgmt := { State.reset.mgmt with railOn := false } }
     (s .powerLoss).mgmt.railOn = false ∧ (s (.deviceReset false)).agenda = ⟨0, .ev (.deviceReset false)⟩ :: [] ∧
       (s (.thermalSample [] 0 0)).agenda = ⟨0, .ev (.thermalSample [] 0 0)⟩ :: []) := by
  exact ⟨⟨by decide +kernel, by decide +kernel, ⟨_, rfl, rfl, by decide +kernel⟩, ⟨_, rfl⟩, is_error (by decide +kernel)⟩, rfl, rfl, rfl⟩

/-- A head of 100 ticks a line, enabled at tick 400, whose next boundary the display cycle at tick 500 holds; the run that
its disabling stops then; and the bundles of a line core that are done. -/
theorem witness_LineStepRunsDecoded_ticks :
    (let x := { headIn true false with desc := recordOf 256 [(4, 4, 1), (0x10, 4, 100)], epoch := 400 }
     let s := { headed x with cycle := 1500, lineCores := [(0, { LineCore.reset with run := some ⟨4, 0, 0, 0, 0, []⟩ })] }
     let p := (s.head 4).period 4
     0 < p.1 ∧ (s.head 4).run = true ∧
       8 * ((s.head 4).epoch * p.2 + ((s.head 4).ltc.toNat + 1) * p.1) < (s.cycle * 8 / 15 + 1) * 5 * p.2 ∧
       8 * ((s.head 4).epoch * p.2 + ((s.head 4).ltc.toNat + 2) * p.1) ≥ (s.cycle * 8 / 15 + 1) * 5 * p.2 ∧
       ((s.ticksHeld 4).lineCore 0).run = none) ∧
    (∀ x ∈ [Flow.seq, .leave 5, .jump 7, .ended],
      let s := (State.reset.withLineBundle 0).modLineCore 0 fun c => { c with flow := x }
      (s.lineCore 0).flow = x ∧ (s.lineCore 0).failed = none ∧ (s.lineCore 0).waiting = false ∧
        (s.lineCore 0).run.isSome = true) := by
  refine ⟨by decide +kernel, ?_⟩
  intro x h
  simp only [List.mem_cons, List.not_mem_nil, or_false] at h
  rcases h with rfl | rfl | rfl | rfl <;> exact ⟨rfl, by decide +kernel⟩

theorem witness_DecodeEncode :
    (Instr.vaddI32 ⟨7, 223, 239, .reg 255⟩).wf = true ∧ (Instr.vaddI32 ⟨7, 223, 239, .reg 255⟩).enc ≠ .step ∧
      (Instr.vaddI32 ⟨7, 223, 239, .reg 255⟩).isBelv = false ∧ (Instr.gadd ⟨31, 31, 63, 0, 1⟩).wf = true ∧
      (Instr.gadd ⟨31, 31, 63, 0, 1⟩).isBelv = true := by
  decide +kernel

/-- The memory a step leaves, where it answers a next state. -/
def nextMem (x : Host.Outcome State Fault Refusal) : Option Memory :=
  match x with
  | .next t => some t.ms.mem
  | _ => none

theorem witness_StepKeepsMemory :
    Memory.wf (State.reset.withBundle 0x000000005200E4124000828C00406091 0).ms.mem = true ∧
      ∃ t, step (State.reset.withBundle 0x000000005200E4124000828C00406091 0) = .next t := by
  refine ⟨by decide +kernel, ?_⟩
  have h : nextMem (step (State.reset.withBundle 0x000000005200E4124000828C00406091 0)) = some [] := by decide +kernel
  generalize step (State.reset.withBundle 0x000000005200E4124000828C00406091 0) = x at h
  cases x with
  | next t => exact ⟨t, rfl⟩
  | fault f => cases h
  | refused r => cases h

end Sys2Proof.Tests
end

