-- ==== Sys2Proof/Tests/Slice0.lean ====
section
/-!
SUPPORT. Tests of the author's own: ill-formed terms that each check refuses, words written out from the spec's
encoding tables, and single steps whose results the spec gives.
-/

namespace Sys2Proof.Tests

open Sys2Proof Sys2Proof.Machine

set_option maxRecDepth 20000
set_option exponentiation.threshold 5000
set_option Elab.async false

/-! ### Operand classes -/

theorem test_class_unused : OpClass.unused.ok 0 = true ∧ OpClass.unused.ok 1 = false := by decide

theorem test_class_reg : (OpClass.reg 8).ok 7 = true ∧ (OpClass.reg 8).ok 8 = false := by decide

theorem test_class_vec :
    (OpClass.vec 2 2).ok 222 = true ∧ (OpClass.vec 2 2).ok 3 = false ∧ (OpClass.vec 1 1).ok 224 = false ∧
      (OpClass.vec 1 2).ok 223 = false := by decide

theorem test_class_ring :
    (OpClass.vecRing true).ok 224 = true ∧ (OpClass.vecRing true).ok 225 = false ∧ (OpClass.vecRing false).ok 225 = true := by
  decide

theorem test_class_raw : OpClass.raw.ok 63 = true ∧ OpClass.raw.ok 64 = false := by decide

theorem test_second_unused : BClass.unused.ok (.reg 0) = true ∧ BClass.unused.ok (.reg 1) = false ∧
    BClass.unused.ok (.imm 0) = false := by decide

theorem test_second_register : (BClass.regOnly (.reg 8)).ok (.reg 8) = false ∧ (BClass.regOnly (.reg 8)).ok (.imm 1) = false := by
  decide

theorem test_second_code : (BClass.code 1 5).ok (.imm 5) = true ∧ (BClass.code 1 5).ok (.imm 0) = false ∧
    (BClass.code 1 5).ok (.imm 6) = false ∧ (BClass.code 1 5).ok (.reg 3) = false := by decide

theorem test_second_value : (BClass.value (.vec 2 2) true).ok (.reg 3) = false ∧ (BClass.value (.vec 2 2) true).ok (.lit 1 0) = false ∧
    (BClass.value (.vec 2 2) true).ok (.lit 2 0) = true := by decide

theorem test_second_either : (BClass.regOrCode (.reg 64) 0 3).ok (.reg 64) = false ∧ (BClass.regOrCode (.reg 64) 0 3).ok (.imm 4) = false := by
  decide

theorem test_second_bytes : (BClass.b8x4 (.vec 1 1)).ok (.imm 1) = false ∧ (BClass.b8x4 (.vec 1 1)).ok (.reg 224) = false := by decide

/-! ### Ill-formed operations -/

/-- A scalar register above s63, an odd first register of a 64-bit pair, a literal in an S slot, a guard where the field
is 0, and tiles that are not distinct. -/
theorem test_ill_three_operand :
    (Instr.sadd ⟨0, 64, 0, .reg 0⟩).wf = false ∧ (Instr.vaddI64 ⟨0, 5, 4, .reg 6⟩).wf = false ∧
      (Instr.sadd ⟨0, 1, 1, .lit 0 0⟩).wf = false ∧ (Instr.ckpt ⟨1, 0, 0, .reg 0⟩).wf = false ∧
      (Instr.tmma ⟨0, 1, 1, .reg 2⟩).wf = false := by decide +kernel

/-- A scope above 5, a scope TLSIG does not list, and a no-return bit on a fence. -/
theorem test_ill_atomic : (Instr.fence ⟨0, 0, 0, 6, false⟩).wf = false ∧ (Instr.tlsig ⟨0, 1, 2, 4, false⟩).wf = false ∧
    (Instr.fence ⟨0, 0, 0, 1, true⟩).wf = false := by
  decide +kernel

/-- A loop of length 0, and a mask loop that counts. -/
theorem test_ill_loop : (Instr.loopOp ⟨1, 0⟩).wf = false ∧ (Instr.loopw ⟨32, 4⟩).wf = false := by decide +kernel

/-- A general register above g31, and a transform past the last register. -/
theorem test_ill_line_registers : (Instr.gadd ⟨32, 0, 0, 0, 0⟩).wf = false ∧ (Instr.pxform ⟨62, 0, 0, 0, 0⟩).wf = false := by
  decide +kernel

/-- A move to g32, and flag branch mode 3. -/
theorem test_ill_line_immediate : (Instr.gmovi ⟨32, 0⟩).wf = false ∧ (Instr.brf ⟨3, 0⟩).wf = false := by decide +kernel

/-- A counted loop of length 0. -/
theorem test_ill_line_loop : (Instr.belvLoop ⟨1, 0⟩).wf = false := by decide +kernel

/-! ### Words written out from the encoding tables -/

/-- Each word is read in its slot, without a header, as the operation beside it. -/
noncomputable def readsAs (l : List (Nat × BitVec 32 × Instr)) : Bool :=
  l.all fun x => decide ((decodeSlot none x.1 .none x.2.1).toOption = some x.2.2)

/-- Each word is read in its slot of a line core's bundle as the operation beside it. -/
noncomputable def lineReadsAs (l : List (Nat × BitVec 32 × Instr)) : Bool :=
  l.all fun x => decide ((decodeBelv x.1 x.2.1).toOption = some x.2.2)

/-- The words of the scalar group (05 Tables 5-1 to 5-4), each with the slot that accepts it. -/
noncomputable def scalarWords : List (Nat × BitVec 32 × Instr) := [
  (0, 0x002BCDEF, .nop 0x2BCDEF),
  (0, 0x0050A192, .sadd ⟨2, 5, 3, .reg 9⟩),
  (0, 0x0090A192, .ssub ⟨2, 5, 3, .reg 9⟩),
  (0, 0x00D0A192, .smul ⟨2, 5, 3, .reg 9⟩),
  (0, 0x0110A192, .smulh ⟨2, 5, 3, .reg 9⟩),
  (0, 0x0150A192, .smulhn ⟨2, 5, 3, .reg 9⟩),
  (0, 0x0190A192, .sdiv ⟨2, 5, 3, .reg 9⟩),
  (0, 0x01D0A192, .sdivn ⟨2, 5, 3, .reg 9⟩),
  (0, 0x0210A192, .srem ⟨2, 5, 3, .reg 9⟩),
  (0, 0x0250A192, .sremn ⟨2, 5, 3, .reg 9⟩),
  (0, 0x0290A192, .sand ⟨2, 5, 3, .reg 9⟩),
  (0, 0x02D0A192, .sor ⟨2, 5, 3, .reg 9⟩),
  (0, 0x0310A192, .sxor ⟨2, 5, 3, .reg 9⟩),
  (0, 0x0350A192, .sandn ⟨2, 5, 3, .reg 9⟩),
  (0, 0x0390A192, .sshl ⟨2, 5, 3, .reg 9⟩),
  (0, 0x03D0A192, .sshr ⟨2, 5, 3, .reg 9⟩),
  (0, 0x0410A192, .ssra ⟨2, 5, 3, .reg 9⟩),
  (0, 0x0450A192, .smin ⟨2, 5, 3, .reg 9⟩),
  (0, 0x0490A192, .smax ⟨2, 5, 3, .reg 9⟩),
  (0, 0x04D0A192, .sminn ⟨2, 5, 3, .reg 9⟩),
  (0, 0x0510A192, .smaxn ⟨2, 5, 3, .reg 9⟩),
  (0, 0x05508100, .sabs ⟨2, 4, 2, .reg 0⟩),
  (0, 0x05908100, .spopc ⟨2, 4, 2, .reg 0⟩),
  (0, 0x05D08100, .sclz ⟨2, 4, 2, .reg 0⟩),
  (0, 0x06108100, .sctz ⟨2, 4, 2, .reg 0⟩),
  (0, 0x0650A192, .sbfx ⟨2, 5, 3, .reg 9⟩),
  (0, 0x0690A192, .sbfi ⟨2, 5, 3, .reg 9⟩),
  (0, 0x06D0A192, .ssel ⟨2, 5, 3, .reg 9⟩),
  (0, 0x0710A192, .scmpeq ⟨2, 5, 3, .reg 9⟩),
  (0, 0x0750A192, .scmpne ⟨2, 5, 3, .reg 9⟩),
  (0, 0x0790A192, .scmplt ⟨2, 5, 3, .reg 9⟩),
  (0, 0x07D0A192, .scmple ⟨2, 5, 3, .reg 9⟩),
  (0, 0x0810A192, .scmpltn ⟨2, 5, 3, .reg 9⟩),
  (0, 0x0850A192, .scmplen ⟨2, 5, 3, .reg 9⟩),
  (0, 0x08908102, .cand ⟨2, 4, 2, .reg 1⟩),
  (0, 0x08D08102, .cor ⟨2, 4, 2, .reg 1⟩),
  (0, 0x09108102, .cxor ⟨2, 4, 2, .reg 1⟩),
  (0, 0x09508100, .cnot ⟨2, 4, 2, .reg 0⟩),
  (0, 0x09908100, .smov ⟨2, 4, 2, .reg 0⟩),
  (0, 0x09C98765, .smovi ⟨9, 0x8765⟩),
  (0, 0x0A098765, .smovh ⟨9, 0x8765⟩)]

theorem test_words_scalar : readsAs scalarWords = true := by decide +kernel

/-- The words of the control group (05 Tables 5-1 to 5-4), each with the slot that accepts it. -/
noncomputable def controlWords : List (Nat × BitVec 32 × Instr) := [
  (0, 0x101EFFF1, .br ⟨3, 0x6FFF1⟩),
  (0, 0x105EFFF1, .brnot ⟨3, 0x6FFF1⟩),
  (0, 0x109EFFF1, .call ⟨3, 0x6FFF1⟩),
  (0, 0x10D00200, .ret ⟨2, 0, 4, .reg 0⟩),
  (0, 0x11100200, .jidx ⟨2, 0, 4, .reg 0⟩),
  (0, 0x11500200, .vjidx ⟨2, 0, 4, .reg 0⟩),
  (0, 0x11800000, .djoin ⟨0, 0, 0, .reg 0⟩),
  (0, 0x11C91234, .loopOp ⟨9, 0x1234⟩),
  (0, 0x12091234, .loopw ⟨9, 0x1234⟩),
  (0, 0x12500000, .lbrk ⟨2, 0, 0, .reg 0⟩),
  (0, 0x12900200, .mpush ⟨2, 0, 4, .reg 0⟩),
  (0, 0x12D00000, .minv ⟨2, 0, 0, .reg 0⟩),
  (0, 0x13100000, .mpop ⟨2, 0, 0, .reg 0⟩),
  (0, 0x135EFFF1, .mbez ⟨3, 0x6FFF1⟩),
  (0, 0x13908004, .mread ⟨2, 4, 0, .reg 2⟩),
  (0, 0x13D0A192, .tfork ⟨2, 5, 3, .reg 9⟩),
  (0, 0x14100000, .tjoin ⟨2, 0, 0, .reg 0⟩),
  (0, 0x14500000, .endOp ⟨2, 0, 0, .reg 0⟩),
  (0, 0x14908000, .wnext ⟨2, 4, 0, .reg 0⟩),
  (0, 0x14D00000, .yield ⟨2, 0, 0, .reg 0⟩),
  (0, 0x15100008, .trap ⟨2, 0, 0, .reg 4⟩),
  (0, 0x15500008, .tret ⟨2, 0, 0, .reg 4⟩),
  (0, 0x15900008, .bkpt ⟨2, 0, 0, .reg 4⟩),
  (0, 0x15C00000, .ckpt ⟨0, 0, 0, .reg 0⟩),
  (0, 0x16100200, .setf ⟨2, 0, 4, .reg 0⟩),
  (0, 0x1650A193, .movc ⟨2, 5, 3, .imm 9⟩),
  (0, 0x1690A193, .setc ⟨2, 5, 3, .imm 9⟩),
  (0, 0x16D08100, .movtc ⟨2, 4, 2, .reg 0⟩),
  (0, 0x17108100, .movbd ⟨2, 4, 2, .reg 0⟩)]

theorem test_words_control : readsAs controlWords = true := by decide +kernel

/-- The words of the integer group (05 Tables 5-1 to 5-4), each with the slot that accepts it. -/
noncomputable def integerWords : List (Nat × BitVec 32 × Instr) := [
  (1, 0x4010A192, .vaddI32 ⟨2, 5, 3, .reg 9⟩),
  (1, 0x40508113, .vaddI64 ⟨2, 4, 2, .imm 9⟩),
  (1, 0x4090A192, .vsubI32 ⟨2, 5, 3, .reg 9⟩),
  (1, 0x40D08113, .vsubI64 ⟨2, 4, 2, .imm 9⟩),
  (1, 0x4110A192, .vaddsS32 ⟨2, 5, 3, .reg 9⟩),
  (1, 0x4150A192, .vaddsN32 ⟨2, 5, 3, .reg 9⟩),
  (1, 0x4190A192, .vsubsS32 ⟨2, 5, 3, .reg 9⟩),
  (1, 0x41D0A192, .vsubsN32 ⟨2, 5, 3, .reg 9⟩),
  (1, 0x4210A192, .vmulI32 ⟨2, 5, 3, .reg 9⟩),
  (1, 0x42508113, .vmulI64 ⟨2, 4, 2, .imm 9⟩),
  (1, 0x4290A192, .vmulhS32 ⟨2, 5, 3, .reg 9⟩),
  (1, 0x42D0A192, .vmulhN32 ⟨2, 5, 3, .reg 9⟩),
  (1, 0x4310A192, .vmadI32 ⟨2, 5, 3, .reg 9⟩),
  (1, 0x4350A192, .vminS32 ⟨2, 5, 3, .reg 9⟩),
  (1, 0x4390A192, .vminN32 ⟨2, 5, 3, .reg 9⟩),
  (1, 0x43D08113, .vminS64 ⟨2, 4, 2, .imm 9⟩),
  (1, 0x44108113, .vminN64 ⟨2, 4, 2, .imm 9⟩),
  (1, 0x4450A192, .vmaxS32 ⟨2, 5, 3, .reg 9⟩),
  (1, 0x4490A192, .vmaxN32 ⟨2, 5, 3, .reg 9⟩),
  (1, 0x44D08113, .vmaxS64 ⟨2, 4, 2, .imm 9⟩),
  (1, 0x45108113, .vmaxN64 ⟨2, 4, 2, .imm 9⟩),
  (1, 0x45508100, .vabsS32 ⟨2, 4, 2, .reg 0⟩),
  (1, 0x45908100, .vabsS64 ⟨2, 4, 2, .reg 0⟩),
  (1, 0x45D0A192, .vandB32 ⟨2, 5, 3, .reg 9⟩),
  (1, 0x4610A192, .vorB32 ⟨2, 5, 3, .reg 9⟩),
  (1, 0x4650A192, .vxorB32 ⟨2, 5, 3, .reg 9⟩),
  (1, 0x4690A192, .vandnB32 ⟨2, 5, 3, .reg 9⟩),
  (1, 0x46D0A192, .vshlB32 ⟨2, 5, 3, .reg 9⟩),
  (1, 0x47108112, .vshlB64 ⟨2, 4, 2, .reg 9⟩),
  (1, 0x4750A192, .vshrB32 ⟨2, 5, 3, .reg 9⟩),
  (1, 0x47908112, .vshrB64 ⟨2, 4, 2, .reg 9⟩),
  (1, 0x47D0A192, .vsraS32 ⟨2, 5, 3, .reg 9⟩),
  (1, 0x48108112, .vsraS64 ⟨2, 4, 2, .reg 9⟩),
  (1, 0x48508100, .vpopcB32 ⟨2, 4, 2, .reg 0⟩),
  (1, 0x48908100, .vclzB32 ⟨2, 4, 2, .reg 0⟩),
  (1, 0x48D0A192, .vbfxS32 ⟨2, 5, 3, .reg 9⟩),
  (1, 0x4910A192, .vbfxN32 ⟨2, 5, 3, .reg 9⟩),
  (1, 0x4950A192, .vbfiB32 ⟨2, 5, 3, .reg 9⟩),
  (1, 0x4990A192, .vcmpeqI32 ⟨2, 5, 3, .reg 9⟩),
  (1, 0x49D08113, .vcmpeqI64 ⟨2, 4, 2, .imm 9⟩),
  (1, 0x4A10A192, .vcmpneI32 ⟨2, 5, 3, .reg 9⟩),
  (1, 0x4A508113, .vcmpneI64 ⟨2, 4, 2, .imm 9⟩),
  (1, 0x4A90A192, .vcmpltS32 ⟨2, 5, 3, .reg 9⟩),
  (1, 0x4AD0A192, .vcmpltN32 ⟨2, 5, 3, .reg 9⟩),
  (1, 0x4B108113, .vcmpltS64 ⟨2, 4, 2, .imm 9⟩),
  (1, 0x4B508113, .vcmpltN64 ⟨2, 4, 2, .imm 9⟩),
  (1, 0x4B90A192, .vcmpleS32 ⟨2, 5, 3, .reg 9⟩),
  (1, 0x4BD0A192, .vcmpleN32 ⟨2, 5, 3, .reg 9⟩),
  (1, 0x4C108113, .vcmpleS64 ⟨2, 4, 2, .imm 9⟩),
  (1, 0x4C508113, .vcmpleN64 ⟨2, 4, 2, .imm 9⟩),
  (1, 0x4C90A192, .vselB32 ⟨2, 5, 3, .reg 9⟩),
  (1, 0x4CD08113, .vselB64 ⟨2, 4, 2, .imm 9⟩)]

theorem test_words_integer : readsAs integerWords = true := by decide +kernel

/-- The words of the float group (05 Tables 5-1 to 5-4), each with the slot that accepts it. -/
noncomputable def floatWords : List (Nat × BitVec 32 × Instr) := [
  (1, 0x5010A192, .faddF32 ⟨2, 5, 3, .reg 9⟩),
  (1, 0x50508113, .faddF64 ⟨2, 4, 2, .imm 9⟩),
  (1, 0x5090A192, .faddH2 ⟨2, 5, 3, .reg 9⟩),
  (1, 0x50D0A192, .faddBh2 ⟨2, 5, 3, .reg 9⟩),
  (1, 0x5110A192, .fsubF32 ⟨2, 5, 3, .reg 9⟩),
  (1, 0x51508113, .fsubF64 ⟨2, 4, 2, .imm 9⟩),
  (1, 0x5190A192, .fsubH2 ⟨2, 5, 3, .reg 9⟩),
  (1, 0x51D0A192, .fsubBh2 ⟨2, 5, 3, .reg 9⟩),
  (1, 0x5210A192, .fmulF32 ⟨2, 5, 3, .reg 9⟩),
  (1, 0x52508113, .fmulF64 ⟨2, 4, 2, .imm 9⟩),
  (1, 0x5290A192, .fmulH2 ⟨2, 5, 3, .reg 9⟩),
  (1, 0x52D0A192, .fmulBh2 ⟨2, 5, 3, .reg 9⟩),
  (1, 0x5310A192, .ffmaF32 ⟨2, 5, 3, .reg 9⟩),
  (1, 0x53508113, .ffmaF64 ⟨2, 4, 2, .imm 9⟩),
  (1, 0x5390A192, .ffmaH2 ⟨2, 5, 3, .reg 9⟩),
  (1, 0x53D0A192, .ffmaBh2 ⟨2, 5, 3, .reg 9⟩),
  (1, 0x5410A192, .fminF32 ⟨2, 5, 3, .reg 9⟩),
  (1, 0x54508113, .fminF64 ⟨2, 4, 2, .imm 9⟩),
  (1, 0x5490A192, .fminH2 ⟨2, 5, 3, .reg 9⟩),
  (1, 0x54D0A192, .fminBh2 ⟨2, 5, 3, .reg 9⟩),
  (1, 0x5510A192, .fmaxF32 ⟨2, 5, 3, .reg 9⟩),
  (1, 0x55508113, .fmaxF64 ⟨2, 4, 2, .imm 9⟩),
  (1, 0x5590A192, .fmaxH2 ⟨2, 5, 3, .reg 9⟩),
  (1, 0x55D0A192, .fmaxBh2 ⟨2, 5, 3, .reg 9⟩),
  (1, 0x5610A192, .fcmpeqF32 ⟨2, 5, 3, .reg 9⟩),
  (1, 0x56508113, .fcmpeqF64 ⟨2, 4, 2, .imm 9⟩),
  (1, 0x5690A192, .fcmpltF32 ⟨2, 5, 3, .reg 9⟩),
  (1, 0x56D08113, .fcmpltF64 ⟨2, 4, 2, .imm 9⟩),
  (1, 0x5710A192, .fcmpleF32 ⟨2, 5, 3, .reg 9⟩),
  (1, 0x57508113, .fcmpleF64 ⟨2, 4, 2, .imm 9⟩),
  (1, 0x5790A192, .fcmpunF32 ⟨2, 5, 3, .reg 9⟩),
  (1, 0x57D08113, .fcmpunF64 ⟨2, 4, 2, .imm 9⟩),
  (1, 0x58108100, .frndF32 ⟨2, 4, 2, .reg 0⟩),
  (1, 0x58508100, .frndF64 ⟨2, 4, 2, .reg 0⟩),
  (1, 0x58908100, .fclassF32 ⟨2, 4, 2, .reg 0⟩),
  (1, 0x58D08100, .fclassF64 ⟨2, 4, 2, .reg 0⟩),
  (1, 0x5910A192, .fdot4B8x4 ⟨2, 5, 3, .reg 9⟩),
  (1, 0x5950A192, .fdot2H2 ⟨2, 5, 3, .reg 9⟩),
  (1, 0x5990A192, .fdot2Bh2 ⟨2, 5, 3, .reg 9⟩),
  (2, 0x5C108100, .frcpF32 ⟨2, 4, 2, .reg 0⟩),
  (2, 0x5C508100, .frcpF64 ⟨2, 4, 2, .reg 0⟩),
  (2, 0x5C908100, .frsqF32 ⟨2, 4, 2, .reg 0⟩),
  (2, 0x5CD08100, .frsqF64 ⟨2, 4, 2, .reg 0⟩),
  (2, 0x5D108100, .fsqrtF32 ⟨2, 4, 2, .reg 0⟩),
  (2, 0x5D508100, .fsqrtF64 ⟨2, 4, 2, .reg 0⟩),
  (2, 0x5D90A192, .fdivF32 ⟨2, 5, 3, .reg 9⟩),
  (2, 0x5DD08113, .fdivF64 ⟨2, 4, 2, .imm 9⟩),
  (2, 0x5E108100, .fexp2F32 ⟨2, 4, 2, .reg 0⟩),
  (2, 0x5E508100, .flog2F32 ⟨2, 4, 2, .reg 0⟩),
  (2, 0x5E908100, .fsinpF32 ⟨2, 4, 2, .reg 0⟩),
  (2, 0x5ED08100, .fcospF32 ⟨2, 4, 2, .reg 0⟩)]

theorem test_words_float : readsAs floatWords = true := by decide +kernel

/-- The words of the convert group (05 Tables 5-1 to 5-4), each with the slot that accepts it. -/
noncomputable def convertWords : List (Nat × BitVec 32 × Instr) := [
  (1, 0x60108103, .cvtS32 ⟨2, 4, 2, .imm 1⟩),
  (1, 0x60508103, .cvtN32 ⟨2, 4, 2, .imm 1⟩),
  (1, 0x60908103, .cvtS64 ⟨2, 4, 2, .imm 1⟩),
  (1, 0x60D08103, .cvtN64 ⟨2, 4, 2, .imm 1⟩),
  (1, 0x61108103, .cvtF64 ⟨2, 4, 2, .imm 1⟩),
  (1, 0x61508103, .cvtF32 ⟨2, 4, 2, .imm 1⟩),
  (1, 0x61908103, .cvtF16 ⟨2, 4, 2, .imm 1⟩),
  (1, 0x61D08103, .cvtBf16 ⟨2, 4, 2, .imm 1⟩),
  (1, 0x62108103, .cvtB8 ⟨2, 4, 2, .imm 1⟩),
  (1, 0x6250A192, .cvtsrB8 ⟨2, 5, 3, .reg 9⟩),
  (1, 0x6290A192, .cvtsrBf16 ⟨2, 5, 3, .reg 9⟩),
  (1, 0x62D0A192, .cvtsrF16 ⟨2, 5, 3, .reg 9⟩),
  (1, 0x63108418, .vpackB8x4 ⟨2, 4, 8, .reg 12⟩),
  (1, 0x6350A192, .vpackH2 ⟨2, 5, 3, .reg 9⟩),
  (1, 0x6390A192, .vpackBh2 ⟨2, 5, 3, .reg 9⟩),
  (1, 0x63D08100, .vunpkB8x4 ⟨2, 4, 2, .reg 0⟩),
  (1, 0x64108100, .vunpkH2 ⟨2, 4, 2, .reg 0⟩),
  (1, 0x64508100, .vunpkBh2 ⟨2, 4, 2, .reg 0⟩)]

theorem test_words_convert : readsAs convertWords = true := by decide +kernel

/-- The words of the moves group (05 Tables 5-1 to 5-4), each with the slot that accepts it. -/
noncomputable def movesWords : List (Nat × BitVec 32 × Instr) := [
  (1, 0x68108004, .vmovB32 ⟨2, 4, 0, .reg 2⟩),
  (1, 0x68508004, .vmovB64 ⟨2, 4, 0, .reg 2⟩),
  (1, 0x68908100, .vmovsB32 ⟨2, 4, 2, .reg 0⟩),
  (1, 0x68D08100, .vmovsB64 ⟨2, 4, 2, .reg 0⟩),
  (1, 0x69108000, .vlane ⟨2, 4, 0, .reg 0⟩),
  (1, 0x6950A192, .vldix ⟨2, 5, 3, .reg 9⟩),
  (1, 0x6990A192, .vstix ⟨2, 5, 3, .reg 9⟩),
  (1, 0x69D08102, .pand ⟨2, 4, 2, .reg 1⟩),
  (1, 0x6A108102, .por ⟨2, 4, 2, .reg 1⟩),
  (1, 0x6A508102, .pxor ⟨2, 4, 2, .reg 1⟩),
  (1, 0x6A908102, .pandn ⟨2, 4, 2, .reg 1⟩),
  (1, 0x6AD08100, .pmovv ⟨2, 4, 2, .reg 0⟩),
  (1, 0x6B108100, .vmovp ⟨2, 4, 2, .reg 0⟩),
  (2, 0x6C10A192, .xperm ⟨2, 5, 3, .reg 9⟩),
  (2, 0x6C50A192, .xbcast ⟨2, 5, 3, .reg 9⟩),
  (2, 0x6C908100, .xswz ⟨2, 4, 2, .reg 0⟩),
  (2, 0x6CD0A192, .xany ⟨2, 5, 3, .reg 9⟩),
  (2, 0x6D10A192, .xall ⟨2, 5, 3, .reg 9⟩),
  (2, 0x6D50A192, .xballot ⟨2, 5, 3, .reg 9⟩),
  (2, 0x6D90A192, .xredI32 ⟨2, 5, 3, .reg 9⟩),
  (2, 0x6DD0A192, .xredF32 ⟨2, 5, 3, .reg 9⟩),
  (2, 0x6E10A192, .xredminS32 ⟨2, 5, 3, .reg 9⟩),
  (2, 0x6E50A192, .xredminN32 ⟨2, 5, 3, .reg 9⟩),
  (2, 0x6E90A192, .xredminF32 ⟨2, 5, 3, .reg 9⟩),
  (2, 0x6ED0A192, .xredmaxS32 ⟨2, 5, 3, .reg 9⟩),
  (2, 0x6F10A192, .xredmaxN32 ⟨2, 5, 3, .reg 9⟩),
  (2, 0x6F50A192, .xredmaxF32 ⟨2, 5, 3, .reg 9⟩),
  (2, 0x6F90A192, .xscanI32 ⟨2, 5, 3, .reg 9⟩),
  (2, 0x6FD0A192, .xscanF32 ⟨2, 5, 3, .reg 9⟩)]

theorem test_words_moves : readsAs movesWords = true := by decide +kernel

/-- The words of the reorder group (05 Tables 5-1 to 5-4), each with the slot that accepts it. -/
noncomputable def reorderWords : List (Nat × BitVec 32 × Instr) := [
  (2, 0x7000A193, .treord ⟨0, 5, 3, .imm 9⟩),
  (1, 0x74108112, .rsvupd ⟨2, 4, 2, .reg 9⟩),
  (1, 0x74508418, .rsvmrg ⟨2, 4, 8, .reg 12⟩)]

theorem test_words_reorder : readsAs reorderWords = true := by decide +kernel

/-- The words of the accesses group (05 Tables 5-1 to 5-4), each with the slot that accepts it. -/
noncomputable def accessesWords : List (Nat × BitVec 32 × Instr) := [
  (3, 0xA0108112, .ldB8 ⟨2, 4, 2, .reg 9⟩),
  (3, 0xA0508112, .ldB16 ⟨2, 4, 2, .reg 9⟩),
  (3, 0xA0908112, .ldB32 ⟨2, 4, 2, .reg 9⟩),
  (3, 0xA0D08112, .ldB64 ⟨2, 4, 2, .reg 9⟩),
  (3, 0xA1108112, .ldB128 ⟨2, 4, 2, .reg 9⟩),
  (3, 0xA1508112, .stB8 ⟨2, 4, 2, .reg 9⟩),
  (3, 0xA1908112, .stB16 ⟨2, 4, 2, .reg 9⟩),
  (3, 0xA1D08112, .stB32 ⟨2, 4, 2, .reg 9⟩),
  (3, 0xA2108112, .stB64 ⟨2, 4, 2, .reg 9⟩),
  (3, 0xA2508112, .stB128 ⟨2, 4, 2, .reg 9⟩),
  (3, 0xA290A192, .ldvB32 ⟨2, 5, 3, .reg 9⟩),
  (3, 0xA2D08112, .ldvB64 ⟨2, 4, 2, .reg 9⟩),
  (3, 0xA3108112, .ldvB128 ⟨2, 4, 2, .reg 9⟩),
  (3, 0xA350A192, .stvB32 ⟨2, 5, 3, .reg 9⟩),
  (3, 0xA3908112, .stvB64 ⟨2, 4, 2, .reg 9⟩),
  (3, 0xA3D08112, .stvB128 ⟨2, 4, 2, .reg 9⟩),
  (3, 0xA410A192, .ldgsB32 ⟨2, 5, 3, .reg 9⟩),
  (3, 0xA4508112, .ldgsB64 ⟨2, 4, 2, .reg 9⟩),
  (3, 0xA4908112, .ldgsB128 ⟨2, 4, 2, .reg 9⟩),
  (3, 0xA4D0A192, .stgsB32 ⟨2, 5, 3, .reg 9⟩),
  (3, 0xA5108112, .stgsB64 ⟨2, 4, 2, .reg 9⟩),
  (3, 0xA5508112, .stgsB128 ⟨2, 4, 2, .reg 9⟩),
  (3, 0xA590A192, .sldB32 ⟨2, 5, 3, .reg 9⟩),
  (3, 0xA5D0A192, .sldB64 ⟨2, 5, 3, .reg 9⟩),
  (3, 0xA610A192, .sstB32 ⟨2, 5, 3, .reg 9⟩),
  (3, 0xA650A192, .sstB64 ⟨2, 5, 3, .reg 9⟩),
  (3, 0xA6908440, .ldaB32 ⟨2, 4, 8, 4, false⟩),
  (3, 0xA6D08440, .ldaB64 ⟨2, 4, 8, 4, false⟩),
  (3, 0xA7108440, .stlB32 ⟨2, 4, 8, 4, false⟩),
  (3, 0xA7508440, .stlB64 ⟨2, 4, 8, 4, false⟩),
  (3, 0xA7908112, .ldroB32 ⟨2, 4, 2, .reg 9⟩),
  (3, 0xA7D08112, .ldroB64 ⟨2, 4, 2, .reg 9⟩),
  (3, 0xA8108112, .ldroB128 ⟨2, 4, 2, .reg 9⟩),
  (3, 0xA8500201, .pref ⟨2, 0, 4, .imm 0⟩)]

theorem test_words_accesses : readsAs accessesWords = true := by decide +kernel

/-- The words of the rings group (05 Tables 5-1 to 5-4), each with the slot that accepts it. -/
noncomputable def ringsWords : List (Nat × BitVec 32 × Instr) := [
  (3, 0xAC10A192, .qinit ⟨2, 5, 3, .reg 9⟩),
  (3, 0xAC508004, .qcommit ⟨2, 4, 0, .reg 2⟩),
  (3, 0xAC90A192, .qpop ⟨2, 5, 3, .reg 9⟩),
  (3, 0xACD0A192, .wbind ⟨2, 5, 3, .reg 9⟩),
  (3, 0xAD108000, .wstart ⟨2, 4, 0, .reg 0⟩),
  (3, 0xAD508000, .wstop ⟨2, 4, 0, .reg 0⟩),
  (3, 0xAD908103, .cpy ⟨2, 4, 2, .imm 1⟩),
  (3, 0xADD08103, .cpyy ⟨2, 4, 2, .imm 1⟩),
  (3, 0xAE10A192, .lock ⟨2, 5, 3, .reg 9⟩),
  (3, 0xAE500204, .unlock ⟨2, 0, 4, .reg 2⟩),
  (3, 0xAE900204, .cflush ⟨2, 0, 4, .reg 2⟩),
  (3, 0xAED00204, .cinvro ⟨2, 0, 4, .reg 2⟩)]

theorem test_words_rings : readsAs ringsWords = true := by decide +kernel

/-- The words of the tiles group (05 Tables 5-1 to 5-4), each with the slot that accepts it. -/
noncomputable def tilesWords : List (Nat × BitVec 32 × Instr) := [
  (3, 0xB0108103, .tld ⟨2, 4, 2, .imm 1⟩),
  (3, 0xB0508103, .tst ⟨2, 4, 2, .imm 1⟩),
  (3, 0xB0908000, .tzero ⟨2, 4, 0, .reg 0⟩),
  (3, 0xB0D0A192, .tmma ⟨2, 5, 3, .reg 9⟩),
  (3, 0xB110A192, .tmmaq ⟨2, 5, 3, .reg 9⟩),
  (3, 0xB150A192, .tmmav ⟨2, 5, 3, .reg 9⟩),
  (3, 0xB190A193, .tchain ⟨2, 5, 3, .imm 9⟩),
  (3, 0xB1D08100, .tcvt ⟨2, 4, 2, .reg 0⟩),
  (3, 0xB210A192, .ttov ⟨2, 5, 3, .reg 9⟩),
  (3, 0xB250A192, .vtot ⟨2, 5, 3, .reg 9⟩),
  (3, 0xB2900204, .cbload ⟨2, 0, 4, .reg 2⟩),
  (3, 0xB4108100, .seal ⟨2, 4, 2, .reg 0⟩),
  (3, 0xB4508100, .rpin ⟨2, 4, 2, .reg 0⟩),
  (3, 0xB4908100, .runpin ⟨2, 4, 2, .reg 0⟩),
  (3, 0xB4D08103, .rdrop ⟨2, 4, 2, .imm 1⟩),
  (3, 0xB5108100, .rstat ⟨2, 4, 2, .reg 0⟩),
  (3, 0xB5500000, .rdone ⟨2, 0, 0, .reg 0⟩)]

theorem test_words_tiles : readsAs tilesWords = true := by decide +kernel

/-- The words of the atomics group (05 Tables 5-1 to 5-4), each with the slot that accepts it. -/
noncomputable def atomicsWords : List (Nat × BitVec 32 × Instr) := [
  (3, 0xB8108418, .atomaddI32 ⟨2, 4, 8, 1, true⟩),
  (3, 0xB8508418, .atomaddI64 ⟨2, 4, 8, 1, true⟩),
  (3, 0xB8908418, .atomaddF32 ⟨2, 4, 8, 1, true⟩),
  (3, 0xB8D08418, .atomminS32 ⟨2, 4, 8, 1, true⟩),
  (3, 0xB9108418, .atomminN32 ⟨2, 4, 8, 1, true⟩),
  (3, 0xB9508418, .atommaxS32 ⟨2, 4, 8, 1, true⟩),
  (3, 0xB9908418, .atommaxN32 ⟨2, 4, 8, 1, true⟩),
  (3, 0xB9D08418, .atomandB32 ⟨2, 4, 8, 1, true⟩),
  (3, 0xBA108418, .atomorB32 ⟨2, 4, 8, 1, true⟩),
  (3, 0xBA508418, .atomxorB32 ⟨2, 4, 8, 1, true⟩),
  (3, 0xBA908418, .atomxchgB32 ⟨2, 4, 8, 1, true⟩),
  (3, 0xBAD08418, .atomxchgB64 ⟨2, 4, 8, 1, true⟩),
  (3, 0xBB108418, .atomcasB32 ⟨2, 4, 8, 1, true⟩),
  (3, 0xBB508418, .atomcasB64 ⟨2, 4, 8, 1, true⟩),
  (3, 0xBB800040, .fence ⟨0, 0, 0, 4, false⟩),
  (3, 0xBBC00030, .fencero ⟨0, 0, 0, 3, false⟩),
  (3, 0xBC108450, .tlsig ⟨2, 4, 8, 5, false⟩),
  (3, 0xBC508440, .tlwait ⟨2, 4, 8, 4, false⟩),
  (3, 0xBC908100, .tlread ⟨2, 4, 2, .reg 0⟩),
  (3, 0xBCD0A192, .bararv ⟨2, 5, 3, .reg 9⟩),
  (3, 0xBD100204, .barwt ⟨2, 0, 4, .reg 2⟩),
  (3, 0xBD508100, .bufacq ⟨2, 4, 2, .reg 0⟩),
  (3, 0xBD900204, .bufrel ⟨2, 0, 4, .reg 2⟩),
  (3, 0xBDD0A192, .wqpush ⟨2, 5, 3, .reg 9⟩),
  (3, 0xBE10A192, .launch ⟨2, 5, 3, .reg 9⟩)]

theorem test_words_atomics : readsAs atomicsWords = true := by decide +kernel

/-- The words of the engines group (05 Tables 5-1 to 5-4), each with the slot that accepts it. -/
noncomputable def enginesWords : List (Nat × BitVec 32 × Instr) := [
  (3, 0xC0108103, .rayq ⟨2, 4, 2, .imm 1⟩),
  (3, 0xC0508103, .rayqd ⟨2, 4, 2, .imm 1⟩),
  (3, 0xC0908000, .raycand ⟨2, 4, 0, .reg 0⟩),
  (3, 0xC0D08103, .rayacc ⟨2, 4, 2, .imm 1⟩),
  (3, 0xC1100200, .rayfin ⟨2, 0, 4, .reg 0⟩),
  (3, 0xC150A192, .splatq ⟨2, 5, 3, .reg 9⟩),
  (3, 0xC1908100, .splatrun ⟨2, 4, 2, .reg 0⟩),
  (3, 0xC1D08112, .sample ⟨2, 4, 2, .reg 9⟩),
  (3, 0xC2108112, .sampleg ⟨2, 4, 2, .reg 9⟩),
  (3, 0xC2508112, .samplel ⟨2, 4, 2, .reg 9⟩),
  (3, 0xC4108100, .coll ⟨2, 4, 2, .reg 0⟩)]

theorem test_words_engines : readsAs enginesWords = true := by decide +kernel

/-- The words of Belvedere (23 Table 23-3), each with its slot. -/
noncomputable def belvWords : List (Nat × BitVec 32 × Instr) := [
  (0, 0x00ABCDEF, .belvNop 0xABCDEF),
  (0, 0x01143240, .gadd ⟨5, 3, 9, 0, 0⟩),
  (0, 0x02143240, .gsub ⟨5, 3, 9, 0, 0⟩),
  (0, 0x03143240, .gmul ⟨5, 3, 9, 0, 0⟩),
  (0, 0x04143240, .gand ⟨5, 3, 9, 0, 0⟩),
  (0, 0x05143240, .gor ⟨5, 3, 9, 0, 0⟩),
  (0, 0x06143240, .gxor ⟨5, 3, 9, 0, 0⟩),
  (0, 0x07143240, .gshl ⟨5, 3, 9, 0, 0⟩),
  (0, 0x08143240, .gshr ⟨5, 3, 9, 0, 0⟩),
  (0, 0x09143240, .gcmplt ⟨5, 3, 9, 0, 0⟩),
  (0, 0x0A143240, .gcmpeq ⟨5, 3, 9, 0, 0⟩),
  (0, 0x0B16FFF1, .gmovi ⟨5, 0x2FFF1⟩),
  (0, 0x0C16FFF1, .belvBr ⟨5, 0x2FFF1⟩),
  (0, 0x0D0AFFF1, .brf ⟨2, 0x2FFF1⟩),
  (0, 0x0E241234, .belvLoop ⟨9, 0x1234⟩),
  (0, 0x0F143240, .waittk ⟨5, 3, 9, 0, 0⟩),
  (0, 0x10100080, .pose ⟨4, 0, 2, 0, 0⟩),
  (0, 0x11000000, .bend ⟨0, 0, 0, 0, 0⟩),
  (1, 0x40143250, .padd ⟨5, 3, 9, 2, 0⟩),
  (1, 0x41143250, .psub ⟨5, 3, 9, 2, 0⟩),
  (1, 0x42143250, .pmul ⟨5, 3, 9, 2, 0⟩),
  (1, 0x43143250, .pfma ⟨5, 3, 9, 2, 0⟩),
  (1, 0x44143250, .pmin ⟨5, 3, 9, 2, 0⟩),
  (1, 0x45143250, .pmax ⟨5, 3, 9, 2, 0⟩),
  (1, 0x46143250, .pcmplt ⟨5, 3, 9, 2, 0⟩),
  (1, 0x47143250, .psel ⟨5, 3, 9, 2, 0⟩),
  (1, 0x48102010, .pcvt ⟨4, 2, 0, 2, 0⟩),
  (1, 0x49143250, .plerp ⟨5, 3, 9, 2, 0⟩),
  (1, 0x4A102010, .prcp ⟨4, 2, 0, 2, 0⟩),
  (1, 0x4B102010, .prsq ⟨4, 2, 0, 2, 0⟩),
  (1, 0x4C100010, .plane ⟨4, 0, 0, 2, 0⟩),
  (1, 0x4D102010, .pmovg ⟨4, 2, 0, 2, 0⟩),
  (1, 0x4E102050, .pxform ⟨4, 2, 1, 2, 0⟩),
  (2, 0x80143250, .lld ⟨5, 3, 9, 2, 0⟩),
  (2, 0x81143250, .lst ⟨5, 3, 9, 2, 0⟩),
  (2, 0x82143251, .xfetch ⟨5, 3, 9, 2, 1⟩),
  (2, 0x83143250, .gather ⟨5, 3, 9, 2, 0⟩),
  (2, 0x84102250, .warps ⟨4, 2, 9, 2, 0⟩),
  (2, 0x85102000, .mld ⟨4, 2, 0, 0, 0⟩),
  (2, 0x86102000, .mst ⟨4, 2, 0, 0, 0⟩),
  (2, 0x87102040, .mmul ⟨4, 2, 1, 0, 0⟩),
  (2, 0x88102040, .mconv ⟨4, 2, 1, 0, 0⟩),
  (2, 0x89108310, .emit ⟨4, 8, 12, 2, 0⟩),
  (2, 0x8A000000, .fbwait ⟨0, 0, 0, 0, 0⟩),
  (2, 0x8B004000, .fallbk ⟨0, 4, 0, 0, 0⟩)]

theorem test_words_belvedere : lineReadsAs belvWords = true := by decide +kernel

/-! ### Single steps -/

/-- What s[d] of team 2 is after an operation. -/
noncomputable def sOut (i : Instr) (s : State) (d : Nat) : Option Word :=
  match exec i s with
  | .next t => some ((t.team 2).regs.sget d)
  | _ => none

/-- What lane 0 of v[d] of team 2 is after an operation. -/
noncomputable def vOut (i : Instr) (s : State) (d : Nat) : Option Lane :=
  match exec i s with
  | .next t => some ((t.team 2).regs.vget d 0)
  | _ => none

/-- Lane 0 active with a in v1 and b in v2. -/
def lanes (i : Instr) (a b : Lane) : State :=
  withRegs (oneLane (bench 1 i)) fun r => (r.vput 32 1 1 fun _ => a).vput 32 2 1 fun _ => b

/-- R175's example. -/
theorem test_smovi : sOut (.smovi ⟨5, 0xFFFE⟩) (bench 0 (.nop 0)) 5 = some 0xFFFFFFFFFFFFFFFE := by decide +kernel

theorem test_smovh : sOut (.smovh ⟨5, 0x1234⟩) (withS (bench 0 (.nop 0)) 5 0xFFFFFFFFFFFFFFFE) 5 = some 0xFFFFFFFFFFFE1234 := by
  decide +kernel

theorem test_sadd_wraps : sOut (.sadd ⟨0, 1, 1, .imm 1⟩) (withS (bench 0 (.nop 0)) 1 0xFFFFFFFFFFFFFFFF) 1 = some 0 := by
  decide +kernel

theorem test_smulh_signed :
    sOut (.smulh ⟨0, 4, 1, .reg 1⟩) (withS (bench 0 (.nop 0)) 1 0xFFFFFFFFFFFFFFFF) 4 = some 0 := by decide +kernel

theorem test_smulhn_unsigned :
    sOut (.smulhn ⟨0, 4, 1, .reg 1⟩) (withS (bench 0 (.nop 0)) 1 0xFFFFFFFFFFFFFFFF) 4 = some 0xFFFFFFFFFFFFFFFE := by
  decide +kernel

theorem test_ssra_copies_sign :
    sOut (.ssra ⟨0, 4, 1, .imm 60⟩) (withS (bench 0 (.nop 0)) 1 0x8000000000000000) 4 = some 0xFFFFFFFFFFFFFFF8 := by
  decide +kernel

theorem test_sclz_zero : sOut (.sclz ⟨0, 4, 0, .reg 0⟩) (bench 0 (.nop 0)) 4 = some 64 := by decide +kernel

/-- A field that would pass bit 63 is cut to the bits there are: position 60, length 8. -/
theorem test_sbfx_cut :
    sOut (.sbfx ⟨0, 4, 1, .reg 2⟩) (withS (withS (bench 0 (.nop 0)) 1 0xA000000000000000) 2 0x1FC) 4 = some 0xA := by
  decide +kernel

/-- The examples after R203. -/
theorem test_vadds : vOut (.vaddsS32 ⟨0, 4, 1, .reg 2⟩) (lanes (.nop 0) 0x7FFFFFF0 0x20) 4 = some 0x7FFFFFFF := by decide +kernel

theorem test_vsubs : vOut (.vsubsN32 ⟨0, 4, 1, .reg 2⟩) (lanes (.nop 0) 5 9) 4 = some 0 := by decide +kernel

theorem test_vmulh_unsigned :
    vOut (.vmulhN32 ⟨0, 4, 1, .reg 2⟩) (lanes (.nop 0) 0xFFFFFFFF 0xFFFFFFFF) 4 = some 0xFFFFFFFE := by decide +kernel

theorem test_vmulh_signed :
    vOut (.vmulhS32 ⟨0, 4, 1, .reg 2⟩) (lanes (.nop 0) 0xFFFFFFFF 0xFFFFFFFF) 4 = some 0 := by decide +kernel

theorem test_vbfx : vOut (.vbfxS32 ⟨0, 4, 1, .reg 2⟩) (lanes (.nop 0) 0xF00 0x68) 4 = some 0xFFFFFFFF := by decide +kernel

theorem test_vabs : vOut (.vabsS32 ⟨0, 4, 1, .reg 0⟩) (lanes (.nop 0) 0x80000000 0) 4 = some 0x80000000 := by decide +kernel

/-- 1.0 + 2.0 = 3.0 in binary32. -/
theorem test_fadd : vOut (.faddF32 ⟨0, 4, 1, .reg 2⟩) (lanes (.nop 0) 0x3F800000 0x40000000) 4 = some 0x40400000 := by
  decide +kernel

end Sys2Proof.Tests
end

section
/-!
SUPPORT. Sparse tables and look-ups of the state: what a table lists after a put or a change in place, and what the
record of a team, launch, queue or partition is after one.
-/

namespace Sys2Proof.Machine

/-! ### Tables -/

theorem tget_of_tfind {α : Type} (d : α) {t : Table α} {k : Nat} {v : α} (h : tfind t k = some v) : tget d t k = v := by
  induction t with
  | nil => simp [tfind] at h
  | cons x r ih =>
    obtain ⟨j, w⟩ := x
    simp only [tfind] at h
    simp only [tget]
    grind

/-- A change in place of a listed key is a put. -/
theorem tmod_eq_tset {α : Type} (f : α → α) {t : Table α} {k : Nat} {v : α} (h : tfind t k = some v) :
    tmod t k f = tset t k (f v) := by
  induction t with
  | nil => simp [tfind] at h
  | cons x r ih =>
    obtain ⟨j, w⟩ := x
    simp only [tfind] at h
    simp only [tmod, tset]
    grind

theorem tget_tmod_same {α : Type} (d : α) (f : α → α) {t : Table α} {k : Nat} {v : α} (h : tfind t k = some v) :
    tget d (tmod t k f) k = f v := by
  rw [tmod_eq_tset f h, tget_tset_same]

theorem tget_tmod_ne {α : Type} (d : α) (f : α → α) (t : Table α) {k j : Nat} (h : j ≠ k) :
    tget d (tmod t k f) j = tget d t j := by
  induction t with
  | nil => rfl
  | cons x r ih =>
    obtain ⟨i, w⟩ := x
    simp only [tmod]
    grind [tget]

/-- Entries of a table that a property picks out are still picked out after a put whose value has the property if the old
one had. No order of the keys is assumed. -/
theorem sublist_filter_tset {α β : Type} (d : α) (p : Nat × α → Bool) (g : Nat × α → β) (t : Table α) (k : Nat) (v : α)
    (hp : p (k, tget d t k) = true → p (k, v) = true) (hg : g (k, tget d t k) = g (k, v)) :
    ((t.filter p).map g).Sublist (((tset t k v).filter p).map g) := by
  induction t with
  | nil => simp
  | cons x r ih =>
    obtain ⟨j, w⟩ := x
    simp only [tset]
    split
    · subst_vars
      simp only [tget, if_true] at hp hg
      by_cases h : p (j, w) = true
      · simp [h, hp h, hg]
      · cases hv : p (j, v) <;> simp [h, hv]
    · split
      · cases hv : p (k, v) <;> simp [List.filter_cons (x := (k, v)), hv]
      · simp only [tget, *, if_false] at hp hg
        have := ih hp hg
        cases hw : p (j, w) <;> simp [hw, this]

/-! ### Records of the state -/

@[simp] theorem State.team_modTeam_same (s : State) (u : Nat) (f : Team → Team) : (s.modTeam u f).team u = f (s.team u) :=
  tget_tset_same _ _ _ _

theorem State.team_modTeam_ne (s : State) {u v : Nat} (f : Team → Team) (h : v ≠ u) : (s.modTeam u f).team v = s.team v :=
  tget_tset_ne _ _ _ _ _ h

theorem State.team_setMe_ne (s : State) {v : Nat} (t : Team) (h : v ≠ s.issue.team) : (s.setMe t).team v = s.team v :=
  tget_tset_ne _ _ _ _ _ h

end Sys2Proof.Machine
end

section
/-!
Work values and children (01 R33, 08 R185, R188): WNEXT's draw, the teams TFORK creates, and the wait of a child's first
bundle.
-/

namespace Sys2Proof.Machine

/-! ### Committing operations -/

theorem State.modRegsC_finC (s : State) (f : Regs → Regs) :
    (s.modRegsC f).finC = s.setMe ((s.me.both f).committed s.issue.slot) := finC_setMe s _

theorem State.modMe_modRegsC_finC (s : State) (g : Team → Team) (f : Regs → Regs) :
    ((s.modMe g).modRegsC f).finC = s.setMe (((g s.me).both f).committed s.issue.slot) := by
  rw [State.modMe, State.modRegsC_finC, State.setMe_setMe, State.me_setMe, State.issue_setMe]

theorem State.sOp_of_guard {s : State} {g : BitVec 3} (k : State) (h : s.sGuard g = true) : s.sOp g k = k := if_pos h

/-! ### WNEXT -/

theorem Launch.draw_eq (x : Launch) :
    x.draw = (if x.work.toNat < x.desc.workEnd.toNat then x.work else BitVec.allOnes 64,
      { x with work := if x.work.toNat < x.desc.workEnd.toNat then x.work + 1 else x.work }) := by
  unfold Launch.draw
  split <;> rfl

/-- WNEXT of a gang of launch l: the launch's draw, its value left pending for s[D] (08 R188). -/
theorem exec_wnext {o : A3} {s : State} {l : Nat} (hg : s.sGuard o.g = true) (hl : s.myGang.launch = some l) :
    exec (.wnext o) s = .next ((s.modLaunch l fun _ => (s.launch l).draw.2).setMe
      ((s.me.both fun r => { r with wnextPend := r.wnextPend ++ [(8, o.d, (s.launch l).draw.1)] }).committed s.issue.slot)) := by
  show execWnext o s = _
  unfold execWnext
  rw [State.sOp_of_guard _ hg, hl]
  exact congrArg _ (State.modRegsC_finC _ _)

/-! ### TFORK -/

/-- s1 is s with one more team: a child of the executing team, in its gang, of ordinal k and at bundle `entry`, with the
position of the TFORK among its creator's regions (08 R185, Table 8-4). -/
structure State.Bears (s s1 : State) (entry k : Nat) : Prop where
  uids : s1.uids = s.uids + 1
  ms : s1.ms = s.ms
  gangs : s1.gangs = s.gangs
  issue : s1.issue = s.issue
  cycle : s1.cycle = s.cycle
  others : ∀ w, w ≠ s.uids → s1.team w = s.team w
  child : ∃ id slot img r d next, s1.team s.uids = s.me.child s.issue.team id k slot img r d entry next s.tick

/-- No child of a team t in partition p can be made now: no slot or pool (03 R89), or no TEAMID (log 84). -/
def State.NoChild (s : State) (t : Team) (p : Nat) : Prop :=
  (s.freeSlots t.core).length ≤ s.claims t.core ∨ s.childId t.gang = none ∨
    (s.part p).takePool (teamImageBytes t.vregs t.lanes) = none

/-- TFORK's next child: none can be made, or one more team is there and creation goes on. -/
theorem State.fork_succ (s : State) (r : Regs) (d entry n k : Nat) :
    (s.fork r d entry (n + 1) k = (s, k) ∧ s.NoChild s.me s.myGang.part) ∨
      ∃ s1, s.fork r d entry (n + 1) k = s1.fork r d entry n (k + 1) ∧ s.Bears s1 entry k := by
  rw [State.fork]
  split
  · rename_i slot more id a q hs hi hp
    split
    · rename_i h
      refine .inl ⟨rfl, .inl ?_⟩
      rw [hs, List.length_cons]
      exact h
    · exact .inr ⟨_, rfl, rfl, rfl, rfl, rfl, rfl, fun w hw => tget_tset_ne _ _ _ _ _ hw,
        ⟨_, _, _, _, _, _, tget_tset_same _ _ _ _⟩⟩
  · rename_i h
    refine .inl ⟨rfl, ?_⟩
    by_cases hi : s.childId s.me.gang = none
    · exact .inr (.inl hi)
    by_cases hp : (s.part s.myGang.part).takePool (teamImageBytes s.me.vregs s.me.lanes) = none
    · exact .inr (.inr hp)
    obtain ⟨id, hi⟩ := Option.ne_none_iff_exists'.1 hi
    obtain ⟨⟨a, q⟩, hp⟩ := Option.ne_none_iff_exists'.1 hp
    cases hs : s.freeSlots s.me.core with
    | nil => exact .inl (by simp [hs])
    | cons slot more => exact absurd hp (h slot more id a q hs hi)

theorem State.Bears.me {s s1 : State} {entry k : Nat} (h : s.Bears s1 entry k) (hu : s.issue.team < s.uids) : s1.me = s.me := by
  unfold State.me
  rw [h.issue, h.others _ (by omega)]

theorem State.Bears.myGang {s s1 : State} {entry k : Nat} (h : s.Bears s1 entry k) (hu : s.issue.team < s.uids) :
    s1.myGang = s.myGang := by
  unfold State.myGang State.gang
  rw [h.me hu, h.gangs]

/-- What TFORK's loop leaves that has made the children of ordinals k to m - 1. -/
structure State.Forked (s t : State) (entry k m : Nat) : Prop where
  le : k ≤ m
  uids : t.uids = s.uids + (m - k)
  ms : t.ms = s.ms
  gangs : t.gangs = s.gangs
  issue : t.issue = s.issue
  others : ∀ w, w < s.uids → t.team w = s.team w
  children : ∀ i, k ≤ i → i < m → ∃ id slot img r d next,
    t.team (s.uids + (i - k)) = s.me.child s.issue.team id i slot img r d entry next s.tick

theorem State.Forked.refl (s : State) (entry k : Nat) : s.Forked s entry k k :=
  ⟨Nat.le_refl k, by simp, rfl, rfl, rfl, fun _ _ => rfl, fun _ h h' => absurd h (by omega)⟩

theorem State.Bears.forked {s s1 t : State} {entry k m : Nat} (h : s.Bears s1 entry k) (hf : s1.Forked t entry (k + 1) m)
    (hu : s.issue.team < s.uids) : s.Forked t entry k m where
  le := Nat.le_of_succ_le hf.le
  uids := by have := hf.le; rw [hf.uids, h.uids]; omega
  ms := hf.ms.trans h.ms
  gangs := hf.gangs.trans h.gangs
  issue := hf.issue.trans h.issue
  others w hw := by rw [hf.others w (by rw [h.uids]; omega), h.others w (by omega)]
  children i hk hm := by
    have hme := h.me hu
    have htick : s1.tick = s.tick := by unfold State.tick; rw [h.cycle]
    by_cases e : i = k
    · subst e
      rw [Nat.sub_self, Nat.add_zero, hf.others _ (by rw [h.uids]; omega)]
      exact h.child
    · have := hf.children i (by omega) hm
      rw [hme, h.issue, htick, h.uids, show s.uids + 1 + (i - (k + 1)) = s.uids + (i - k) by omega] at this
      exact this

theorem State.Forked.me {s t : State} {entry k m : Nat} (h : s.Forked t entry k m) (hu : s.issue.team < s.uids) : t.me = s.me := by
  unfold State.me
  rw [h.issue, h.others _ hu]

/-- TFORK makes at most n children, and all n unless it comes to a state in which no child can be made. -/
theorem State.fork_spec (r : Regs) (d entry n : Nat) : ∀ (s : State) (k : Nat), s.issue.team < s.uids →
    s.Forked (s.fork r d entry n k).1 entry k (s.fork r d entry n k).2 ∧ (s.fork r d entry n k).2 ≤ k + n ∧
      ((s.fork r d entry n k).2 < k + n → (s.fork r d entry n k).1.NoChild s.me s.myGang.part) := by
  induction n with
  | zero => exact fun s k _ => ⟨.refl s entry k, Nat.le_refl _, fun h => absurd h (Nat.lt_irrefl _)⟩
  | succ n ih =>
    intro s k hu
    rcases s.fork_succ r d entry n k with ⟨e, hb⟩ | ⟨s1, e, hb⟩
    · rw [e]
      exact ⟨.refl s entry k, Nat.le_add_right _ _, fun _ => hb⟩
    · obtain ⟨hf, hle, hs⟩ := ih s1 (k + 1) (by rw [hb.issue, hb.uids]; omega)
      rw [hb.me hu, hb.myGang hu] at hs
      rw [e]
      exact ⟨hb.forked hf hu, by omega, fun h => hs (by omega)⟩

/-- The creator after TFORK: s[D] and the join counter have the number of children, and its slot is committed. -/
def Team.hasForked (t : Team) (d m slot : Nat) : Team :=
  { (t.both fun r => r.sset d (BitVec.ofNat 64 m)).committed slot with joinCnt := t.joinCnt + BitVec.ofNat 32 m }

/-- TFORK outside recipe code, of at most 32 children at an entry within the code (08 R185). -/
theorem exec_tfork {o : A3} {s : State} (hg : s.sGuard o.g = true) (hr : s.myGang.recompute = none)
    (hn : (sB s.rd false o.b).toNat ≤ 32) (he : (s.sA o).toNat < s.myGang.image.codeLen) :
    let x := s.fork s.rd o.d.toNat (s.sA o).toNat (sB s.rd false o.b).toNat 0
    exec (.tfork o) s = .next (x.1.setMe (x.1.me.hasForked o.d.toNat x.2 x.1.issue.slot)) := by
  intro x
  have hc : ¬ (32 < (sB s.rd false o.b).toNat ∨ s.myGang.image.codeLen ≤ (s.sA o).toNat) := by omega
  show execTfork o s = _
  unfold execTfork
  rw [State.sOp_of_guard _ hg]
  simp only [hr, Option.isSome_none, Bool.false_eq_true, if_false, if_neg hc]
  exact congrArg _ (State.modMe_modRegsC_finC _ _ _)

/-- A write of the executing team's registers frees no slot of a core. -/
theorem State.freeSlots_setMe_le (s : State) (y : Team) (core : Nat) (hc : y.core = s.me.core) (hg : y.gang = s.me.gang)
    (hs : y.slot = s.me.slot) (ht : y.st = s.me.st) :
    ((s.setMe y).freeSlots core).length ≤ (s.freeSlots core).length := by
  have hu : (s.slotsUsed core).Sublist ((s.setMe y).slotsUsed core) := by
    refine sublist_filter_tset Team.absent _ (fun x => x.2.slot) s.teams s.issue.team y (fun h => ?_) hs.symm
    show (y.core == core && y.st != .out && s.onDie (s.gang y.gang) && decide (y.slot < Config.coreSlots)) = true
    rw [hc, hg, hs, ht]
    exact h
  unfold State.freeSlots
  rw [← List.countP_eq_length_filter, ← List.countP_eq_length_filter]
  refine List.countP_mono_left fun k _ hk => ?_
  simp only [Bool.not_eq_true', List.contains_eq_mem, decide_eq_false_iff_not] at hk ⊢
  exact fun h => hk (hu.subset h)

theorem State.claims_le_setMe (s : State) (y : Team) (core : Nat) (hc : y.core = s.me.core) (hg : y.gang = s.me.gang)
    (ht : y.st = s.me.st) (hw : y.waits = s.me.waits) (hp : y.stopped = s.me.stopped) :
    s.claims core ≤ (s.setMe y).claims core := by
  have hu := sublist_filter_tset Team.absent (fun t => t.2.core == core && t.2.st == .out && t.2.waits.isEmpty &&
    !t.2.stopped && !(s.gang t.2.gang).suspended && s.onDie (s.gang t.2.gang)) (fun t => t.1) s.teams s.issue.team y (fun h => by
      show (y.core == core && y.st == .out && y.waits.isEmpty && !y.stopped && !(s.gang y.gang).suspended &&
        s.onDie (s.gang y.gang)) = true
      rw [hc, hg, ht, hw, hp]
      exact h) rfl
  have hl := hu.length_le
  rw [List.length_map, List.length_map] at hl
  exact hl

/-- A write of the executing team's registers frees no TEAMID of a gang. -/
theorem State.childId_setMe_none (s : State) (y : Team) (g : Nat) (hg : y.gang = s.me.gang) (hi : y.teamId = s.me.teamId)
    (h : s.childId g = none) : (s.setMe y).childId g = none := by
  have hu := sublist_filter_tset Team.absent (fun t => t.2.gang == g) (fun t => t.2.teamId) s.teams s.issue.team y
    (fun h => by
      show (y.gang == g) = true
      rw [hg]
      exact h) hi.symm
  unfold State.childId at h ⊢
  simp only [List.find?_eq_none, Bool.not_eq_true', Bool.not_eq_false, List.contains_eq_mem, decide_eq_true_eq] at h ⊢
  exact fun k hk => hu.subset (h k hk)

theorem Team.hasForked_place (t : Team) (d m slot : Nat) :
    (t.hasForked d m slot).core = t.core ∧ (t.hasForked d m slot).gang = t.gang ∧ (t.hasForked d m slot).slot = t.slot ∧
      (t.hasForked d m slot).st = t.st ∧ (t.hasForked d m slot).teamId = t.teamId ∧
      (t.hasForked d m slot).waits = t.waits ∧ (t.hasForked d m slot).stopped = t.stopped := by
  simp [Team.hasForked, Team.committed, Team.marked, Team.both]

/-- Where no child can be made, none can be after TFORK has written its count. -/
theorem State.NoChild.setMe {s : State} {t : Team} {p : Nat} (h : s.NoChild t p) (d m slot : Nat) :
    (s.setMe (s.me.hasForked d m slot)).NoChild t p := by
  obtain ⟨hc, hg, hs, ht, hi, hw, hp⟩ := s.me.hasForked_place d m slot
  have hfree := s.freeSlots_setMe_le _ t.core hc hg hs ht
  have hclaims := s.claims_le_setMe _ t.core hc hg ht hw hp
  have hid := s.childId_setMe_none _ t.gang hg hi
  exact h.imp (fun h => Nat.le_trans hfree (Nat.le_trans h hclaims)) (Or.imp hid id)

theorem Regs.sget_child (r : Regs) (d k : Nat) :
    ({ Regs.zero with s := (({ r with s := tset r.s d (r.sget d) }.sset 3 (BitVec.ofNat 64 k))).s } : Regs).sget 3 =
      BitVec.ofNat 64 k := by
  simp [Regs.sset, Regs.sget]

/-- The first bundle of a child waits while a store its creator made before the TFORK is still to be performed or
acknowledged (08 R185). -/
theorem State.unborn_of_store {s : State} {c p n k : Nat} (hb : (s.team c).birth = some (n, k))
    (hp : (s.team c).parent = some p)
    (h : (∃ h ∈ (s.team p).storeQ, let back := (BitVec.ofNat 32 n - BitVec.ofNat 32 h.region).toNat; 0 < back ∧ back < 2 ^ 31) ∨
      ∃ x ∈ (s.team p).unacked, x.sentAt ≤ k) : s.unborn c = true := by
  unfold State.unborn
  simp only [hb, hp, Bool.or_eq_true, List.any_eq_true, decide_eq_true_eq]
  exact h

theorem State.mayFetch_of_unborn {s : State} {c : Nat} (h : s.unborn c = true) : s.mayFetch c = false := by
  simp [State.mayFetch, State.ready_, h]

end Sys2Proof.Machine

open Sys2Proof Sys2Proof.Machine

/-- Settles O14: WNEXT draws the launch's counter once and commits with the value pending; TFORK's loop, by induction on
the children still asked for, makes m of them and stops only where no further child can be made; a child whose creator has
an earlier store outstanding is unborn. -/
theorem wnextDraws : Obligations.WnextDraws := by
  unfold Obligations.WnextDraws
  refine ⟨fun o s l x hg hl hx => ?_, fun o s hg hr hn he hu => ?_, fun s c p n k hb hp h => ?_⟩
  · have hx' : s.launch l = x := tget_of_tfind _ hx
    refine ⟨_, exec_wnext hg hl, ?_⟩
    rw [hx', Launch.draw_eq]
    refine ⟨State.me_setMe _ _, tget_tmod_same _ _ hx, fun k hk => tget_tmod_ne _ _ _ hk, ?_, ?_⟩
    · rw [State.me_setMe]
      rfl
    · exact ⟨fun _ => rfl, fun _ _ => rfl, fun _ _ _ => rfl⟩
  · have hx := exec_tfork hg hr hn he
    have hs := s.fork_spec s.rd o.d.toNat (s.sA o).toNat (sB s.rd false o.b).toNat 0 hu
    generalize s.fork s.rd o.d.toNat (s.sA o).toNat (sB s.rd false o.b).toNat 0 = x at hx hs
    obtain ⟨x, m⟩ := x
    obtain ⟨hf, hle, hstop⟩ := hs
    dsimp only at hx hf hle hstop
    rw [hf.me hu, hf.issue] at hx
    rw [Nat.zero_add] at hle hstop
    have hne : ∀ w, w ≠ s.issue.team → (x.setMe (s.me.hasForked o.d.toNat m s.issue.slot)).team w = x.team w := fun w hw =>
      x.team_setMe_ne _ (by rw [hf.issue]; exact hw)
    refine ⟨_, m, hx, hle, x.me_setMe _, fun w hw hw' => ?_, hf.uids, hf.ms, hf.gangs, fun hm => ?_, fun k hk => ?_⟩
    · rw [hne w hw', hf.others w hw]
    · have hb := (hstop hm).setMe o.d.toNat m s.issue.slot
      rw [hf.me hu] at hb
      exact hb
    · obtain ⟨id, slot, img, r, d, next, hc⟩ := hf.children k (Nat.zero_le k) hk
      rw [Nat.sub_zero] at hc
      rw [hne _ (by omega), hc]
      exact ⟨rfl, rfl, Regs.sget_child _ _ _, rfl⟩
  · exact State.mayFetch_of_unborn (State.unborn_of_store hb hp h)

end

section
/-!
SUPPORT. What a write through translation leaves as it was: every record of the state but the memories, and of a partition
everything but its recipe tiles (10 R235, 13 R296, R297).
-/

namespace Sys2Proof.Machine

/-- Only the memory system and what Fordom keeps of recipe tiles differ. -/
structure WriteFrame (s t : State) : Prop where
  whole : t = { s with parts := t.parts, ms := t.ms }
  parts : ∀ p, t.part p = { s.part p with rtiles := (t.part p).rtiles }

theorem WriteFrame.refl (s : State) : WriteFrame s s := ⟨rfl, fun _ => rfl⟩

theorem WriteFrame.trans {a b c : State} (h : WriteFrame a b) (g : WriteFrame b c) : WriteFrame a c :=
  ⟨by rw [g.whole, h.whole], fun p => by rw [g.parts, h.parts]⟩

theorem WriteFrame.of_ms (s : State) (m : MemSys) : WriteFrame s { s with ms := m } := ⟨rfl, fun _ => rfl⟩

theorem WriteFrame.teams {s t : State} (h : WriteFrame s t) : t.teams = s.teams := by rw [h.whole]
theorem WriteFrame.gangs {s t : State} (h : WriteFrame s t) : t.gangs = s.gangs := by rw [h.whole]
theorem WriteFrame.launches {s t : State} (h : WriteFrame s t) : t.launches = s.launches := by rw [h.whole]
theorem WriteFrame.queues {s t : State} (h : WriteFrame s t) : t.queues = s.queues := by rw [h.whole]

theorem WriteFrame.team {s t : State} (h : WriteFrame s t) (u : Nat) : t.team u = s.team u := by
  unfold State.team
  rw [h.teams]

/-- Virtual memory holds no place of a gang store (10 R223, R235). -/
theorem State.check_ne_gang {s : State} {c : Ctx} {k : Access} {va : Word} {n al : Nat} {l : Loc} {leaf : Leaf}
    (h : s.check c k va n al = .ok (l, leaf)) (a : Nat) : l ≠ .gang a := by
  rintro rfl
  unfold State.check at h
  dsimp only at h
  split at h
  · cases h
  · split at h
    · cases h
    · grind

theorem State.homeLoc_ne_gang (s : State) {l : Loc} (h : ∀ a, l ≠ .gang a) (a : Nat) : s.homeLoc l ≠ .gang a := by
  unfold State.homeLoc
  split
  · split <;> simp
  · exact h a

theorem WriteFrame.modTile (s : State) (p n : Nat) (f : RTile → RTile) : WriteFrame s (s.modTile p n f) :=
  ⟨rfl, fun q => part_modTile s p n q f⟩

theorem WriteFrame.writeLoc (s : State) (p g : Nat) (l : Loc) (d : List Byte) (h : ∀ a, l ≠ .gang a) :
    WriteFrame s (s.writeLoc p g l d) := by
  cases l with
  | gang a => exact absurd rfl (h a)
  | phys pa key => exact .of_ms _ _
  | recipe t off =>
    exact .modTile s p t fun r => { r with bytes := Memory.writeBytes r.bytes off d, bad := mended r.bad off d.length }

theorem WriteFrame.setTileState (s : State) (p n : Nat) (st : TileState) (b : Bool) : WriteFrame s (s.setTileState p n st b) := by
  unfold State.setTileState
  split
  · rename_i l leaf old hl ho
    dsimp only
    split
    · exact .of_ms _ _
    · exact .writeLoc s p 0 _ _ (s.homeLoc_ne_gang (State.check_ne_gang hl))
  · exact .refl s

theorem WriteFrame.dropTile (s : State) (p n : Nat) : WriteFrame s (s.dropTile p n) :=
  (WriteFrame.setTileState s p n .dropped false).trans (.modTile _ p n _)

theorem WriteFrame.evictTiles (pas : List Nat) (fuel : Nat) (s : State) : WriteFrame s (s.evictTiles pas fuel) := by
  induction fuel generalizing s with
  | zero => exact .refl s
  | succ fuel ih =>
    unfold State.evictTiles
    split
    · exact .refl s
    · dsimp only
      split
      · exact .refl s
      · exact (WriteFrame.dropTile s _ _).trans (ih _)

theorem WriteFrame.findFrames {s t : State} {pas : List Nat} (h : s.findFrames pas = some t) : WriteFrame s t := by
  obtain ⟨-, rfl⟩ := (State.findFrames_some s t pas).1 h
  exact .evictTiles _ _ s

theorem WriteFrame.makeRoom {g need fuel : Nat} {s t : State} (h : s.makeRoom g need fuel = .fits t) : WriteFrame s t := by
  induction fuel generalizing s with
  | zero => cases h
  | succ fuel ih =>
    unfold State.makeRoom at h
    split at h
    · cases h
      exact .refl _
    · split at h
      · exact (WriteFrame.dropTile s _ _).trans (ih h)
      · split at h <;> cases h

theorem WriteFrame.framed {s t : State} {p n : Nat} {at_ : List Nat} {put : State → State} (hp : ∀ x, WriteFrame x (put x))
    (h : s.framed p n at_ put = .done t) : WriteFrame s t := by
  unfold State.framed at h
  dsimp only at h
  split at h
  · cases h
    exact (hp s).trans (.findFrames ‹_›)
  · cases h

/-- A store of a tile that is done: to its open bytes, after it has been opened, and room made for its lines. -/
theorem WriteFrame.tileStore {s t : State} {p : Nat} {g : Option Nat} {n off : Nat} {va : Word} {d : List Byte}
    (h : s.tileStore p g n off va d = .done t) : WriteFrame s t := by
  unfold State.tileStore at h
  dsimp only at h
  have put : ∀ x : State, WriteFrame x (x.modTile p n fun t => { t with
      bytes := Memory.writeBytes t.bytes off d, bad := mended t.bad off d.length
      lines := t.lines ++ (linesOf off d.length).filter fun l => !t.lines.contains l }) := fun x => .modTile x p n _
  split at h
  · cases h
  · split at h
    · cases h
    · exact .framed put h
  · cases h
  · cases h
  · rename_i st _ _ _ _
    have opened : WriteFrame s (if st == .free then (s.setTileState p n .opened false).modTile p n fun t =>
        { t with bytes := [], resident := true, holder := g, lines := [], bad := [] } else s) := by
      split
      · exact (WriteFrame.setTileState s p n .opened false).trans (.modTile _ p n _)
      · exact .refl s
    generalize (if st == .free then (s.setTileState p n .opened false).modTile p n fun t =>
        { t with bytes := [], resident := true, holder := g, lines := [], bad := [] } else s) = s0 at h opened
    split at h
    · exact opened.trans (.framed put h)
    · split at h
      · exact opened.trans (.framed put h)
      · split at h
        · exact opened.trans ((WriteFrame.makeRoom ‹_›).trans (.framed put h))
        · cases h
        · cases h

theorem WriteFrame.writeVa (c : Ctx) (fuel : Nat) (s : State) (va : Word) (d : List Byte) :
    WriteFrame s (s.writeVa c va fuel d).1 := by
  induction fuel generalizing s va d with
  | zero => exact .refl s
  | succ fuel ih =>
    unfold State.writeVa
    split
    · exact .refl s
    · dsimp only
      split
      · exact .refl s
      · split
        · exact .refl s
        · exact .refl s
        · exact (WriteFrame.tileStore ‹_›).trans (ih _ _ _)
      · rename_i l leaf hl _
        split
        · split
          · exact .refl s
          · exact (WriteFrame.of_ms s _).trans (ih _ _ _)
        · split
          · exact .refl s
          · exact (WriteFrame.writeLoc s _ _ _ _ (s.homeLoc_ne_gang (State.check_ne_gang ‹_›))).trans (ih _ _ _)

theorem WriteFrame.writeMem (s : State) (c : Ctx) (va : Word) (d : List Byte) : WriteFrame s (s.writeMem c va d).1 :=
  .writeVa c _ s va d

theorem WriteFrame.writeAll (s : State) (c : Ctx) (va : Word) (d : List Byte) : WriteFrame s (s.writeAll c va d).1 := by
  have h := WriteFrame.writeMem s c va d
  unfold State.writeAll
  split
  · exact .refl s
  · rename_i s1 e
    rw [e] at h
    exact h

theorem WriteFrame.of_writeAll {s t : State} {c : Ctx} {va : Word} {d : List Byte} (h : s.writeAll c va d = (t, none)) :
    WriteFrame s t := by
  have := WriteFrame.writeAll s c va d
  rwa [h] at this

end Sys2Proof.Machine
end

section
/-!
How a launch begins (01 R27-R30, R34, R35, 02 R51): the entry at a queue's head, the checks of its descriptor, the copy of its
arguments, and what a rejection leaves.
-/

namespace Sys2Proof.Machine

/-! ### Frames of signals, logs and work queues -/

/-- Launches, teams, gangs and timeline slots stand as before, and of a launch queue all but the entries it has taken from
work queues (01 R41). -/
structure QueueFrame (s t : State) : Prop where
  launches : t.launches = s.launches
  teams : t.teams = s.teams
  gangs : t.gangs = s.gangs
  queue : ∀ q, t.queue q = { s.queue q with tail := (t.queue q).tail, built := (t.queue q).built }
  slots : ∀ p n, t.slotVal p n = s.slotVal p n

theorem QueueFrame.refl (s : State) : QueueFrame s s := ⟨rfl, rfl, rfl, fun _ => rfl, fun _ _ => rfl⟩

theorem QueueFrame.trans {a b c : State} (h : QueueFrame a b) (g : QueueFrame b c) : QueueFrame a c where
  launches := g.launches.trans h.launches
  teams := g.teams.trans h.teams
  gangs := g.gangs.trans h.gangs
  queue q := by rw [g.queue, h.queue]
  slots p n := (g.slots p n).trans (h.slots p n)

theorem QueueFrame.foldl {α : Type} (f : State → α → State) (l : List α) (s : State) (h : ∀ x a, QueueFrame x (f x a)) :
    QueueFrame s (l.foldl f s) :=
  List.foldlRecOn l f (motive := QueueFrame s) (.refl s) fun b hb a _ => hb.trans (h b a)

theorem QueueFrame.of_writeFrame {s t : State} (h : WriteFrame s t) : QueueFrame s t where
  launches := h.launches
  teams := h.teams
  gangs := h.gangs
  queue q := by
    unfold State.queue
    rw [h.queues]
  slots p n := by
    unfold State.slotVal
    rw [h.parts]

theorem QueueFrame.modPart (s : State) (p : Nat) (f : Part → Part) (h : ∀ x, (f x).slots = x.slots) :
    QueueFrame s (s.modPart p f) where
  launches := rfl
  teams := rfl
  gangs := rfl
  queue _ := rfl
  slots k n := by
    unfold State.slotVal
    by_cases e : k = p
    · rw [e, part_modPart_same, h]
    · rw [part_modPart_ne _ _ _ _ e]

theorem State.queue_modQueue_same (s : State) (q : Nat) (f : Queue → Queue) : (s.modQueue q f).queue q = f (s.queue q) :=
  tget_tset_same _ _ _ _

theorem State.queue_modQueue_ne (s : State) {q k : Nat} (f : Queue → Queue) (h : k ≠ q) :
    (s.modQueue q f).queue k = s.queue k := tget_tset_ne _ _ _ _ _ h

theorem QueueFrame.modQueue (s : State) (q : Nat) (f : Queue → Queue)
    (h : ∀ x, f x = { x with tail := (f x).tail, built := (f x).built }) : QueueFrame s (s.modQueue q f) where
  launches := rfl
  teams := rfl
  gangs := rfl
  queue k := by
    by_cases e : k = q
    · rw [e, State.queue_modQueue_same]
      exact h _
    · rw [State.queue_modQueue_ne _ _ e]
  slots _ _ := rfl

theorem QueueFrame.modWq (s : State) (p n : Nat) (f : WorkQueue → WorkQueue) : QueueFrame s (s.modWq p n f) :=
  .modPart s p _ fun _ => rfl

theorem QueueFrame.submitTakes (p n fuel : Nat) (s : State) : QueueFrame s (s.submitTakes p n fuel) := by
  induction fuel generalizing s with
  | zero => exact .refl s
  | succ fuel ih =>
    unfold State.submitTakes
    dsimp only
    split
    · exact .refl s
    · split
      · exact (QueueFrame.modQueue s _ _ fun _ => rfl).trans ((QueueFrame.modWq _ p n _).trans (ih _))
      · exact .refl s

theorem QueueFrame.buildTakes (p k fuel : Nat) (s : State) : QueueFrame s (s.buildTakes p k fuel) := by
  have build : ∀ (x : State) (n : Nat), QueueFrame x (x.buildTake p k n) := fun x n =>
    (QueueFrame.modWq x p k _).trans (.submitTakes p k 1 _)
  induction fuel generalizing s with
  | zero => exact .refl s
  | succ fuel ih =>
    unfold State.buildTakes
    dsimp only
    split
    · exact .refl s
    · split
      · exact (build s _).trans (ih _)
      · split
        · exact (build s _).trans (ih _)
        · exact .refl s

theorem QueueFrame.closeDue (s : State) (p : Nat) : QueueFrame s (s.closeDue p) :=
  .foldl _ _ s fun x w => (QueueFrame.modWq x p w.1 _).trans (.buildTakes p w.1 _ _)

theorem QueueFrame.resubmit (s : State) (q : Nat) : QueueFrame s (s.resubmit q) := by
  refine .foldl _ _ s fun x p => .foldl _ _ x fun y w => ?_
  split
  · exact .submitTakes p.1 w.1 _ y
  · exact .refl y

theorem QueueFrame.writeStatus (s : State) (p : Nat) (d : LaunchDesc) (a b c e : Nat) :
    QueueFrame s (s.writeStatus p d a b c e) := by
  unfold State.writeStatus State.writeOrLog
  split
  · exact .refl s
  · split
    · exact .of_writeFrame (.of_writeAll ‹_›)
    · exact ⟨rfl, rfl, rfl, fun _ => rfl, fun _ _ => rfl⟩

/-- A signal takes a slot to the larger of its value and the one signalled (02 R54). -/
theorem State.slotVal_signal (s : State) (p n : Nat) (v : Word) :
    (s.signal p n v).slotVal p n = if (s.slotVal p n).toNat < v.toNat then v else s.slotVal p n := by
  unfold State.signal
  rw [(QueueFrame.closeDue _ p).slots, State.slotVal, part_modPart_same]
  dsimp only
  unfold State.slotVal
  split
  · rw [tget_tset_same]
  · rfl

theorem State.signal_frame (s : State) (p n : Nat) (v : Word) :
    (s.signal p n v).launches = s.launches ∧ (s.signal p n v).teams = s.teams ∧ (s.signal p n v).gangs = s.gangs ∧
      ∀ q, (s.signal p n v).queue q =
        { s.queue q with tail := ((s.signal p n v).queue q).tail, built := ((s.signal p n v).queue q).built } := by
  unfold State.signal
  have h := QueueFrame.closeDue (s.modPart p fun q => { q with
    slots := if (tget 0 q.slots n).toNat < v.toNat then tset q.slots n v else q.slots }) p
  exact ⟨h.launches, h.teams, h.gangs, h.queue⟩

/-- The head entry's leave changes its own queue, and others only by what work queues submit in the room that comes. -/
theorem State.leaveQueue_frame (s : State) (q : Nat) :
    (s.leaveQueue q).launches = s.launches ∧ (s.leaveQueue q).teams = s.teams ∧ (s.leaveQueue q).gangs = s.gangs ∧
      (∀ p n, (s.leaveQueue q).slotVal p n = s.slotVal p n) ∧ ((s.leaveQueue q).queue q).phase = .idle ∧
      ((s.leaveQueue q).queue q).head = if (s.queue q).stale then (s.queue q).head else (s.queue q).head + 1 := by
  have h := QueueFrame.resubmit (s.modQueue q Queue.leave) q
  have hq : ((s.modQueue q Queue.leave).resubmit q).queue q = _ := h.queue q
  rw [State.queue_modQueue_same] at hq
  unfold State.leaveQueue
  refine ⟨h.launches, h.teams, h.gangs, h.slots, ?_, ?_⟩
  · rw [hq]
    rfl
  · rw [hq]
    rfl

/-! ### The entry at the head -/

theorem State.onlyQueue_modQueue (s : State) (q : Nat) (f : Queue → Queue) : s.OnlyQueue (s.modQueue q f) q :=
  ⟨by rw [State.queue_modQueue_same]; rfl, ⟨fun _ => rfl, fun _ _ => rfl, fun _ _ _ => rfl⟩⟩

/-- LQ_ENTRY_READ of a well-formed entry in memory (02 Table 2-3, R51). -/
theorem exec_lqEntryRead {s : State} {q : Nat} {b : List Byte} (hq : q < 1024) (hen : (s.queue q).en = true)
    (hph : (s.queue q).phase = .idle) (hne : (s.queue q).head ≠ (s.queue q).tail)
    (hrun : (s.part (s.queue q).part).st = .running) (hb : tfind (s.queue q).built (s.queue q).head.toNat = none)
    (hr : s.readMem (sysCtx (s.queue q).part) .load (s.queue q).entryVa 32 = .ok b) (h0 : fieldAt b 0 8 % 64 = 0)
    (h8 : fieldAt b 8 4 < 2 ^ 18) (hC : fieldAt b 0x0C 4 = 0) (h18 : fieldAt b 0x18 8 = 0) :
    exec (.lqEntryRead q) s = .next (s.modQueue q fun x => { x with
      phase := .waiting ⟨BitVec.ofNat 64 (fieldAt b 0 8), fieldAt b 8 4 % 65536, bitsOf (fieldAt b 8 4) 16 16 == 1,
        bitsOf (fieldAt b 8 4) 17 17 == 1, BitVec.ofNat 64 (fieldAt b 0x10 8), none⟩ }) := by
  have hgo : ¬ (1024 ≤ q ∨ (!(s.queue q).en) = true ∨ (s.queue q).phase ≠ .idle ∨ (s.queue q).head = (s.queue q).tail ∨
      (s.part (s.queue q).part).st ≠ .running) := by simp [hen, hph, hne, hrun, hq]
  have hfit : ¬ (fieldAt b 0 8 % 64 ≠ 0 ∨ 2 ^ 18 ≤ fieldAt b 8 4 ∨ fieldAt b 0x0C 4 ≠ 0 ∨ fieldAt b 0x18 8 ≠ 0) := by
    omega
  show execLqEntryRead q s = _
  unfold execLqEntryRead
  simp only [if_neg hgo, hb, hr, if_neg hfit]

/-! ### The checks of the descriptor -/

theorem State.entryReady_iff (s : State) (q : Nat) (e : LqEntry) :
    s.entryReady q e = true ↔ (e.serial = true → ∀ l ∈ s.launches, l.2.queue ≠ q) ∧
      (e.waitEn = true → e.waitVal.toNat ≤ (s.slotVal (s.queue q).part e.waitSlot).toNat) := by
  unfold State.entryReady
  cases e.serial <;> cases e.waitEn <;> simp

section
variable {s : State} {q : Nat} {e : LqEntry} {b : List Byte}

/-- LAUNCH_DESCRIPTOR_CHECK of a descriptor that passes. -/
theorem exec_launchDescriptorCheck_ok {img : Image} (hph : (s.queue q).phase = .waiting e)
    (hrun : (s.part (s.queue q).part).st = .running) (hready : s.entryReady q e = true)
    (hr : s.readMem (sysCtx (s.queue q).part) .load e.desc 256 = .ok b)
    (hc : s.checkDesc (s.queue q).part e.desc b = .ok img) :
    exec (.launchDescriptorCheck q) s = .next (s.newLaunch q e (parseDesc b) img) := by
  show execLaunchDescriptorCheck q s = _
  unfold execLaunchDescriptorCheck
  simp [hph, hrun, hready, hr, hc]

/-- LAUNCH_DESCRIPTOR_CHECK of a descriptor that fails a check (01 R30). -/
theorem exec_launchDescriptorCheck_error {f : Failure} (hph : (s.queue q).phase = .waiting e)
    (hrun : (s.part (s.queue q).part).st = .running) (hready : s.entryReady q e = true)
    (hr : s.readMem (sysCtx (s.queue q).part) .load e.desc 256 = .ok b)
    (hc : s.checkDesc (s.queue q).part e.desc b = .error f) :
    exec (.launchDescriptorCheck q) s = .next (s.rejectLaunch q e.desc (parseDesc b) f e.wq) := by
  show execLaunchDescriptorCheck q s = _
  unfold execLaunchDescriptorCheck
  simp [hph, hrun, hready, hr, hc]

end

/-- A rejected launch (01 R30): the record in the fault area or the queue error log, then the status, the signal of DONESLOT
and the entry's leave. -/
theorem State.rejectLaunch_eq (s : State) (q : Nat) (va : Word) (d : LaunchDesc) (f : Failure) :
    ∃ x, QueueFrame s x ∧ s.rejectLaunch q va d f none = (x.signal (s.queue q).part d.doneSlot d.doneVal).leaveQueue q := by
  unfold State.rejectLaunch
  dsimp only
  refine ⟨_, QueueFrame.trans ?_ (.writeStatus _ _ _ _ _ _ _), rfl⟩
  have log : ∀ r, QueueFrame s (s.logQueue (s.queue q).part r) := fun r => .modPart s _ _ fun _ => rfl
  split
  · split
    · exact .of_writeFrame (.of_writeAll ‹_›)
    · exact log _
  · exact log _

theorem State.rejectLaunch_spec (s : State) (q : Nat) (va : Word) (d : LaunchDesc) (f : Failure) :
    let t := s.rejectLaunch q va d f none
    let x := s.queue q
    t.launches = s.launches ∧ t.teams = s.teams ∧ t.gangs = s.gangs ∧ (t.queue q).phase = .idle ∧
      (t.queue q).head = (if x.stale then x.head else x.head + 1) ∧
      t.slotVal x.part d.doneSlot = if (s.slotVal x.part d.doneSlot).toNat < d.doneVal.toNat then d.doneVal
        else s.slotVal x.part d.doneSlot := by
  intro t x
  obtain ⟨y, hy, ht⟩ := s.rejectLaunch_eq q va d f
  obtain ⟨hl, ht', hg, hslot, hph, hhd⟩ := (y.signal x.part d.doneSlot d.doneVal).leaveQueue_frame q
  obtain ⟨hl', ht'', hg', hq⟩ := y.signal_frame x.part d.doneSlot d.doneVal
  rw [hq q, hy.queue q] at hhd
  rw [show t = _ from ht]
  refine ⟨by rw [hl, hl', hy.launches], by rw [ht', ht'', hy.teams], by rw [hg, hg', hy.gangs], hph, hhd, ?_⟩
  rw [hslot, State.slotVal_signal, hy.slots]

/-! ### The argument copy -/

/-- Launch l at the head of queue q has n pages of partition p from page k on, at address va, and offers its gangs. -/
def State.argsTaken (w : State) (q l p k n : Nat) (va : Word) : State :=
  ((w.modPart p fun y => { y with args := y.args ++ [(k, n)] }).modLaunch l fun y =>
    { y with argAddr := va, argPages := n }).offer q l

/-- What the pages taken leave where w is s after the copy's writes. -/
theorem State.argsTaken_spec {s w : State} {l : Nat} (hf : WriteFrame s w) (hl : tfind s.launches l = some (s.launch l))
    (q p k n : Nat) (va : Word) :
    let t := w.argsTaken q l p k n va
    t.queue q = { s.queue q with phase := .placing l } ∧
      t.launch l = { s.launch l with argAddr := va, argPages := n } ∧
      t.part p = { w.part p with args := (s.part p).args ++ [(k, n)] } ∧
      t = { w with
        queues := tset w.queues q (t.queue q)
        parts := tset w.parts p (t.part p)
        launches := tset w.launches l (t.launch l) } := by
  intro t
  have hq : t.queue q = { w.queue q with phase := .placing l } := State.queue_modQueue_same _ q _
  have hl' : t.launch l = { s.launch l with argAddr := va, argPages := n } :=
    tget_tmod_same Launch.absent _ (hf.launches ▸ hl)
  have hp : t.part p = { w.part p with args := (w.part p).args ++ [(k, n)] } :=
    part_modPart_same w p fun y => { y with args := y.args ++ [(k, n)] }
  have hm : t.launches = tset w.launches l { s.launch l with argAddr := va, argPages := n } :=
    tmod_eq_tset _ (hf.launches ▸ hl)
  refine ⟨by rw [hq, show w.queue q = s.queue q from congrArg (tget Queue.reset · q) hf.queues], hl', ?_, ?_⟩
  · rw [hp, show (w.part p).args = (s.part p).args by rw [hf.parts]]
  · rw [hq, hp, hl', ← hm]
    rfl

section
variable {s : State} {q l : Nat}

theorem exec_argCopy_none (hph : (s.queue q).phase = .checked l) (hrun : (s.part (s.launch l).desc.part).st = .running)
    (hn : (s.launch l).desc.argLen = 0) : exec (.argCopy q) s = .next (s.offer q l) := by
  show execArgCopy q s = _
  unfold execArgCopy
  simp [hph, hrun, hn, ceilDiv]

/-- ARG_COPY of a launch whose arguments take n pages from page k on (01 R34, R35). -/
theorem exec_argCopy_some {k : Nat} {b : List Byte} {w : State} (hph : (s.queue q).phase = .checked l)
    (hrun : (s.part (s.launch l).desc.part).st = .running) (hn : (s.launch l).desc.argLen ≠ 0)
    (hk : freePages (s.part (s.launch l).desc.part).args (s.part (s.launch l).desc.part).argPages
      (ceilDiv (s.launch l).desc.argLen 4096) ((s.part (s.launch l).desc.part).args.length + 1) 0 = some k)
    (hkey : s.keyOk (s.launch l).desc.part (s.launch l).desc.keyId = true)
    (hr : s.readMem (sysCtx (s.launch l).desc.part) .load (s.launch l).desc.args (s.launch l).desc.argLen = .ok b)
    (hw : s.writeAll (keyCtx (s.launch l).desc.part (s.launch l).desc.keyId)
      ((s.part (s.launch l).desc.part).argBase + BitVec.ofNat 64 (4096 * k))
      (b ++ List.replicate (4096 * ceilDiv (s.launch l).desc.argLen 4096 - (s.launch l).desc.argLen) 0) = (w, none)) :
    exec (.argCopy q) s = .next (w.argsTaken q l (s.launch l).desc.part k (ceilDiv (s.launch l).desc.argLen 4096)
      ((s.part (s.launch l).desc.part).argBase + BitVec.ofNat 64 (4096 * k))) := by
  have h0 : ceilDiv (s.launch l).desc.argLen 4096 ≠ 0 := by unfold ceilDiv; omega
  show execArgCopy q s = _
  unfold execArgCopy
  simp only [hph, hrun, ne_eq, not_true_eq_false, if_false, h0, hk, hkey, Bool.not_true, Bool.false_eq_true, hr, hw]
  rfl

end

end Sys2Proof.Machine

open Sys2Proof Sys2Proof.Machine

/-- Settles O40: each step of the entry at a queue's head by the rule for it, LQ_ENTRY_READ, LAUNCH_DESCRIPTOR_CHECK and
ARG_COPY; what a rejection leaves follows from the frames of its writes, its signal and the entry's leave. -/
theorem launchBegins : Obligations.LaunchBegins := by
  unfold Obligations.LaunchBegins
  refine ⟨fun s q hq => ⟨?_, ?_, ?_⟩, ?_⟩
  · intro b hen hph hne hrun hb hr h0 h8 hC h18
    exact ⟨_, exec_lqEntryRead hq hen hph hne hrun hb hr h0 h8 hC h18, s.onlyQueue_modQueue q _, s.queue_modQueue_same q _⟩
  · intro e b img hph hrun hserial hwait hr hc
    have hready := (s.entryReady_iff q e).2 ⟨hserial, hwait⟩
    refine ⟨_, exec_launchDescriptorCheck_ok hph hrun hready hr hc, rfl, ?_, State.queue_modQueue_same _ q _,
      tget_tset_same _ _ _ _⟩
    rw [show (s.newLaunch q e (parseDesc b) img).queue q = _ from State.queue_modQueue_same _ q _,
      show (s.newLaunch q e (parseDesc b) img).launch s.uids = _ from tget_tset_same _ _ _ _]
    rfl
  · intro l hph hrun
    refine ⟨fun hn => ⟨_, exec_argCopy_none hph hrun hn, s.onlyQueue_modQueue q _, s.queue_modQueue_same q _⟩, ?_⟩
    intro d p n k b w hn hl hk hkey hr hw
    exact ⟨_, exec_argCopy_some hph hrun hn hk hkey hr hw,
      State.argsTaken_spec (.of_writeAll hw) hl q d.part k n (p.argBase + BitVec.ofNat 64 (4096 * k))⟩
  · intro s q e b f x d hph hrun hready hwq hr hc
    have ht := exec_launchDescriptorCheck_error hph hrun hready hr hc
    rw [hwq] at ht
    exact ⟨_, ht, s.rejectLaunch_spec q e.desc d f⟩

end

section
/-!
SUPPORT. What checkpoints, releases, debug stops and the end of a team do to the record of the team itself (08 R187, R192,
19 R385-R387, R397-R400).
-/

namespace Sys2Proof.Machine

/-! ### The trace leaves the teams -/

theorem TraceOnly.team {s t : State} (h : TraceOnly s t) (u : Nat) : t.team u = s.team u := by
  obtain ⟨x, rfl⟩ := h
  rfl

@[simp] theorem State.emitSync_team (s : State) (u : Nat) (va : Word) (r v : Nat) :
    (s.emitSync u va r).team v = s.team v := (sync_tr s u va r).team v

/-! ### Stores that leave the release buffer -/

/-- A team whose queued stores have been performed or sent, or have failed (18 R374, 13 R478). -/
def Team.Drained (t x : Team) : Prop :=
  x = { t with storeQ := x.storeQ, storeFails := x.storeFails, unacked := x.unacked }

theorem Team.Drained.refl (t : Team) : t.Drained t := rfl

theorem Team.Drained.trans {a b c : Team} (h : a.Drained b) (g : b.Drained c) : a.Drained c := by
  unfold Team.Drained at *
  rw [g, h]

theorem State.writeLoc_team (s : State) (p g : Nat) (l : Loc) (d : List Byte) (u : Nat) :
    (s.writeLoc p g l d).team u = s.team u := by
  cases l <;> rfl

theorem State.performStore_drained (s : State) (u : Nat) (h : HeldStore) :
    (s.team u).Drained ((s.performStore u h).team u) := by
  unfold State.performStore
  dsimp only
  split
  · split
    · split
      · split
        · exact .refl _
        · rw [State.team_modTeam_same]
          rfl
      · rw [State.team_modTeam_same]
        rfl
    · rw [State.writeLoc_team]
      exact .refl _
  · rw [State.writeLoc_team]
    exact .refl _

theorem State.drain_drained (u k : Nat) (s : State) : (s.team u).Drained ((s.drain u k).team u) := by
  induction k generalizing s with
  | zero => exact .refl _
  | succ k ih =>
    unfold State.drain
    split
    · exact .refl _
    · rename_i h r _
      split
      · exact .refl _
      · refine (s.performStore_drained u h).trans (Team.Drained.trans ?_ (ih _))
        rw [State.team_modTeam_same]
        rfl

theorem State.release_drained (s : State) (u k : Nat) :
    Team.Drained { s.team u with held := (s.team u).held.drop k } ((s.release u k).team u) := by
  unfold State.release
  refine Team.Drained.trans ?_ (State.drain_drained u _ _)
  rw [State.team_modTeam_same]
  rfl

/-! ### Checkpoints -/

/-- A checkpoint releases the first k withheld stores, and records bundle n with the registers given (19 R385, R386). -/
theorem State.checkpoint_drained (s : State) (u n k : Nat) (lit : Bool) (r : Regs) (landed : Bool) :
    Team.Drained { s.team u with
      held := (s.team u).held.drop k
      ckpt := ⟨n, 0, 0, nextIndex n lit, .seq, r, r, ⟨none, none, none⟩, landed⟩
      ckptCnt := (s.team u).ckptCnt + 1
      shadow := []
      dispatched := 0
      kept := false } ((s.checkpoint u n k lit r landed).team u) := by
  have h := s.release_drained u k
  unfold State.checkpoint
  dsimp only
  rw [State.team_modTeam_same]
  generalize (s.release u k).team u = x at h ⊢
  unfold Team.Drained at h ⊢
  rw [h]

/-- A checkpoint at a bundle boundary withholds nothing and records the registers as they stand (19 R385). -/
theorem State.checkpointAt_drained (s : State) (u n : Nat) :
    Team.Drained { s.team u with
      held := []
      ckpt := ⟨n, 0, 0, nextIndex n (s.litAt u n), .seq, (s.team u).regs, (s.team u).regs, ⟨none, none, none⟩, false⟩
      ckptCnt := (s.team u).ckptCnt + 1
      shadow := []
      dispatched := 0
      kept := false } ((s.checkpointAt u n).team u) := by
  have h := s.checkpoint_drained u n (s.team u).held.length (s.litAt u n) (s.team u).regs false
  rw [List.drop_length] at h
  exact h

/-! ### Images, frames and debug stops -/

theorem WriteFrame.imageWrite (s : State) (u off : Nat) (d : List Byte) : WriteFrame s (s.imageWrite u off d) :=
  .writeMem s _ _ d

theorem WriteFrame.writeFrame (s : State) (u : Nat) (f : Frame) : WriteFrame s (s.writeFrame u f) :=
  ((((WriteFrame.imageWrite s u _ _).trans (.imageWrite _ u _ _)).trans (.imageWrite _ u _ _)).trans
    (.imageWrite _ u _ _)).trans (.imageWrite _ u _ _)

theorem WriteFrame.saveTeam (s : State) (u : Nat) : WriteFrame s (s.saveTeam u) :=
  ((WriteFrame.imageWrite s u _ _).trans (.imageWrite _ u _ _)).trans (.imageWrite _ u _ _)

/-- A team stopped for the debugger has no bundle in flight (19 R397). -/
theorem State.debugStop_flight (s : State) (u : Nat) (i : FaultInfo) : ((s.debugStop u i).team u).flight = none := by
  unfold State.debugStop
  extract_lets t0 s1 s2 s3 p s4 s5
  have h2 : (s2.team u).flight = none := by rw [State.team_modTeam_same]
  have h4 : s4.team u = s2.team u := (WriteFrame.writeFrame s2 u _).team u
  have h5 : s5.team u = s4.team u := by
    unfold s5
    split
    · exact (WriteFrame.saveTeam s4 u).team u
    · exact State.emitSync_team _ _ _ _ _
  have h : s5.team u = s2.team u := h5.trans h4
  split
  · refine List.foldlRecOn _ _ (motive := fun y : State => (y.team u).flight = none) (h ▸ h2) fun y hy t ht => ?_
    have hne : u ≠ t.1 := by
      rintro rfl
      simp at ht
    rw [y.team_modTeam_ne _ hne]
    exact hy
  · rw [h]
    exact h2

/-! ### The end of a team -/

theorem State.endRays_team (s : State) (l : List (Nat × Nat)) (code u : Nat) :
    (l.foldl (fun x r => x.endRay r.1 r.2 code) s).team u = s.team u := by
  refine List.foldlRecOn _ _ (motive := fun y : State => y.team u = s.team u) rfl fun y hy r _ => Eq.trans ?_ hy
  unfold State.endRay
  split <;> rfl

/-- The team executes no more, has no bundle in flight and withholds no store (08 R187). -/
structure Team.Gone (t : Team) : Prop where
  ended : t.ended = true
  st : t.st = .draining
  flight : t.flight = none
  held : t.held = []

theorem State.endTeam_team_ne (s : State) {u v : Nat} (h : v ≠ u) : (s.endTeam u).team v = s.team v := by
  unfold State.endTeam
  dsimp only
  rw [State.team_modTeam_ne _ _ h, State.emitSync_team, State.endRays_team]

theorem State.endTeam_gone (s : State) {u : Nat} (h : (s.team u).held = []) : ((s.endTeam u).team u).Gone := by
  unfold State.endTeam
  dsimp only
  rw [State.team_modTeam_same, State.emitSync_team, State.endRays_team]
  exact ⟨rfl, rfl, rfl, h⟩

theorem State.fenceGang_gone {s : State} {u : Nat} (g : Nat) (h : (s.team u).Gone) : ((s.fenceGang g).team u).Gone := by
  unfold State.fenceGang
  refine List.foldlRecOn _ _ (motive := fun y : State => (y.team u).Gone) h fun y hy t _ => ?_
  by_cases e : u = t.1
  · subst e
    split
    · rw [State.team_modTeam_same]
      exact ⟨hy.ended, hy.st, hy.flight, hy.held⟩
    · refine State.endTeam_gone _ ?_
      unfold State.rollback
      rw [State.team_modTeam_same]
  · split
    · rw [y.team_modTeam_ne _ e]
      exact hy
    · rw [State.endTeam_team_ne _ e, State.rollback, y.team_modTeam_ne _ e]
      exact hy

theorem State.abortLaunch_gone {s : State} {u : Nat} (l : Nat) (h : (s.team u).Gone) : ((s.abortLaunch l).team u).Gone := by
  unfold State.abortLaunch
  have hf : (((s.gangsOf l).foldl (fun x g => x.fenceGang g) s).team u).Gone :=
    List.foldlRecOn _ _ (motive := fun y : State => (y.team u).Gone) h fun y hy g _ => State.fenceGang_gone g hy
  dsimp only
  split
  · exact hf
  · exact hf

theorem State.logLaunch_team (s : State) (l : Nat) (fatal : Bool) (r : FaultRec) (u : Nat) :
    (s.logLaunch l fatal r).team u = s.team u := by
  unfold State.logLaunch
  dsimp only
  split
  · split
    · rename_i s1 e
      exact (WriteFrame.of_writeAll e).team u
    · rfl
  · rfl

/-- A contained fault ends its team (19 R400). -/
theorem State.contain_gone {s : State} {u : Nat} (pc : Nat) (i : FaultInfo) (kind inner : Nat) (h : (s.team u).held = []) :
    ((s.contain u pc i kind inner).team u).Gone := by
  have he := s.endTeam_gone h
  unfold State.contain
  dsimp only
  split
  · exact State.fenceGang_gone _ he
  · have hf : ∀ l r g, ((((s.endTeam u).logLaunch l true r).fenceGang g).team u).Gone := fun l r g =>
      State.fenceGang_gone g (by rw [State.logLaunch_team]; exact he)
    split
    · exact State.abortLaunch_gone _ (hf _ _ _)
    · exact hf _ _ _

end Sys2Proof.Machine
end

section
/-!
How flow leaves a bundle (08 R176, R180, R187, R191, 11 R264): along sequential flow and branches, at END, at TRET, and at
the continuation of a CPYY.
-/

namespace Sys2Proof.Machine

/-! ### Loops -/

/-- Sequential flow past position `at_` for the loop records of a team of gang g. -/
def Gang.loopsAfter (g : Gang) (at_ : Nat) (l : List LoopRec) : List LoopRec × Nat :=
  afterLoops (fun l : LoopRec => l.last.toNat) (fun l => l.first.toNat)
    (fun l => if l.loopw then (g.walker l.walker.toNat).flag l.dim.toNat else l.remain == 1)
    (fun l => { l with remain := if l.loopw then 0 else l.remain - 1 }) at_ l

theorem State.teamLoops_eq (s : State) (u at_ : Nat) :
    s.teamLoops u at_ = (s.gang (s.team u).gang).loopsAfter at_ (s.team u).regs.loops := rfl

/-- The team with other loop records and counters. -/
def Team.looped (t : Team) (l : List LoopRec) (c : Table Word) : Team :=
  { t with regs := { t.regs with loops := l }, counters := c }

theorem Team.eq_looped {t : Team} {l : List LoopRec} (h : t.regs.loops = l) : t = t.looped l t.counters := by
  subst h
  rfl

/-- The loop of a record is over: its last pass, or the flag of its walker's dimension, has come. -/
def Gang.loopOver (g : Gang) (x : LoopRec) : Bool :=
  if x.loopw then (g.walker x.walker.toNat).flag x.dim.toNat else x.remain == 1

theorem Gang.loopsAfter_cons (g : Gang) (at_ : Nat) (x : LoopRec) (rest : List LoopRec) :
    g.loopsAfter at_ (x :: rest) = if x.last.toNat ≠ at_ then (x :: rest, at_ + 1)
      else if g.loopOver x then g.loopsAfter at_ rest
      else ({ x with remain := if x.loopw then 0 else x.remain - 1 } :: rest, x.first.toNat) := rfl

/-- A loop record whose body ends where flow leaves, not over: the back edge. -/
theorem State.leavePos_again {s : State} {u at_ n : Nat} {x : LoopRec} {rest : List LoopRec}
    (hl : (s.team u).regs.loops = x :: rest) (hx : x.last.toNat = at_)
    (hd : (s.gang (s.team u).gang).loopOver x = false) :
    (s.leavePos u at_ (n + 1)).2 = x.first.toNat ∧ ∃ c, (s.leavePos u at_ (n + 1)).1.team u =
      (s.team u).looped ({ x with remain := if x.loopw then 0 else x.remain - 1 } :: rest) c := by
  have ha : (if x.loopw then !(tget default (s.gang (s.team u).gang).walkers x.walker.toNat).flag x.dim.toNat
      else x.remain != 1) = true := by
    unfold Gang.loopOver Gang.walker at hd
    cases hw : x.loopw <;> simp_all
  rw [State.leavePos]
  simp only [hl, hx, ne_eq, not_true_eq_false, if_false, ha, if_true, State.team_modTeam_same, true_and]
  split
  · exact ⟨_, rfl⟩
  · exact ⟨_, rfl⟩

/-- One whose loop is over: its record goes, and the trace names the exit of a LOOPW. -/
theorem State.leavePos_over {s : State} {u at_ n : Nat} {x : LoopRec} {rest : List LoopRec}
    (hl : (s.team u).regs.loops = x :: rest) (hx : x.last.toNat = at_)
    (hd : (s.gang (s.team u).gang).loopOver x = true) :
    ∃ y : State, s.leavePos u at_ (n + 1) = y.leavePos u at_ n ∧ y.gangs = s.gangs ∧
      y.team u = (s.team u).looped rest (s.team u).counters := by
  have ha : (if x.loopw then !(tget default (s.gang (s.team u).gang).walkers x.walker.toNat).flag x.dim.toNat
      else x.remain != 1) = false := by
    unfold Gang.loopOver Gang.walker at hd
    cases hw : x.loopw <;> simp_all
  have dropped : ∀ y, TraceOnly s y → TraceOnly (s.modTeam u fun t => { t with regs := { t.regs with loops := rest } })
      (y.modTeam u fun t => { t with regs := { t.regs with loops := rest } }) := by
    rintro y ⟨z, rfl⟩
    exact ⟨z, rfl⟩
  rw [State.leavePos]
  simp only [hl, hx, ne_eq, not_true_eq_false, if_false, ha, Bool.false_eq_true]
  refine ⟨_, rfl, ?_⟩
  suffices h : TraceOnly (s.modTeam u fun t => { t with regs := { t.regs with loops := rest } }) _ by
    refine ⟨?_, (h.team u).trans (s.team_modTeam_same u _)⟩
    obtain ⟨z, e⟩ := h
    rw [e]
    rfl
  cases x.loopw
  · exact .refl _
  · exact (dropped _ (due_tr _ _ _)).trans (emit_tr _ _ _ _ _ _ _)

/-- Only counters, trace and the loop records differ where sequential flow leaves a position: those go as `teamLoops` says
(08 R180). -/
theorem State.leavePos_team (u at_ : Nat) (l : List LoopRec) (fuel : Nat) (s : State) (hl : (s.team u).regs.loops = l)
    (hf : l.length < fuel) :
    (s.leavePos u at_ fuel).2 = (s.teamLoops u at_).2 ∧
      ∃ c, (s.leavePos u at_ fuel).1.team u = (s.team u).looped (s.teamLoops u at_).1 c := by
  induction l generalizing fuel s with
  | nil =>
    obtain ⟨n, rfl⟩ : ∃ n, fuel = n + 1 := ⟨fuel - 1, by omega⟩
    rw [State.teamLoops_eq, hl, State.leavePos]
    simp only [hl]
    exact ⟨rfl, _, Team.eq_looped hl⟩
  | cons x rest ih =>
    rw [List.length_cons] at hf
    obtain ⟨n, rfl⟩ : ∃ n, fuel = n + 1 := ⟨fuel - 1, by omega⟩
    rw [State.teamLoops_eq, hl, Gang.loopsAfter_cons]
    by_cases hx : x.last.toNat = at_
    · rw [if_neg (not_not_intro hx)]
      cases hd : (s.gang (s.team u).gang).loopOver x
      · exact State.leavePos_again hl hx hd
      · obtain ⟨y, e, hg, hy⟩ := State.leavePos_over (n := n) hl hx hd
        have hgang : (y.gang (y.team u).gang).loopsAfter at_ (y.team u).regs.loops =
            (s.gang (s.team u).gang).loopsAfter at_ rest := by
          rw [hy]
          unfold State.gang
          rw [hg]
          rfl
        obtain ⟨h, c, ht⟩ := ih n y (by rw [hy]; rfl) (by omega)
        rw [State.teamLoops_eq, hgang] at h ht
        rw [e, if_pos rfl]
        exact ⟨h, c, by rw [ht, hy]; rfl⟩
    · rw [if_pos hx, State.leavePos]
      simp only [hl, ne_eq, hx, not_false_eq_true, if_true]
      exact ⟨trivial, _, Team.eq_looped hl⟩

/-! ### Leaving a bundle -/

/-- The bundle in flight is over: nothing waits, and the tiles given to the operations of its position are used up. -/
def State.bundleOver (s : State) (u : Nat) : State :=
  s.modTeam u fun t => { t with
    flight := none, skipLand := false, st := .runnable, waits := []
    given := t.given.filter fun x => x.eng != .none || x.pc != t.pc }

/-- Flow goes on at a position; an oversize bundle ends its region with it (19 R389), and a fenced team ends (19 R400). -/
def State.goesOn (s : State) (u n : Nat) (oversize fenced : Bool) : State :=
  let s2 := s.modTeam u fun t => { t with pc := n }
  let s3 := if oversize then s2.checkpointAt u n else s2
  if fenced then s3.fenceStop u else s3

theorem State.release_all_held (s : State) (u : Nat) : ((s.release u (s.team u).held.length).team u).held = [] := by
  rw [s.release_drained u (s.team u).held.length]
  exact List.drop_length

/-- What is left of a team at its END: gone, whether it ends by itself or, in its handler, by containment. -/
theorem State.endHere_gone {s : State} {u : Nat}
    (hr : (s.team u).handler = none → (s.gang (s.team u).gang).recompute = none) : ((s.endHere u).team u).Gone := by
  have hheld := s.release_all_held u
  unfold State.endHere
  dsimp only
  split
  · rw [hr ‹_›]
    exact State.endTeam_gone _ hheld
  · exact State.contain_gone _ _ _ _ hheld

/-! ### Registers at TRET -/

theorem Regs.sget_sset_ne (r : Regs) {d j : Nat} (v : Word) (h : j ≠ d) : (r.sset d v).sget j = r.sget j :=
  (r.sset_onlyS d v).others j h

/-- s60 to s63 take the values they have in `old`; the other registers of `now` keep theirs (08 R191). -/
structure Regs.Resumes (now r old : Regs) : Prop where
  saved : ∀ k, k < 4 → r.sget (60 + k) = old.sget (60 + k)
  others : ∀ k, k < 60 → r.sget k = now.sget k
  v : r.v = now.v
  p : r.p = now.p
  c : r.c = now.c

theorem Regs.resumes_ssets (now old : Regs) :
    now.Resumes ((List.range 4).foldl (fun q k => q.sset (60 + k) (old.sget (60 + k))) now) old := by
  have e : (List.range 4).foldl (fun q k => q.sset (60 + k) (old.sget (60 + k))) now =
    (((now.sset 60 (old.sget 60)).sset 61 (old.sget 61)).sset 62 (old.sget 62)).sset 63 (old.sget 63) := rfl
  rw [e]
  refine ⟨fun k hk => ?_, fun k hk => ?_, rfl, rfl, rfl⟩
  · obtain rfl | rfl | rfl | rfl : k = 0 ∨ k = 1 ∨ k = 2 ∨ k = 3 := by omega
    all_goals simp [Regs.sget_sset, Regs.sget_sset_ne]
  · rw [Regs.sget_sset_ne _ _ (by omega), Regs.sget_sset_ne _ _ (by omega), Regs.sget_sset_ne _ _ (by omega),
      Regs.sget_sset_ne _ _ (by omega)]

/-- TRET: the handler's region commits, and the checkpoint of its frame stands again (08 R191). -/
theorem State.tretHere_team {s : State} {u m : Nat} {h : Handler} (hh : (s.team u).handler = some h) :
    let t := s.team u
    let e := (s.tretHere u m).team u
    e.handler = none ∧ e.flight = none ∧ e.pc = h.ckpt.n ∧ e.held = [] ∧ e.ckptCnt = t.ckptCnt + 1 ∧
      e.regs.masks = h.masks ∧ e.regs.loops = h.loops ∧ t.regs.Resumes e.regs h.ckpt.regs ∧
      e.ckpt.n = h.ckpt.n ∧ e.ckpt.regs = e.regs ∧ e.ckpt.done = if m = 1 then h.ckpt.done ||| 1 else h.ckpt.done := by
  have hd := s.release_drained u (s.team u).held.length
  rw [List.drop_length] at hd
  unfold State.tretHere
  simp only [hh]
  rw [State.emitSync_team, State.team_modTeam_same]
  generalize (s.release u (s.team u).held.length).team u = x at hd ⊢
  have hregs : x.regs = (s.team u).regs := by rw [hd]
  refine ⟨rfl, rfl, rfl, by rw [hd], by rw [hd], rfl, rfl, ?_, rfl, rfl, rfl⟩
  rw [← hregs]
  obtain ⟨h1, h2, h3, h4, h5⟩ := Regs.resumes_ssets { x.regs with
    masks := h.ckpt.regs.masks, loops := h.ckpt.regs.loops
    fmtPend := h.ckpt.regs.fmtPend ++ x.regs.fmtPend, wnextPend := h.ckpt.regs.wnextPend ++ x.regs.wnextPend } h.ckpt.regs
  exact ⟨h1, h2, h3, h4, h5⟩

section
variable {s : State} {u : Nat} {f : Flight}

/-- Where flow goes along sequentially, out of a loop, or to a target. -/
theorem State.endBundle_onward (hf : (s.team u).flight = some f) {x : List LoopRec × Nat}
    (hx : f.flow = .seq ∧ x = s.teamLoops u (nextIndex (s.team u).pc f.lit - 1) ∨
      (∃ l, f.flow = .leave l ∧ x = s.teamLoops u l) ∨ f.flow = .jump x.2 ∧ x.1 = (s.team u).regs.loops) :
    ∃ (y : State) (c : Table Word), s.endBundle u = y.goesOn u x.2 f.oversize (s.team u).fenced ∧
      y.team u = ((s.bundleOver u).team u).looped x.1 c := by
  have hover : ((s.bundleOver u).team u).regs.loops = (s.team u).regs.loops := by
    rw [State.bundleOver, State.team_modTeam_same]
  have hloops : ∀ n, (s.bundleOver u).teamLoops u n = s.teamLoops u n := fun n => by
    rw [State.teamLoops_eq, State.teamLoops_eq, hover, State.bundleOver, State.team_modTeam_same]
    rfl
  have hleave := fun n => (s.bundleOver u).leavePos_team u n _ ((s.team u).regs.loops.length + 1) hover (Nat.lt_succ_self _)
  unfold State.endBundle
  simp only [hf]
  rcases hx with ⟨h, rfl⟩ | ⟨l, h, rfl⟩ | ⟨h, hl⟩
  · obtain ⟨hn, c, ht⟩ := hleave (nextIndex (s.team u).pc f.lit - 1)
    rw [hloops] at hn ht
    refine ⟨_, c, ?_, ht⟩
    simp only [h]
    rw [← hn]
    rfl
  · obtain ⟨hn, c, ht⟩ := hleave l
    rw [hloops] at hn ht
    refine ⟨_, c, ?_, ht⟩
    simp only [h]
    rw [← hn]
    rfl
  · refine ⟨s.bundleOver u, ((s.bundleOver u).team u).counters, ?_, Team.eq_looped (by rw [hover, hl])⟩
    simp only [h]
    rfl

/-- A team that goes on stands at its next position, with no bundle in flight; of what it withholds and of its checkpoint
only the end of an oversize bundle's region changes anything. -/
theorem State.goesOn_team (s : State) (u n : Nat) (oversize : Bool) :
    let t := s.team u
    let e := (s.goesOn u n oversize false).team u
    (oversize = false → e = { t with pc := n }) ∧
      (oversize = true → Team.Drained { t with
        pc := n, held := [], ckptCnt := t.ckptCnt + 1, shadow := [], dispatched := 0, kept := false
        ckpt := ⟨n, 0, 0, nextIndex n ((s.modTeam u fun t => { t with pc := n }).litAt u n), .seq, t.regs, t.regs,
          ⟨none, none, none⟩, false⟩ } e) := by
  intro t e
  refine ⟨?_, ?_⟩
  · rintro rfl
    exact s.team_modTeam_same u fun t => { t with pc := n }
  · rintro rfl
    have h := (s.modTeam u fun t => { t with pc := n }).checkpointAt_drained u n
    rw [State.team_modTeam_same] at h
    exact h

/-- END (08 R187): the team is gone, in its handler as a contained fault's (19 R400). -/
theorem State.endBundle_ended (hf : (s.team u).flight = some f) (h : f.flow = .ended)
    (hr : (s.team u).handler = none → (s.gang (s.team u).gang).recompute = none) : ((s.endBundle u).team u).Gone := by
  have e : s.endBundle u = (s.bundleOver u).endHere u := by
    unfold State.endBundle
    simp only [hf, h]
    rfl
  rw [e]
  refine State.endHere_gone ?_
  rw [State.bundleOver, State.team_modTeam_same]
  exact hr

/-- TRET (08 R191): the interrupted team stands again at the checkpoint of its frame, with its own stacks and s60 to s63 and
the other registers as its handler left them. -/
theorem State.endBundle_tret {m : Nat} {h : Handler} (hf : (s.team u).flight = some f) (hm : f.flow = .tret m)
    (hh : (s.team u).handler = some h) :
    let t := s.team u
    let e := (s.endBundle u).team u
    e.handler = none ∧ e.flight = none ∧ e.pc = h.ckpt.n ∧ e.held = [] ∧ e.ckptCnt = t.ckptCnt + 1 ∧
      e.regs.masks = h.masks ∧ e.regs.loops = h.loops ∧ t.regs.Resumes e.regs h.ckpt.regs ∧
      e.ckpt.n = h.ckpt.n ∧ e.ckpt.regs = e.regs ∧ e.ckpt.done = if m = 1 then h.ckpt.done ||| 1 else h.ckpt.done := by
  have e : s.endBundle u = (s.bundleOver u).tretHere u m := by
    unfold State.endBundle
    simp only [hf, hm]
    rfl
  have ht : (s.bundleOver u).team u = _ := s.team_modTeam_same u _
  have hx := (s.bundleOver u).tretHere_team (h := h) (m := m) (by rw [ht]; exact hh)
  rw [ht] at hx
  rw [e]
  exact hx

/-- The continuation of a CPYY (11 R264): the team parks there for its copy, at a checkpoint. -/
theorem State.endBundle_cont {n : Word} {k : Nat} (hf : (s.team u).flight = some f) (h : f.flow = .cont n k)
    (hc : (s.team u).fenced = false) (he : (s.team u).ended = false) :
    let t := s.team u
    let e := (s.endBundle u).team u
    e.flight = none ∧ e.pc = k ∧ e.contNum = some n ∧ e.regs = t.regs ∧
      (e.held = [] ∧ e.ckptCnt = t.ckptCnt + 1 ∧ e.ckpt.n = k ∧ e.ckpt.done = 0 ∧ e.ckpt.regs = t.regs) ∧
      e.st = .parked ∧ e.waits = [.copyNumber n k] := by
  have hs := ((s.bundleOver u).modTeam u fun t => { t with pc := k, contNum := some n }).checkpointAt_drained u k
  rw [State.team_modTeam_same, State.bundleOver, State.team_modTeam_same] at hs
  unfold State.endBundle
  simp only [hf, h, hc, Bool.false_eq_true, if_false]
  rw [State.team_modTeam_same]
  generalize (State.checkpointAt _ u k).team u = x at hs ⊢
  rw [hs]
  simp only [he, Bool.false_eq_true, if_false, and_self]

end

end Sys2Proof.Machine
end

section
/-!
A step and the operations decoded for it (01 R22, R23, R28, 04 R90, R106, 06 R126, R141): the fetch and dispatch of a team's
next bundle, the run of its slots, and the events of the machine itself.
-/

namespace Sys2Proof.Machine

/-! ### The start of a bundle -/

/-- The SYNCs a dispatch pays leave the teams. -/
theorem State.paysFresh_team (s : State) (u v e : Nat) (va : Word) :
    (if !(s.ent e).fresh then s
      else if s.traced (s.team u) then (s.modEnt e fun y => { y with fresh := false }).paySyncs u va
      else s.modEnt e fun y => { y with fresh := false }).team v = s.team v := by
  split
  · rfl
  · split
    · exact ((ent_tr s e _).trans (pay_tr _ u va)).team v
    · rfl

theorem State.checkpoint_flight (s : State) (u n k : Nat) (lit : Bool) (r : Regs) (landed : Bool) :
    ((s.checkpoint u n k lit r landed).team u).flight = (s.team u).flight := by
  rw [s.checkpoint_drained u n k lit r landed]

/-- A bundle in flight after a dispatch is the one dispatched. -/
theorem State.start_bundle {s : State} {u : Nat} {b : Bundle} {lit : Bool} {f : Flight} (h : (s.team u).flight = none)
    (hf : ((s.start u b lit).team u).flight = some f) : f.bundle = b := by
  unfold State.start at hf
  extract_lets t e x s0 c inside s1 full cap r com hdrC need s2 at hf
  have h0 : (s0.team u).flight = none := by rw [show s0.team u = s.team u from s.paysFresh_team u u e _, h]
  have hfull : ∀ y : State, (y.team u).flight = none → ((full y).team u).flight ≠ some f := fun y hy => by
    rw [State.team_modTeam_same]
    intro e
    cases hy.symm.trans e
  split at hf
  · split at hf
    · exact absurd hf (hfull s0 h0)
    · rw [State.team_modTeam_same] at hf
      cases hf
      rfl
  · split at hf
    · rw [State.debugStop_flight] at hf
      cases hf
    · split at hf
      · refine absurd hf (hfull _ ?_)
        split
        · exact h0
        · rw [State.team_modTeam_same]
          exact (s0.checkpoint_flight _ _ _ _ _ _).trans h0
      · rw [State.team_modTeam_same] at hf
        cases hf
        rfl

/-- The counters of a team differ, and nothing else of it (21 R415). -/
def Team.Counted (t x : Team) : Prop := x = { t with counters := x.counters }

theorem Team.Counted.trans {a b c : Team} (h : a.Counted b) (g : b.Counted c) : a.Counted c := by
  unfold Team.Counted at *
  rw [g, h]

theorem Team.counted_count (t : Team) (reg n : Nat) : t.Counted (t.count reg n) := rfl

theorem Team.Counted.foldl {α : Type} (f : Team → α → Team) (l : List α) (t : Team) (h : ∀ (x : Team) a, x.Counted (f x a)) :
    t.Counted (l.foldl f t) :=
  List.foldlRecOn l f (motive := t.Counted) rfl fun b hb a _ => hb.trans (h b a)

theorem Team.countBundle_counted (t : Team) (b : Bundle) : t.Counted (t.countBundle b) := by
  have slots : ∀ (x : Team) (r : Nat → Nat),
      x.Counted ((List.range 4).foldl (fun y k => y.count (r k) 1) x) :=
    fun x r => .foldl _ _ x fun y k => y.counted_count _ _
  have base : t.Counted ((List.range 4).foldl
      (fun x k => x.count (0x040 + if (b.slot k).opNum = 0 then 4 + k else k) 1) (t.count 0x049 1)) :=
    (t.counted_count 0x049 1).trans (slots _ _)
  unfold Team.countBundle
  dsimp only
  split
  · exact base
  · exact base.trans (.foldl _ _ _ fun x j => (x.counted_count _ 1).trans (slots _ _))

/-- No store of the team is withheld or still to be performed. -/
def Team.NoStores (t : Team) : Prop := t.held = [] ∧ t.storeQ = []

/-- A checkpoint of a team with no stores has none to release. -/
theorem State.checkpoint_noStores {s : State} {u : Nat} (h : (s.team u).NoStores) (n k : Nat) (lit : Bool) (r : Regs)
    (landed : Bool) : ((s.checkpoint u n k lit r landed).team u).NoStores := by
  obtain ⟨hh, hq⟩ := h
  unfold State.checkpoint State.release
  simp only [hh, hq, List.take_nil, List.map_nil, List.append_nil, List.drop_nil, State.team_modTeam_same, List.length_nil,
    State.drain]
  exact ⟨rfl, rfl⟩

theorem Team.noRoom_eq {t : Team} (h : t.NoStores) (b : Bundle) (done : BitVec 4) :
    t.noRoom b done = decide (64 < t.bufNeed b done) := by
  obtain ⟨hh, hq⟩ := h
  unfold Team.noRoom Team.bufUsed
  rw [hh, hq]
  rfl

theorem Team.capacity_of_bufNeed {t : Team} {b : Bundle} (h : 64 < t.bufNeed b 0) : (t.capacity b).1 = true := by
  unfold Team.capacity
  exact decide_eq_true (.inl h)

/-- A team with no landing to skip, no stop asked for and no store outstanding starts its bundle with its NOPs complete. -/
theorem State.start_done {s : State} {u : Nat} (b : Bundle) (lit : Bool) (hl : (s.team u).skipLand = false)
    (hs : (s.team u).stopAsked = none) (hst : (s.team u).NoStores) :
    ∃ f, ((s.start u b lit).team u).flight = some f ∧ f.done = b.nops := by
  unfold State.start
  extract_lets t e x s0 c inside s1 full cap r com hdrC need s2
  have hin : inside = false := by unfold inside t; rw [hl]; rfl
  have hstop : s.stopDue u = none := by unfold State.stopDue; simp [hs]
  have h1 : (s1.team u).NoStores ∧ (s1.team u).lanes = t.lanes := by
    rw [State.team_modTeam_same, show s0.team u = s.team u from s.paysFresh_team u u e _, (s.team u).countBundle_counted b]
    exact ⟨hst, rfl⟩
  have h2 : (s2.team u).NoStores ∧ (s2.team u).lanes = t.lanes := by
    unfold s2
    split
    · rw [State.team_modTeam_same]
      refine ⟨State.checkpoint_noStores h1.1 _ _ _ _ _, ?_⟩
      rw [s1.checkpoint_drained]
      exact h1.2
    · exact h1
  have hroom : ((s2.team u).noRoom b 0 && !cap.1) = false := by
    rw [Team.noRoom_eq h2.1, show (s2.team u).bufNeed b 0 = t.bufNeed b 0 by unfold Team.bufNeed; rw [h2.2]]
    by_cases hb : 64 < t.bufNeed b 0
    · rw [show cap.1 = true from Team.capacity_of_bufNeed hb, Bool.not_true, Bool.and_false]
    · rw [decide_eq_false hb, Bool.false_and]
  rw [if_neg (by simp [hin]), if_neg (by simp [hstop]), if_neg (by rw [hroom]; exact Bool.false_ne_true),
    State.team_modTeam_same]
  exact ⟨_, rfl, rfl⟩

/-! ### Fetch and dispatch -/

section
variable {s : State} {u k : Nat} {e : OvlEntry} {ov : Overlay} {b : Bundle}

/-- A fetch from a resident overlay finds the bundle its words decode to, where a literal word has its place (04 R96, R106). -/
theorem State.fetched_ok
    (hlit : bundleHasLiteral (tget 0 ov.words (s.team u).pc) = true → (s.team u).pc + 1 ≠ e.first + e.count ∧
      ∀ x ∈ (s.team u).regs.loops, x.last.toNat ≠ (s.team u).pc)
    (hb : decodeBundle (s.gang (s.team u).gang).image.decMap
      (fun i => decide (i.vTop ≤ (s.team u).vregs) && decide (i.tTop ≤ (s.gang (s.team u).gang).ntile))
      (tget 0 ov.words (s.team u).pc) (tget 0 ov.words ((s.team u).pc + 1)) = .ok b) : s.fetched u e ov = .ok b := by
  have hplace : (bundleHasLiteral (tget 0 ov.words (s.team u).pc) && ((s.team u).pc + 1 == e.first + e.count ||
      (s.team u).regs.loops.any fun l => l.last.toNat == (s.team u).pc)) = false := by
    cases hl : bundleHasLiteral (tget 0 ov.words (s.team u).pc)
    · rfl
    · obtain ⟨h1, h2⟩ := hlit hl
      simpa [h1] using h2
  unfold State.fetched
  simp only [hplace, Bool.false_eq_true, if_false, hb]

/-- The state in which the next bundle of team u, in overlay k, has been chosen and fetched (04 R91, 06 R141). -/
def State.fetches (s : State) (u k : Nat) : State :=
  ((s.passCont u).touchOverlay u k).modCore (s.team u).core fun c =>
    { c with fetched := some (s.cycle, u), rota := u :: c.rota, acted := some s.cycle }

/-- Going on from a CPYY's continuation leaves the team as it was but for that number (11 R264). -/
theorem State.fetches_team (s : State) (u k : Nat) :
    (s.fetches u k).team u = { s.team u with contNum := ((s.fetches u k).team u).contNum } := by
  show (s.passCont u).team u = { s.team u with contNum := ((s.passCont u).team u).contNum }
  unfold State.passCont
  split
  · rfl
  · rw [State.team_modTeam_same]
    rfl

/-- The dispatch of a bundle that is resident and decodes starts it. -/
theorem State.dispatch_ok (hcont : (s.team u).contFail = none) (hpc : (s.team u).pc < (s.gang (s.team u).gang).image.codeLen)
    (hovl : (s.gang (s.team u).gang).image.ovlOf (s.team u).pc = some (k, e))
    (hres : (s.core (s.team u).core).resident (s.gang (s.team u).gang).part (s.gang (s.team u).gang).image k = some ov)
    (hb : s.fetched u e ov = .ok b) :
    s.dispatch u = (s.fetches u k).start u b (bundleHasLiteral (tget 0 ov.words (s.team u).pc)) := by
  unfold State.dispatch
  simp only [hcont, Nat.not_le.2 hpc, if_false, hovl, hres, hb]
  rfl

/-! ### Turns -/

/-- A step takes the agenda's first turn, here one with no time before it. -/
theorem step_agenda {a : Act} {r : List Turn} (hon : s.mgmt.railOn = true) (ha : s.agenda = ⟨0, a⟩ :: r) :
    step s = andThen (State.act exec { s with agenda := r } a) fun x => x.actNow exec := by
  unfold step State.turn State.nextTurn
  simp [ha, hon, State.elapse]

variable {ex : Instr → State → Host.Outcome State Fault Refusal}

/-- The turn of a team that may fetch runs the slots of the bundle its dispatch has started, if it has. -/
theorem State.takeTurn_fetch (hnone : (s.team u).flight = none) (hfence : (s.team u).fenced = false)
    (hmay : s.mayFetch u = true) (hfirst : s.fetchedNow (s.team u).core = false) {f : Flight}
    (hf : ((s.dispatch u).team u).flight = some f) : s.takeTurn ex u = (s.dispatch u).runSlots ex u := by
  unfold State.takeTurn
  simp [hnone, hfence, hmay, hfirst, hf]

theorem State.teamTurn_eq (h : s.nextCycle u = false) :
    s.teamTurn ex u = andThen (s.takeTurn ex u) fun x => .next (s.governed x (s.team u).core) := by
  have hid : ∀ o : Host.Outcome State Fault Refusal, andThen o (State.takeTurns ex (s.team u).core []) = o := by
    intro o
    cases o <;> rfl
  unfold State.teamTurn State.coreTurn
  rw [show [u].eraseDups = [u] from rfl]
  dsimp only
  rw [h, if_neg Bool.false_ne_true, State.takeTurns, hid, if_pos rfl]

/-- Nothing of a team that may fetch waits for the next cycle while its core has neither fetched nor acted in this one. -/
theorem State.nextCycle_fetch (hnone : (s.team u).flight = none) (hfirst : s.fetchedNow (s.team u).core = false)
    (hact : (s.core (s.team u).core).acted ≠ some s.cycle) : s.nextCycle u = false := by
  unfold State.nextCycle
  simp [hnone, hfirst, hact]

theorem State.fetchedNow_eq_false {n : Nat} (h : ∀ c v, (s.core n).fetched = some (c, v) → c ≠ s.cycle) :
    s.fetchedNow n = false := by
  unfold State.fetchedNow
  split
  · rename_i c v hc
    simpa using h c v hc
  · rfl

/-- The turn of a team that may fetch, on a core that has neither fetched nor acted in this cycle. -/
theorem State.teamTurn_fetch (hnone : (s.team u).flight = none) (hfence : (s.team u).fenced = false)
    (hmay : s.mayFetch u = true) (hfirst : ∀ c v, (s.core (s.team u).core).fetched = some (c, v) → c ≠ s.cycle)
    (hact : (s.core (s.team u).core).acted ≠ some s.cycle) {f : Flight} (hf : ((s.dispatch u).team u).flight = some f) :
    s.teamTurn ex u =
      andThen ((s.dispatch u).runSlots ex u) fun x => .next (s.governed x (s.team u).core) := by
  have hfetched := State.fetchedNow_eq_false hfirst
  rw [State.teamTurn_eq (State.nextCycle_fetch hnone hfetched hact), State.takeTurn_fetch hnone hfence hmay hfetched hf]

/-- An operation that has not completed, before which nothing stops, runs as it was decoded. -/
theorem State.runSlot_eq {f : Flight} (hf : (s.team u).flight = some f) (hd : f.done.getLsbD k = false)
    (hm : mayRun f.bundle f.done k = true) (hb : s.breakAt u k = false) (ho : (s.team u).stepOne = false)
    (hs : f.oversize = false) :
    s.runSlot ex u k = andThen
      (ex (f.bundle.slot k) { s with issue := ⟨u, k, (s.team u).core, (s.team u).old.pages, .none, s.issue.quota⟩ })
      fun x => .next { x with issue := { x.issue with pages := [] } } := by
  unfold State.runSlot
  simp only [hf, hd, hm, hb, ho, hs, Bool.not_true, Bool.or_self, Bool.false_and, Bool.false_eq_true, if_false, Bool.and_false]
  cases ex (f.bundle.slot k) { s with issue := ⟨u, k, (s.team u).core, (s.team u).old.pages, .none, s.issue.quota⟩ } <;> rfl

theorem andThen_next {o : Host.Outcome State Fault Refusal} {k : State → Host.Outcome State Fault Refusal} {t : State}
    (h : andThen o k = .next t) : ∃ x, o = .next x ∧ k x = .next t := by
  cases o with
  | next x => exact ⟨x, rfl, h⟩
  | fault x => cases h
  | refused x => cases h

/-- The slots run, the team settles. -/
theorem State.runSlots_settle {t : State} (h : s.runSlots ex u = .next t) : ∃ x : State, t = x.settle u := by
  unfold State.runSlots at h
  obtain ⟨s1, -, h⟩ := andThen_next h
  obtain ⟨s2, -, h⟩ := andThen_next h
  obtain ⟨s3, -, h⟩ := andThen_next h
  obtain ⟨s4, -, h⟩ := andThen_next h
  cases h
  exact ⟨s4, rfl⟩

/-- A bundle whose slots are done is left. -/
theorem State.settle_done {f : Flight} (hf : (s.team u).flight = some f) (hd : f.done = 0xF) :
    s.settle u = (if f.oversize then s else s.modTeam u fun t => t.noteShadow f).endBundle u := by
  unfold State.settle
  simp only [hf]
  exact if_pos hd

/-- Flow goes on: the team stands, runnable, where its loop records led; an oversize bundle's region ends there, another's
goes on. -/
theorem State.endBundle_goesOn {f : Flight} (hf : (s.team u).flight = some f) {x : List LoopRec × Nat}
    (hx : f.flow = .seq ∧ x = s.teamLoops u (nextIndex (s.team u).pc f.lit - 1) ∨
      (∃ l, f.flow = .leave l ∧ x = s.teamLoops u l) ∨ f.flow = .jump x.2 ∧ x.1 = (s.team u).regs.loops)
    (hfence : (s.team u).fenced = false) :
    let t := s.team u
    let e := (s.endBundle u).team u
    e.flight = none ∧ e.st = .runnable ∧ e.pc = x.2 ∧ e.regs = { t.regs with loops := x.1 } ∧ e.handler = t.handler ∧
      (f.oversize = false → e.ckpt = t.ckpt ∧ e.ckptCnt = t.ckptCnt ∧ e.held = t.held) ∧
      (f.oversize = true → e.ckptCnt = t.ckptCnt + 1 ∧ e.held = [] ∧ e.ckpt.n = x.2 ∧ e.ckpt.done = 0 ∧
        e.ckpt.regs = e.regs) := by
  intro t e
  obtain ⟨y, c, hy, ht⟩ := State.endBundle_onward hf hx
  obtain ⟨hnot, hover⟩ := y.goesOn_team u x.2 f.oversize
  rw [hfence] at hy
  have he : e = (y.goesOn u x.2 f.oversize false).team u := congrArg (·.team u) hy
  rw [State.bundleOver, State.team_modTeam_same] at ht
  rw [he]
  cases ho : f.oversize
  · rw [ho] at hnot
    rw [hnot rfl, ht]
    exact ⟨rfl, rfl, rfl, rfl, rfl, fun _ => ⟨rfl, rfl, rfl⟩, fun h => absurd h Bool.false_ne_true⟩
  · rw [ho] at hover
    rw [hover rfl, ht]
    exact ⟨rfl, rfl, rfl, rfl, rfl, fun h => absurd h.symm Bool.false_ne_true, fun _ => ⟨rfl, rfl, rfl, rfl, rfl⟩⟩

end

end Sys2Proof.Machine

open Sys2Proof Sys2Proof.Machine

/-- Settles O55: a turn by its fetch, its dispatch and the run of each slot; flow by the cases of the flow chosen. -/
theorem stepRunsDecoded : Obligations.StepRunsDecoded := by
  unfold Obligations.StepRunsDecoded
  refine ⟨?_, ?_, ?_, ?_, ?_⟩
  · intro s u r hon ha t g n q k e ov b w lit hmay hnone hfence hcont hfirst hact hpc hovl hres hlit hb s1
    have hd : q.dispatch u = s1 := State.dispatch_ok (s := q) hcont hpc hovl hres (State.fetched_ok (s := q) hlit hb)
    have hq : (q.fetches u k).team u = { t with contNum := ((q.fetches u k).team u).contNum } := q.fetches_team u k
    refine ⟨fun f hf => ⟨State.start_bundle (s := q.fetches u k) (by rw [hq]; exact hnone) hf, ?_⟩,
      fun hl hstop _ hheld hsq => State.start_done (s := q.fetches u k) b lit (by rw [hq]; exact hl) (by rw [hq]; exact hstop)
        (by rw [hq]; exact ⟨hheld, hsq⟩)⟩
    have hturn := State.teamTurn_fetch (s := q) (ex := exec) hnone hfence hmay hfirst hact (hd ▸ hf)
    rw [hd] at hturn
    exact (step_agenda hon ha).trans (congrArg (andThen · fun x => x.actNow exec) hturn)
  · exact fun s u k f hf hd hm hb ho hs => State.runSlot_eq hf hd hm hb ho hs
  · exact fun s t u h => State.runSlots_settle h
  · intro s u f hf t e stands
    refine ⟨fun hd ho => ?_, fun hd ho => ?_, fun x hx hfence => State.endBundle_goesOn hf hx hfence, fun hflow hrec => ?_,
      fun m h hflow hh => ?_, fun n k hflow hfence hended => State.endBundle_cont hf hflow hfence hended⟩
    · rw [State.settle_done hf hd, if_pos ho]
    · rw [State.settle_done hf hd, if_neg (by simp [ho])]
    · obtain ⟨hended, hst, hflight, hheld⟩ := State.endBundle_ended hf hflow hrec
      exact ⟨hended, hst, hflight, hheld⟩
    · obtain ⟨hhandler, hflight, hpc, hheld, hcnt, hmasks, hloops, ⟨hsaved, hothers, hv, hp, hc⟩, hckpt⟩ :=
        State.endBundle_tret hf hflow hh
      exact ⟨hhandler, hflight, hpc, hheld, hcnt, hmasks, hloops, hsaved, hothers, hv, hp, hc, hckpt⟩
  · intro s i r hon ha hi
    rw [step_agenda hon ha]
    unfold State.act State.runEvent
    simp only [hi]

end

section
/-!
How the distributor places the next gang of a launch (03 R69-R73): its teams in their slots, its record in its image, the
fills of PRELOAD overlays, and the room its launch leaves in its queue.
-/

namespace Sys2Proof.Machine

/-! ### Teams into their slots -/

/-- The team stands at its start as team j of gang g (01 Table 1-7, 03 R73): `r` is its role's number, its role and its index
within it. -/
structure Team.Starts (u : Team) (x : Launch) (g index : Nat) (cores : List Nat) (j : Nat) (r : Nat × Role × Nat) : Prop where
  gang : u.gang = g
  teamId : u.teamId = j
  role : u.role = r.1
  lanes : u.lanes = r.2.1.lanes
  vregs : u.vregs = r.2.1.vregs
  pc : u.pc = r.2.1.entry
  st : u.st = .runnable
  core : u.core ∈ cores
  regs : u.regs = startRegs x index r.2.2 r.1 r.2.1
  ckpt : u.ckpt.n = r.2.1.entry

/-- Teams j, j + 1, … of gang g have joined the table of teams; nothing else but the trace differs. -/
structure State.Seats (s t : State) (x : Launch) (g : Nat) (cores : List Nat) (j : Nat) (l : List (Nat × Role × Nat)) :
    Prop where
  whole : t = { s with teams := t.teams, uids := s.uids + l.length, trace := t.trace }
  old : ∀ u, u < s.uids → t.team u = s.team u
  new : ∀ i r, l[i]? = some r → (t.team (s.uids + i)).Starts x g (s.gang g).index cores (j + i) r

theorem State.addTeams_seats (x : Launch) (g : Nat) {cores : List Nat} (hc : cores ≠ []) (l : List (Nat × Role × Nat))
    (s : State) (at_ j : Nat) : s.Seats (s.addTeams x g cores at_ j l) x g cores j l := by
  induction l generalizing s at_ j with
  | nil => exact ⟨rfl, fun _ _ => rfl, fun i r h => by simp at h⟩
  | cons r rest ih =>
    obtain ⟨ri, r, k⟩ := r
    have hpos : 0 < cores.length := List.length_pos_iff.2 hc
    have hcore : cores.getD (j % cores.length) 0 ∈ cores := by
      rw [List.getD_eq_getElem?_getD, List.getElem?_eq_getElem (Nat.mod_lt _ hpos), Option.getD_some]
      exact List.getElem_mem _
    unfold State.addTeams
    extract_lets core y regs _ t s1
    obtain ⟨whole, old, new⟩ := ih s1 (at_ + ceilDiv (teamImageBytes r.vregs r.lanes) 4096 * 4096) (j + 1)
    generalize s1.addTeams x g cores _ (j + 1) rest = z at whole old new ⊢
    have huids : s1.uids = s.uids + 1 := rfl
    refine ⟨?_, fun u hu => ?_, fun i q hq => ?_⟩
    · rw [whole, huids, List.length_cons, Nat.add_right_comm, Nat.add_assoc]
      rfl
    · rw [old u (by omega)]
      exact tget_tset_ne _ _ _ _ _ (by omega)
    · cases i with
      | zero =>
        obtain rfl : (ri, r, k) = q := by simpa using hq
        have ht : z.team (s.uids + 0) = t := (old _ (by omega)).trans (tget_tset_same _ _ _ _)
        rw [ht]
        exact ⟨rfl, rfl, rfl, rfl, rfl, rfl, rfl, hcore, rfl, rfl⟩
      | succ i =>
        have h := new i q hq
        rw [huids, Nat.add_right_comm, Nat.add_right_comm j] at h
        exact h

theorem targetCores_ne_nil (cluster : Bool) (k : Nat) : targetCores cluster k ≠ [] := by
  cases cluster <;> simp [targetCores]

/-! ### Preloads and the launch's queue -/

/-- Preloads start fills on cores and do nothing else (04 R92). -/
theorem State.preload_cores (s : State) (p : Nat) (i : Image) (n : Nat) : ∃ c, s.preload p i n = { s with cores := c } :=
  List.foldlRecOn _ _ (motive := fun y : State => ∃ c, y = { s with cores := c }) ⟨_, rfl⟩ fun y ⟨c, hy⟩ e _ => by
    subst hy
    exact ⟨_, rfl⟩

theorem State.preloads_cores (s : State) (p : Nat) (i : Image) (l : List Nat) :
    ∃ c, l.foldl (fun (y : State) n => y.preload p i n) s = { s with cores := c } :=
  List.foldlRecOn _ _ (motive := fun y : State => ∃ c, y = { s with cores := c }) ⟨_, rfl⟩ fun y ⟨c, hy⟩ n _ => by
    obtain ⟨c', h⟩ := y.preload_cores p i n
    exact ⟨c', by rw [h, hy]⟩

/-- Only launch queues and work queues differ. -/
structure WqFrame (s t : State) : Prop where
  whole : t = { s with parts := t.parts, queues := t.queues }
  parts : ∀ p, t.part p = { s.part p with wqs := (t.part p).wqs }

theorem WqFrame.refl (s : State) : WqFrame s s := ⟨rfl, fun _ => rfl⟩

theorem WqFrame.trans {a b c : State} (h : WqFrame a b) (g : WqFrame b c) : WqFrame a c :=
  ⟨by rw [g.whole, h.whole], fun p => by rw [g.parts, h.parts]⟩

theorem WqFrame.foldl {α : Type} (f : State → α → State) (l : List α) (s : State) (h : ∀ x a, WqFrame x (f x a)) :
    WqFrame s (l.foldl f s) :=
  List.foldlRecOn l f (motive := WqFrame s) (.refl s) fun b hb a _ => hb.trans (h b a)

theorem WqFrame.modQueue (s : State) (q : Nat) (f : Queue → Queue) : WqFrame s (s.modQueue q f) := ⟨rfl, fun _ => rfl⟩

theorem WqFrame.modWq (s : State) (p n : Nat) (f : WorkQueue → WorkQueue) : WqFrame s (s.modWq p n f) where
  whole := rfl
  parts k := by
    unfold State.modWq
    by_cases e : k = p
    · rw [e, part_modPart_same]
    · rw [part_modPart_ne _ _ _ _ e]

theorem WqFrame.submitTakes (p n fuel : Nat) (s : State) : WqFrame s (s.submitTakes p n fuel) := by
  induction fuel generalizing s with
  | zero => exact .refl s
  | succ fuel ih =>
    unfold State.submitTakes
    dsimp only
    split
    · exact .refl s
    · split
      · exact (WqFrame.modQueue s _ _).trans ((WqFrame.modWq _ p n _).trans (ih _))
      · exact .refl s

theorem WqFrame.leaveQueue (s : State) (q : Nat) : WqFrame s (s.leaveQueue q) := by
  refine (WqFrame.modQueue s q Queue.leave).trans (.foldl _ _ _ fun x p => .foldl _ _ x fun y w => ?_)
  split
  · exact .submitTakes p.1 w.1 _ y
  · exact .refl y

/-! ### The gang -/

/-- The next gang of launch l as the distributor makes it on target k, with its image `at_` into the context pool. -/
def State.freshGang (s : State) (l k at_ bytes : Nat) : Gang :=
  let x := s.launch l
  let d := x.desc
  { Gang.absent with
    launch := some l, part := d.part, index := x.nextGang, prio := x.prio, cluster := d.cluster, place := k, order := s.uids
    gstore := d.gstore, ntile := d.ntile, tileKb := d.tileKb, keyId := d.keyId, hndEn := d.hndEn, image := x.image
    img := (s.part d.part).ctxBase + BitVec.ofNat 64 at_, imgLen := bytes
    newTiles := decide (s.tilesFree (targetCluster d.cluster k) < d.tileKb) }

/-- That gang with its teams in their slots, its record not yet written. -/
def State.gangSeated (s : State) (l k at_ bytes : Nat) : State :=
  let x := s.launch l
  let gang := s.freshGang l k at_ bytes
  ({ s with gangs := tset s.gangs s.uids gang, uids := s.uids + 1, dev := { s.dev with served := x.queue } } : State).addTeams
    x s.uids (targetCores x.desc.cluster k) gang.teamsOff 0 x.desc.teamList

/-- State t is v with the record of gang g in its image, and launch l's count of gangs one more; the fills of cores and the
queues may differ too. -/
structure State.Recorded (v t : State) (g l : Nat) : Prop where
  uids : t.uids = v.uids
  teams : t.teams = v.teams
  gangs : t.gangs = v.gangs
  launches : t.launches = tmod v.launches l fun y => { y with nextGang := y.nextGang + 1 }
  ms : t.ms = (v.saveRecord g).ms
  pool : ∀ p, (t.part p).pool = (v.part p).pool

/-- What follows once a gang is seated: its record, preloads, the launch's count of gangs, and the leave of a launch whose
last gang this is. -/
theorem State.placeFresh_recorded (s : State) (l k at_ bytes : Nat) :
    State.Recorded (s.gangSeated l k at_ bytes) (s.placeFresh l k at_ bytes) s.uids l := by
  unfold State.placeFresh
  extract_lets x d g _ gang cores _ s1 s2 s3
  obtain ⟨c, hc⟩ := s2.preloads_cores d.part x.image cores
  have h3 : s3 = ({ s2 with cores := c } : State).modLaunch l fun y => { y with nextGang := y.nextGang + 1 } := by
    unfold s3
    rw [hc]
  have h2 : s2 = (s.gangSeated l k at_ bytes).saveRecord s.uids := rfl
  clear_value s3 s2
  generalize s.gangSeated l k at_ bytes = v at h2 ⊢
  have hw : WriteFrame v s2 := h2 ▸ .writeMem _ _ _ _
  have hleave : ∀ t, WqFrame s3 t → State.Recorded v t s.uids l := by
    intro t ht
    have hpool : ∀ p, (t.part p).pool = (s3.part p).pool := fun p => by rw [ht.parts]
    have whole := ht.whole
    rw [h3] at whole hpool
    exact {
      uids := by rw [whole, hw.whole]; rfl
      teams := by rw [whole, hw.whole]; rfl
      gangs := by rw [whole, hw.whole]; rfl
      launches := by rw [whole, hw.whole]; rfl
      ms := by rw [whole, ← h2]; rfl
      pool := fun p => (hpool p).trans (by rw [← congrArg Part.pool (hw.parts p)]; rfl) }
  split
  · exact hleave _ (.leaveQueue s3 x.queue)
  · exact hleave _ (.refl s3)

/-- State v is s with the next gang of launch l under the next key and its teams at their start under the keys after it. -/
structure State.SeatsGang (s v : State) (l k : Nat) (gang : Gang) : Prop where
  gangs : v.gangs = tset s.gangs s.uids gang
  uids : v.uids = s.uids + 1 + (s.launch l).desc.teamList.length
  dev : v.dev = { s.dev with served := (s.launch l).queue }
  launches : v.launches = s.launches
  parts : v.parts = s.parts
  ms : v.ms = s.ms
  issue : v.issue = s.issue
  mgmt : v.mgmt = s.mgmt
  old : ∀ u, u < s.uids → v.team u = s.team u
  new : ∀ j r, (s.launch l).desc.teamList[j]? = some r →
    (v.team (s.uids + 1 + j)).Starts (s.launch l) s.uids gang.index (targetCores (s.launch l).desc.cluster k) j r

theorem State.gangSeated_seats (s : State) (l k at_ bytes : Nat) :
    s.SeatsGang (s.gangSeated l k at_ bytes) l k (s.freshGang l k at_ bytes) := by
  obtain ⟨whole, old, new⟩ : State.Seats
      { s with
        gangs := tset s.gangs s.uids (s.freshGang l k at_ bytes), uids := s.uids + 1
        dev := { s.dev with served := (s.launch l).queue } }
      (s.gangSeated l k at_ bytes) (s.launch l) s.uids (targetCores (s.launch l).desc.cluster k) 0
      (s.launch l).desc.teamList := State.addTeams_seats _ _ (targetCores_ne_nil _ _) _ _ _ _
  refine ⟨?_, ?_, ?_, ?_, ?_, ?_, ?_, ?_, fun u hu => old u (Nat.lt_succ_of_lt hu), fun j r hj => ?_⟩
  iterate 8 rw [whole]
  have h := new j r hj
  unfold State.gang at h
  rw [tget_tset_same, Nat.zero_add] at h
  exact h

/-- Partition n with the context pool of q. -/
def State.withPool (s : State) (n : Nat) (q : Part) : State := s.modPart n fun p => { p with pool := q.pool }

theorem State.withPool_pool (s : State) (n : Nat) (q : Part) : ((s.withPool n q).part n).pool = q.pool := by
  rw [State.withPool, part_modPart_same]

theorem State.withPool_ctxBase (s : State) (n : Nat) (q : Part) : ((s.withPool n q).part n).ctxBase = (s.part n).ctxBase := by
  rw [State.withPool, part_modPart_same]

/-- GANG_PLACEMENT with one offer, of a launch's next gang, that can be placed without moving another team. -/
theorem exec_gangPlacement_fresh {s : State} {a b c e l k at_ bytes : Nat} {p : Part}
    (ho : s.offers = [(a, b, c, e, .fresh l)]) (hb : (s.needOf l).bytes = some bytes)
    (hp : (s.part (s.launch l).desc.part).takePool bytes = some (at_, p)) (hk : s.chooseTarget (s.needOf l) = some (k, s)) :
    exec .gangPlacement s = .next ((s.withPool (s.launch l).desc.part p).placeFresh l k at_ bytes) := by
  have ht : s.tryPlace (.fresh l) = some ((s.withPool (s.launch l).desc.part p).placeFresh l k at_ bytes) := by
    have hpart : (s.needOf l).part = (s.launch l).desc.part := rfl
    unfold State.tryPlace
    simp only [hb, hpart, hp, hk, Option.map_some, State.withPool]
  show execGangPlacement s = _
  unfold execGangPlacement
  simp [ho, putOffer, ht]

end Sys2Proof.Machine

open Sys2Proof Sys2Proof.Machine

/-- Settles O41: the gang's teams take their slots one after another (`State.addTeams_seats`); the write of the record, the
preloads and the leave of the launch's queue keep gangs, teams and pools by their frames. -/
theorem gangPlaced : Obligations.GangPlaced := by
  unfold Obligations.GangPlaced
  intro s l k a b c e at_ p x d ho hl hk hpool _
  obtain ⟨bytes, hb⟩ : ∃ n, (s.needOf l).bytes = some n := ⟨_, rfl⟩
  refine ⟨_, (s.withPool d.part p).gangSeated l k at_ bytes, exec_gangPlacement_fresh ho hb (hpool _ hb) hk, ?_⟩
  have hv := (s.withPool d.part p).gangSeated_seats l k at_ bytes
  have ht := (s.withPool d.part p).placeFresh_recorded l k at_ bytes
  generalize (s.withPool d.part p).placeFresh l k at_ bytes = t at ht ⊢
  generalize (s.withPool d.part p).gangSeated l k at_ bytes = v at hv ht ⊢
  have hteam : ∀ u, t.team u = v.team u := fun u => congrArg (tget Team.absent · u) ht.teams
  have hgang : ∀ g, t.gang g = v.gang g := fun g => congrArg (tget Gang.absent · g) ht.gangs
  have hnew : t.gang s.uids = (s.withPool d.part p).freshGang l k at_ bytes := by
    rw [hgang, State.gang, hv.gangs]
    exact tget_tset_same _ _ _ _
  have hlaunches : t.launches = tmod s.launches l fun y => { y with nextGang := y.nextGang + 1 } :=
    ht.launches.trans (congrArg (tmod · l _) hv.launches)
  refine ⟨⟨hv.ms, hv.parts, hv.issue, hv.dev, hv.mgmt, (hgang _).symm, ht.ms⟩, ht.uids.trans hv.uids,
    fun u hu => (hteam u).trans (hv.old u hu), fun g hg => ?_, fun n hn => ?_, ?_, ?_, ?_, fun j r hj => ?_⟩
  · rw [hgang, State.gang, hv.gangs]
    exact tget_tset_ne _ _ _ _ _ (Nat.ne_of_lt hg)
  · rw [State.launch, hlaunches, tget_tmod_ne _ _ _ hn]
    rfl
  · rw [State.launch, hlaunches, tget_tmod_same _ _ hl]
  · rw [ht.pool, State.part, hv.parts]
    exact s.withPool_pool d.part p
  · rw [hnew]
    exact ⟨rfl, rfl, rfl, rfl, rfl, rfl, congrArg (· + _) (s.withPool_ctxBase d.part p), rfl, rfl, rfl⟩
  · obtain ⟨hgang, hid, hrole, hlanes, hvregs, hpc, hst, hcore, hregs, hckpt⟩ := hv.new j r hj
    rw [hteam]
    exact ⟨hgang, hid, hrole, hlanes, hvregs, hpc, hst, hcore, hregs, hckpt⟩

end

section
/-!
What a team that takes a slot acquires (03 R83, 15 R323): the copies it made itself. Those of a child that has ended wait for the
TJOIN of their parent (08 R186).
-/

namespace Sys2Proof.Machine

/-- TEAM_SWITCH_IN with a free slot on the core. -/
theorem exec_teamSwitchIn {s : State} {n u k : Nat} {r : List Nat} (hu : s.nextReturn n = some u)
    (hk : s.freeSlots n = k :: r) : exec (.teamSwitchIn n) s = .next (s.takeSlot u n k 2) := by
  show execTeamSwitchIn n s = _
  unfold execTeamSwitchIn
  simp only [hu, hk]

/-- A ready OUT team, 2, of gang 1, which has an ended child's copy still to acquire. -/
def joinedCopyOut : State :=
  { State.reset with
    parts := [(0, { Part.reset with st := .running })]
    gangs := [(1, { Gang.absent with unseen := [⟨2, true, 1, 0, [0]⟩] })]
    teams := [(2, { Team.absent with gang := 1, st := .out })] }

/-- The team takes slot 0, and the copy still waits for its TJOIN. -/
theorem takeSlot_joinedCopyOut : ((joinedCopyOut.takeSlot 2 0 0 2).gang 1).unseen = [⟨2, true, 1, 0, [0]⟩] := by
  decide +kernel

end Sys2Proof.Machine

open Sys2Proof Sys2Proof.Machine

/-- Refutes O42: TEAM_SWITCH_IN leaves an ended child's copy, which its parent acquires by TJOIN alone (08 R186), where the
statement has every copy under the team's key acquired. -/
theorem not_teamsWake : ¬ Obligations.TeamsWake := by
  unfold Obligations.TeamsWake
  intro h
  have hu : joinedCopyOut.nextReturn 0 = some 2 := by decide +kernel
  have hk : joinedCopyOut.freeSlots 0 = 0 :: (List.range' 1 31) := by decide +kernel
  obtain ⟨-, -, -, switchIn⟩ := h.1 joinedCopyOut 2
  obtain ⟨t, ht, -, hgang, -⟩ := switchIn 0 0 _ (by decide +kernel) hu hk
  have e := (exec_teamSwitchIn hu hk).symm.trans ht
  obtain rfl : joinedCopyOut.takeSlot 2 0 0 2 = t := by simpa using e
  have hacquired := congrArg Gang.unseen hgang
  rw [show (joinedCopyOut.team 2).gang = 1 from rfl, takeSlot_joinedCopyOut] at hacquired
  exact absurd hacquired (by decide +kernel)

end

section
/-!
The decoders read an encoded operation back (04 R94-R101, R122, 23 R445, R446): the rows of the two opcode maps are within
their codes and slots, the fields of a word are those it was put together from, and an operation's row makes it again from
them (`Coding.Statement`).
-/

namespace Sys2Proof.Laws

open BitVec

/-! ### The rows of the opcode maps -/

/-- A form only class 0 has: J19, LP or C16. -/
def scalarForm : SimtMk → Bool
  | .a3 _ => false
  | .atom _ => false
  | _ => true

/-- A form other than BR, which only the C slot has. -/
def controlForm : BelvMk → Bool
  | .br _ => false
  | _ => true

/-- What a list answers to a lookup is one of its entries. -/
theorem mem_of_lookup {α : Type} {l : List (Nat × α)} {k : Nat} {v : α} (h : l.lookup k = some v) : (k, v) ∈ l := by
  obtain ⟨_, _, rfl, -⟩ := List.lookup_eq_some_iff.1 h
  simp

/-- Map 0 lists opcodes from 1 to 0x3EF, those of forms J19, LP and C16 in class 0 (05 Tables 5-1 to 5-4). -/
theorem opTable_codes : ∀ r ∈ opTable, 0 < r.1 ∧ r.1 < 0x3F0 ∧ (scalarForm r.2 = true → opClassOf r.1 = 0) := by
  decide +kernel

/-- Belvedere's map lists opcodes from 1 to 0xFF, those of forms BI, BJ and BL in the C slot (23 Table 23-3). -/
theorem belvTable_codes : ∀ r ∈ belvTable, 0 < r.1 ∧ r.1 < 0x100 ∧ (controlForm r.2 = true → belvSlot r.1 = 0) := by
  decide +kernel

/-- J19, LP and C16 are forms of class 0 alone. -/
theorem opClassOf_of_row {op : Nat} {mk : SimtMk} (hrow : opMk op = some mk) (hmk : scalarForm mk = true) : opClassOf op = 0 := by
  obtain ⟨-, -, hclass⟩ := opTable_codes _ (mem_of_lookup hrow)
  exact hclass hmk

/-- BI, BJ and BL are forms of the C slot alone. -/
theorem belvSlot_of_row {op : Nat} {mk : BelvMk} (hrow : belvTable.lookup op = some mk) (hmk : controlForm mk = true) :
    belvSlot op = 0 := by
  obtain ⟨-, -, hslot⟩ := belvTable_codes _ (mem_of_lookup hrow)
  exact hslot hmk

/-- An operation of class c may stand in slot c. -/
theorem slotAccepts_opClassOf (op : Nat) : slotAccepts (opClassOf op) (opClassOf op) = true := by
  unfold opClassOf
  repeat' split
  all_goals rfl

/-! ### The fields of a word -/

/-- Bits 7:6 and 5:0 of an operand field make the field. -/
theorem field_of_halves (x : BitVec 8) : x.extractLsb' 6 2 ++ x.extractLsb' 0 6 = x :=
  (extractLsb'_append_extractLsb'_eq_extractLsb' (by rfl)).trans extractLsb'_eq_self

/-- The B field, the K bit and the header bits of a B operand give it back (04 R99, R103). -/
theorem wordB_word (op : Nat) (o : A3) : wordB (Enc.a3 op o).ctx (Enc.a3 op o).word = some o.b := by
  obtain ⟨g, d, a, b⟩ := o
  cases b
  all_goals
    simp (disch := decide) only [wordB, Enc.word, SrcB.bits, extractLsb'_append_eq_of_le, extractLsb'_append_eq_of_add_le,
      Nat.reduceSub, extractLsb'_eq_self]
  case reg x => simp [Enc.ctx, SrcB.ext, field_of_halves]
  case imm i => simp [Enc.ctx, SrcB.ext]
  case lit sel l => simp [Enc.ctx]

/-- The header gives the D and A fields of an A3 operation their upper bits (04 R95). -/
theorem ext_a3 (op : Nat) (o : A3) :
    (Enc.a3 op o).ctx.extD = o.d.extractLsb' 6 2 ∧ (Enc.a3 op o).ctx.extA = o.a.extractLsb' 6 2 := by
  obtain ⟨g, d, a, b⟩ := o
  cases b <;> exact ⟨rfl, rfl⟩

theorem wordA3_word (op : Nat) (o : A3) : wordA3 (Enc.a3 op o).ctx (Enc.a3 op o).word = some o := by
  obtain ⟨hd, ha⟩ := ext_a3 op o
  rw [wordA3, wordB_word, hd, ha, Option.map_some]
  simp (disch := decide) only [Enc.word, extractLsb'_append_eq_of_le, extractLsb'_append_eq_of_add_le, Nat.reduceSub,
    extractLsb'_eq_self, field_of_halves]

theorem wordAtom_word (op : Nat) (o : AtomOp) : wordAtom (Enc.atom op o).ctx (Enc.atom op o).word = some o := by
  obtain ⟨g, d, a, scope, nr⟩ := o
  simp (disch := decide) only [wordAtom, Enc.ctx, Enc.word, extractLsb'_append_eq_of_le, extractLsb'_append_eq_of_add_le,
    Nat.reduceSub, extractLsb'_eq_self, field_of_halves]
  cases nr <;> rfl

theorem wordJ19_word (op : Nat) (o : J19) : wordJ19 (Enc.j19 op o).word = o := by
  simp (disch := decide) only [wordJ19, Enc.word, extractLsb'_append_eq_of_le, extractLsb'_append_eq_of_add_le,
    Nat.reduceSub, extractLsb'_eq_self]

theorem wordLp_word (op : Nat) (o : LpOp) : wordLp (Enc.lp op o).word = o := by
  simp (disch := decide) only [wordLp, Enc.word, extractLsb'_append_eq_of_le, extractLsb'_append_eq_of_add_le,
    Nat.reduceSub, extractLsb'_eq_self]

theorem wordC16_word (op : Nat) (o : C16) : wordC16 (Enc.c16 op o).word = o := by
  simp (disch := decide) only [wordC16, Enc.word, extractLsb'_append_eq_of_le, extractLsb'_append_eq_of_add_le,
    Nat.reduceSub, extractLsb'_eq_self]

theorem wordBr_word (op : Nat) (o : BrOp) : wordBr (Enc.br op o).word = o := by
  simp (disch := decide) only [wordBr, Enc.word, extractLsb'_append_eq_of_le, extractLsb'_append_eq_of_add_le,
    Nat.reduceSub, extractLsb'_eq_self]

theorem wordBi_word (op : Nat) (o : BiOp) : wordBi (Enc.bi op o).word = o := by
  simp (disch := decide) only [wordBi, Enc.word, extractLsb'_append_eq_of_le, extractLsb'_append_eq_of_add_le,
    Nat.reduceSub, extractLsb'_eq_self]

theorem wordBl_word (op : Nat) (o : BlOp) : wordBl (Enc.bl op o).word = o := by
  simp (disch := decide) only [wordBl, Enc.word, extractLsb'_append_eq_of_le, extractLsb'_append_eq_of_add_le,
    Nat.reduceSub, extractLsb'_eq_self]

/-- The opcode of a word of form A3, A3 atomic, J19, LP or C16. -/
def coreOpcode : Enc → Option Nat
  | .a3 op _ | .atom op _ | .j19 op _ | .lp op _ | .c16 op _ => some op
  | _ => none

/-- The opcode of a word of form BR, BI, BJ or BL. -/
def lineOpcode : Enc → Option Nat
  | .br op _ | .bi op _ | .bl op _ => some op
  | _ => none

theorem opcode_coreWord {e : Enc} {op : Nat} (h : coreOpcode e = some op) : e.word.extractLsb' 22 10 = BitVec.ofNat 10 op := by
  cases e with
  | nop | bnop | br | bi | bl | step => cases h
  | a3 | atom | j19 | lp | c16 =>
    cases h
    simp (disch := decide) only [Enc.word, extractLsb'_append_eq_of_le, Nat.reduceSub, extractLsb'_eq_self]

theorem opcode_lineWord {e : Enc} {op : Nat} (h : lineOpcode e = some op) : e.word.extractLsb' 24 8 = BitVec.ofNat 8 op := by
  cases e with
  | nop | a3 | atom | j19 | lp | c16 | bnop | step => cases h
  | br | bi | bl =>
    cases h
    simp (disch := decide) only [Enc.word, extractLsb'_append_eq_of_le, Nat.reduceSub, extractLsb'_eq_self]

/-! ### Reading an operation back -/

/-- An opcode with a row of map 0 names that operation (04 R104). -/
theorem mapEntry_of_row {op : Nat} {mk : SimtMk} {e : Enc} (hrow : opMk op = some mk) (he : coreOpcode e = some op) :
    mapEntry none (wordOp e.word) = .op op := by
  obtain ⟨hpos, hlt, -⟩ := opTable_codes _ (mem_of_lookup hrow)
  rw [wordOp, opcode_coreWord he, toNat_ofNat, Nat.mod_eq_of_lt (by omega)]
  simp [mapEntry, hrow, show op ≠ 0 by omega, show ¬ 0x3F0 ≤ op by omega]

/-- A word whose opcode has a row of map 0 is read by that row in a slot of its class. -/
theorem decodeSlot_of_row {op slot : Nat} {mk : SimtMk} {e : Enc} {i : Instr} (hrow : opMk op = some mk)
    (he : coreOpcode e = some op) (hslot : slot = opClassOf op) (hi : decodeOp op mk e.ctx e.word = some i) :
    decodeSlot none slot e.ctx e.word = .ok i := by
  simp [decodeSlot, mapEntry_of_row hrow he, hslot, slotAccepts_opClassOf, hrow, hi]

/-- The opcode of a Belvedere word with a row is that row's, and no NOP's. -/
theorem lineOpcode_of_row {op : Nat} {mk : BelvMk} {e : Enc} (hrow : belvTable.lookup op = some mk)
    (he : lineOpcode e = some op) : (e.word.extractLsb' 24 8).toNat = op ∧ op ≠ 0 := by
  obtain ⟨hpos, hlt, -⟩ := belvTable_codes _ (mem_of_lookup hrow)
  rw [opcode_lineWord he, toNat_ofNat]
  omega

/-- Every operation is the one that the row of its opcode makes, by the lemma of its constructor. -/
theorem coding_statement (i : Instr) : Coding.Statement i :=
  open Coding in
  i.casesOn (motive := Coding.Statement)
    deviceReset bringupPhaseComplete attestationRequest keyBlobInstall cxlLinkTraining hostCacheWriteSnoop
    hostCxlMemAccess registerWrite lqcfgEnable lqcfgDisable lqtailWrite lqEntryRead launchDescriptorCheck argCopy
    gangPlacement victimTileSave teamSwitchIn blockParkTimeout teamWake bundleFetch coreClockGate coreWake overlayFill
    faultReport gangFenceCheckpoint debugStop dbgresResume dbgresStep teamSlotFree wqbindEnable wqbindDisable
    wqCloseWriteback wqAgeExpiry tlslotHostWrite partctlShadowWrite partctlHalt partitionHalted partctlSave
    partitionSaved partctlRestore partitionRestored partctlResume partctlStart partctlStop tlbiGo tlbiComplete
    fxcfgWrite ilimcfgWrite domcfgWrite collrstWrite dbgholdHold dbgholdRelease holdNoticeReceived
    releaseNoticeReceived collectiveEnd collectiveExpiry remoteAccessIncoming remoteResponse remoteTimeout
    remoteStoreAck copyStart copyComplete trellisArrayGrant trellisPortGrant trellisCommandComplete codebookFill
    walkerEntry rayTraversal splatJobStart splatJobEnd l2LineEvict recipeStorePerform memoryUncorrectableError
    thermalSample headctlEnable headctlDisable headStopped hpdChange lineTick bandStart matrixEngineServe
    poseMailboxWrite poseMailboxCommit trcctlEnable trcctlDisable traceLinkReady traceLinkLost nop sadd ssub smul
    smulh smulhn sdiv sdivn srem sremn sand sor sxor sandn sshl sshr ssra smin smax sminn smaxn sabs spopc sclz sctz
    sbfx sbfi ssel scmpeq scmpne scmplt scmple scmpltn scmplen cand cor cxor cnot smov smovi smovh br brnot call ret
    jidx vjidx djoin loopOp loopw lbrk mpush minv mpop mbez mread tfork tjoin endOp wnext yield trap tret bkpt ckpt
    setf movc setc movtc movbd vaddI32 vaddI64 vsubI32 vsubI64 vaddsS32 vaddsN32 vsubsS32 vsubsN32 vmulI32 vmulI64
    vmulhS32 vmulhN32 vmadI32 vminS32 vminN32 vminS64 vminN64 vmaxS32 vmaxN32 vmaxS64 vmaxN64 vabsS32 vabsS64 vandB32
    vorB32 vxorB32 vandnB32 vshlB32 vshlB64 vshrB32 vshrB64 vsraS32 vsraS64 vpopcB32 vclzB32 vbfxS32 vbfxN32 vbfiB32
    vcmpeqI32 vcmpeqI64 vcmpneI32 vcmpneI64 vcmpltS32 vcmpltN32 vcmpltS64 vcmpltN64 vcmpleS32 vcmpleN32 vcmpleS64
    vcmpleN64 vselB32 vselB64 faddF32 faddF64 faddH2 faddBh2 fsubF32 fsubF64 fsubH2 fsubBh2 fmulF32 fmulF64 fmulH2
    fmulBh2 ffmaF32 ffmaF64 ffmaH2 ffmaBh2 fminF32 fminF64 fminH2 fminBh2 fmaxF32 fmaxF64 fmaxH2 fmaxBh2 fcmpeqF32
    fcmpeqF64 fcmpltF32 fcmpltF64 fcmpleF32 fcmpleF64 fcmpunF32 fcmpunF64 frndF32 frndF64 fclassF32 fclassF64
    fdot4B8x4 fdot2H2 fdot2Bh2 frcpF32 frcpF64 frsqF32 frsqF64 fsqrtF32 fsqrtF64 fdivF32 fdivF64 fexp2F32 flog2F32
    fsinpF32 fcospF32 cvtS32 cvtN32 cvtS64 cvtN64 cvtF64 cvtF32 cvtF16 cvtBf16 cvtB8 cvtsrB8 cvtsrBf16 cvtsrF16
    vpackB8x4 vpackH2 vpackBh2 vunpkB8x4 vunpkH2 vunpkBh2 vmovB32 vmovB64 vmovsB32 vmovsB64 vlane vldix vstix pand por
    pxor pandn pmovv vmovp xperm xbcast xswz xany xall xballot xredI32 xredF32 xredminS32 xredminN32 xredminF32
    xredmaxS32 xredmaxN32 xredmaxF32 xscanI32 xscanF32 treord rsvupd rsvmrg ldB8 ldB16 ldB32 ldB64 ldB128 stB8 stB16
    stB32 stB64 stB128 ldvB32 ldvB64 ldvB128 stvB32 stvB64 stvB128 ldgsB32 ldgsB64 ldgsB128 stgsB32 stgsB64 stgsB128
    sldB32 sldB64 sstB32 sstB64 ldaB32 ldaB64 stlB32 stlB64 ldroB32 ldroB64 ldroB128 pref qinit qcommit qpop wbind
    wstart wstop cpy cpyy lock unlock cflush cinvro tld tst tzero tmma tmmaq tmmav tchain tcvt ttov vtot cbload
    Coding.seal rpin runpin rdrop rstat rdone atomaddI32 atomaddI64 atomaddF32 atomminS32 atomminN32 atommaxS32
    atommaxN32 atomandB32 atomorB32 atomxorB32 atomxchgB32 atomxchgB64 atomcasB32 atomcasB64 fence fencero tlsig
    tlwait tlread bararv barwt bufacq bufrel wqpush launch rayq rayqd raycand rayacc rayfin splatq splatrun sample
    sampleg samplel coll belvNop gadd gsub gmul gand gor gxor gshl gshr gcmplt gcmpeq gmovi belvBr brf belvLoop waittk
    pose bend padd psub pmul pfma pmin pmax pcmplt psel pcvt plerp prcp prsq plane pmovg pxform lld lst xfetch gather
    warps mld mst mmul mconv emit fbwait fallbk powerLoss

/-- 04 R94: opcode 0 is NOP in every slot, with the other bits of its word. -/
theorem decodeSlot_nop (slot : Nat) (x : SlotCtx) (y : BitVec 22) : decodeSlot none slot x (Enc.nop y).word = .ok (.nop y) := by
  have hop : (Enc.nop y).word.extractLsb' 22 10 = 0#10 := by
    simp (disch := decide) only [Enc.word, extractLsb'_append_eq_of_le, Nat.reduceSub, extractLsb'_eq_self]
  have hrest : (Enc.nop y).word.extractLsb' 0 22 = y := by
    simp (disch := decide) only [Enc.word, extractLsb'_append_eq_of_add_le, extractLsb'_eq_self]
  simp [decodeSlot, wordOp, mapEntry, hop, hrest]

/-- 23 R449: opcode 0 is NOP in every slot of a line core, with the other bits of its word. -/
theorem decodeBelv_nop (slot : Nat) (y : BitVec 24) : decodeBelv slot (Enc.bnop y).word = .ok (.belvNop y) := by
  have hop : (Enc.bnop y).word.extractLsb' 24 8 = 0#8 := by
    simp (disch := decide) only [Enc.word, extractLsb'_append_eq_of_le, Nat.reduceSub, extractLsb'_eq_self]
  have hrest : (Enc.bnop y).word.extractLsb' 0 24 = y := by
    simp (disch := decide) only [Enc.word, extractLsb'_append_eq_of_add_le, extractLsb'_eq_self]
  simp [decodeBelv, hop, hrest]

/-- 04 R94-R101, R122: an operation of the cores is read back from its word and header bits in the slot of its class. -/
theorem decodeSlot_encode {i : Instr} (hwf : i.wf = true) (hstep : i.enc ≠ .step) (hcore : i.isBelv = false) :
    decodeSlot none i.homeSlot (encodeCtx i) (encode i) = .ok i := by
  have hrow := coding_statement i
  unfold Coding.Statement at hrow
  unfold Instr.wf at hwf
  unfold Instr.isBelv at hcore
  unfold Instr.homeSlot encodeCtx encode
  generalize i.enc = e at hrow hwf hstep hcore ⊢
  cases e with
  | bnop | br | bi | bl => cases hcore
  | step => exact absurd rfl hstep
  | nop x =>
    cases hrow
    exact decodeSlot_nop _ _ x
  | a3 op o =>
    obtain ⟨f, hrow, rfl⟩ := hrow
    exact decodeSlot_of_row hrow rfl rfl (by simpa [decodeOp, wordA3_word] using hwf)
  | atom op o =>
    obtain ⟨f, hrow, rfl⟩ := hrow
    exact decodeSlot_of_row hrow rfl rfl (by simpa [decodeOp, wordAtom_word] using hwf)
  | j19 op o =>
    obtain ⟨f, hrow, rfl⟩ := hrow
    exact decodeSlot_of_row hrow rfl (opClassOf_of_row hrow rfl).symm (by rw [decodeOp, wordJ19_word])
  | lp op o =>
    obtain ⟨f, hrow, rfl⟩ := hrow
    exact decodeSlot_of_row hrow rfl (opClassOf_of_row hrow rfl).symm (by simpa [decodeOp, wordLp_word] using hwf)
  | c16 op o =>
    obtain ⟨f, hrow, rfl⟩ := hrow
    exact decodeSlot_of_row hrow rfl (opClassOf_of_row hrow rfl).symm (by rw [decodeOp, wordC16_word])

/-- 23 R445, R446: an operation of Belvedere is read back from its word in the slot of its class. -/
theorem decodeBelv_encode {i : Instr} (hwf : i.wf = true) (hbelv : i.isBelv = true) :
    decodeBelv i.homeSlot (encode i) = .ok i := by
  have hrow := coding_statement i
  unfold Coding.Statement at hrow
  unfold Instr.wf at hwf
  unfold Instr.isBelv at hbelv
  unfold Instr.homeSlot encode
  generalize i.enc = e at hrow hwf hbelv ⊢
  cases e with
  | nop | a3 | atom | j19 | lp | c16 | step => cases hbelv
  | bnop x =>
    cases hrow
    exact decodeBelv_nop _ x
  | br op o =>
    obtain ⟨f, hrow, rfl⟩ := hrow
    obtain ⟨hop, hne⟩ := lineOpcode_of_row (e := .br op o) hrow rfl
    simpa [decodeBelv, hop, hne, hrow, wordBr_word] using hwf
  | bi op o =>
    obtain ⟨f, hrow | hrow, rfl⟩ := hrow
    all_goals
      obtain ⟨hop, hne⟩ := lineOpcode_of_row (e := .bi op o) hrow rfl
      simpa [decodeBelv, hop, hne, hrow, wordBi_word, belvSlot_of_row hrow rfl] using hwf
  | bl op o =>
    obtain ⟨f, hrow, rfl⟩ := hrow
    obtain ⟨hop, hne⟩ := lineOpcode_of_row (e := .bl op o) hrow rfl
    have hzero : (Enc.bl op o).word.extractLsb' 16 2 = 0#2 := by
      simp (disch := decide) only [Enc.word, extractLsb'_append_eq_of_le, extractLsb'_append_eq_of_add_le, Nat.reduceSub,
        extractLsb'_eq_self]
    simpa [decodeBelv, hop, hne, hrow, wordBl_word, belvSlot_of_row hrow rfl, hzero] using hwf

end Sys2Proof.Laws

open Sys2Proof

/-- Settles O58: a core's operation and one of Belvedere's each by the round trip of its own decoder. -/
theorem decodeEncode : Obligations.DecodeEncode := by
  unfold Obligations.DecodeEncode
  intro i hwf hstep
  cases hbelv : i.isBelv
  · exact Laws.decodeSlot_encode hwf hstep hbelv
  · exact Laws.decodeBelv_encode hwf hbelv

end

section
/-!
The front end of a core (04 R90-R93, 06 R141, R143): what a step that changes one core leaves of the machine, and the steps
BUNDLE_FETCH, CORE_CLOCK_GATE, CORE_WAKE and OVERLAY_FILL.
-/

namespace Sys2Proof.Machine

/-! ### One core -/

@[simp] theorem State.core_modCore_same (s : State) (n : Nat) (f : Core → Core) : (s.modCore n f).core n = f (s.core n) :=
  tget_tset_same _ _ _ _

theorem State.core_modCore_ne (s : State) {n m : Nat} (f : Core → Core) (h : m ≠ n) : (s.modCore n f).core m = s.core m :=
  tget_tset_ne _ _ _ _ _ h

theorem State.onlyCore_modCore (s : State) (n : Nat) (f : Core → Core) : s.OnlyCore (s.modCore n f) n :=
  ⟨by rw [core_modCore_same]; rfl, ⟨fun _ => rfl, fun _ _ => rfl, fun _ _ _ => rfl⟩⟩

/-- Of a core whose list of choices is renewed, nothing else changes. -/
theorem State.core_renewRota (s : State) (n : Nat) :
    (s.renewRota n).core n = { s.core n with rota := ((s.renewRota n).core n).rota } := by
  unfold State.renewRota
  rw [State.core_modCore_same]

theorem State.core_renewRota_ne (s : State) {n m : Nat} (h : m ≠ n) : (s.renewRota n).core m = s.core m :=
  s.core_modCore_ne _ h

/-! ### Steps of the front end -/

/-- BUNDLE_FETCH with a team to choose. -/
theorem exec_bundleFetch {s : State} {n u : Nat} (hu : s.chooseTeam n = some u) :
    exec (.bundleFetch n) s = .next { s.renewRota n with agenda := ⟨0, .now u⟩ :: s.agenda } := by
  show execBundleFetch n s = _
  unfold execBundleFetch
  rw [hu]

/-- CORE_CLOCK_GATE with nothing to do on the core. -/
theorem exec_coreClockGate {s : State} {n : Nat} (hrun : s.anyRunnable n = false) (hfills : (s.core n).fills = [])
    (hdue : ∀ x ∈ (s.core n).due, x.1 < s.cycle) :
    exec (.coreClockGate n) s = .next (s.modCore n fun c => { c with gated := true }) := by
  have hidle : (s.core n).due.any (fun x => decide (s.cycle ≤ x.1)) = false := by simpa using hdue
  show execCoreClockGate n s = _
  unfold execCoreClockGate
  simp [hrun, hfills, hidle]

/-- CORE_WAKE of a gated core with work. -/
theorem exec_coreWake {s : State} {n : Nat} (hgated : (s.core n).gated = true)
    (hwork : s.anyRunnable n = true ∨ (s.core n).fills ≠ []) :
    exec (.coreWake n) s = .next (s.modCore n fun c => { c with gated := false, wakeAt := s.wakeEvent n + 40 }) := by
  show execCoreWake n s = _
  unfold execCoreWake
  rw [if_pos]
  simpa [hgated] using hwork

/-- Nothing is evicted where there is room. -/
theorem evictFor_of_room (guarded : Overlay → Bool) {need : Nat} (fuel : Nat) {l : List Overlay}
    (h : (l.map fun o => frames o.count).sum + need ≤ Config.storeFrames) : evictFor guarded need (fuel + 1) l = some l := by
  rw [evictFor, if_pos h]

/-- OVERLAY_FILL of an overlay that can be read and has room. -/
theorem exec_overlayFill {s : State} {n k : Nat} {f : Fill} {words : Table (BitVec 128)} (hf : (s.core n).fills[k]? = some f)
    (hwords : ({ s with issue := { s.issue with pages := f.old.pages } } : State).fillWords ⟨f.part, n, none, none⟩ f.image
      f.first f.count = .ok words)
    (hroom : ((s.core n).store.map fun o => frames o.count).sum + frames f.count ≤ Config.storeFrames) :
    exec (.overlayFill n k) s =
      .next (((s.modCore n fun c => { c with fills := c.fills.eraseIdx k }).noteXlate ⟨f.part, n, none, none⟩
        (f.image.bundleVa f.first)).modCore n fun c => { c with store := (s.core n).store ++
          [⟨f.part, f.image.handle, f.image.gen, f.num, f.first, f.count, words, s.cycle, f.waiting.map (·.1)⟩] }) := by
  show execOverlayFill n k s = _
  unfold execOverlayFill
  simp only [hf, hwords, evictFor_of_room _ _ hroom]

end Sys2Proof.Machine

open Sys2Proof Sys2Proof.Machine

/-- Settles O43: each step of the front end as the change of one core; the fill also caches the translation it used. -/
theorem frontEnd : Obligations.FrontEnd := by
  unfold Obligations.FrontEnd
  intro s n
  refine ⟨fun u hu => ?_, fun hrun hfills hdue => ?_, fun hgated hwork => ?_, fun k f words hf hwords hroom => ?_⟩
  · exact ⟨_, exec_bundleFetch hu, ⟨fun _ => rfl, fun _ _ => rfl, fun _ _ _ => rfl⟩, rfl, fun m hm => s.core_renewRota_ne hm,
      s.core_renewRota n⟩
  · exact ⟨_, exec_coreClockGate hrun hfills hdue, s.onlyCore_modCore n _, s.core_modCore_same n _⟩
  · exact ⟨_, exec_coreWake hgated hwork, s.onlyCore_modCore n _, s.core_modCore_same n _⟩
  · obtain ⟨a, b, w, hnote⟩ := note_eq (s.modCore n fun c => { c with fills := c.fills.eraseIdx k }) ⟨f.part, n, none, none⟩
      (f.image.bundleVa f.first)
    refine ⟨_, exec_overlayFill hf hwords hroom, ?_⟩
    rw [hnote]
    refine ⟨⟨fun _ => rfl, fun _ _ => rfl, fun _ _ _ => rfl⟩, ?_, ?_⟩
    · rw [State.core_modCore_same]
      simp only [State.modCore, State.core, tset_tset]
    · rw [State.core_modCore_same]
      simp only [State.modCore, State.core, tget_tset_same]

end

section
/-!
Vector and cross-lane operations (09 R197-R220, 17 R369): each has the shape of its row of the result tables, a write under a
mask once its ports are ready, or to the lanes of the groups once the membership masks agree.
-/

namespace Sys2Proof.Machine

/-! ### Operations as their rows -/

/-- VLDIX reads only registers of the team (09 R214); every other row is its operation's meaning as it stands. -/
theorem exec_of_vectorResult {i : Instr} {s : State} {r : VRes Lane} (h : s.vectorResult i = some r) :
    exec i s = .next (s.vOp r.mask r.reads r.writes (s.putV r.d r.mask r.val)) := by
  cases i with
  | vldix o =>
    obtain ⟨hin, hr⟩ := Option.ite_none_right_eq_some.1 h
    cases hr
    show execVldix o s = _
    rw [execVldix, if_neg (Nat.not_le.2 hin)]
    rfl
  | _ => cases h <;> rfl

theorem exec_of_wideResult {i : Instr} {s : State} {r : VRes Word} (h : s.wideResult i = some r) :
    exec i s = .next (s.vOp r.mask r.reads [] (s.putV64 r.d r.mask r.val)) := by
  cases i
  all_goals cases h
  all_goals rfl

theorem exec_of_predicateResult {i : Instr} {s : State} {r : VRes Bool} (h : s.predicateResult i = some r) :
    exec i s = .next (s.vOp r.mask r.reads [] (s.putP r.d r.mask r.val)) := by
  cases i
  all_goals cases h
  all_goals rfl

/-- A run has at least one register; VSTIX writes only registers of the team (09 R214). -/
theorem exec_of_runResult {i : Instr} {s : State} {r : RunRes} (h : s.runResult i = some r) :
    ∃ n, r.n = n + 1 ∧ exec i s = .next (s.vOp r.mask r.reads [] (s.putRun r.d r.mask r.val (n + 1))) := by
  cases i with
  | vstix o =>
    obtain ⟨hin, hr⟩ := Option.ite_none_right_eq_some.1 h
    cases hr
    refine ⟨0, rfl, ?_⟩
    show execVstix o s = _
    rw [execVstix, if_neg (Nat.not_le.2 hin)]
    rfl
  | _ => cases h <;> exact ⟨_, rfl, rfl⟩

/-! ### Groups of lanes -/

/-- With no active lane no lane participates. -/
theorem State.members_groups_zero (s : State) (b : SrcB) : members (s.groups 0 b) = 0 := by
  have hactive : s.active 0 = [] := by simp [State.active, lanesOf]
  cases b
  all_goals
    simp only [State.groups, hactive]
    rfl

/-- A cross-lane operation whose membership masks pass their checks acts on the groups, if it has lanes (09 R217). -/
theorem State.xOp_of_membersOk {s : State} {o : A3} (h : s.MembersOk o) (k : List (List Nat) → State) :
    s.xOp o k = if s.effMask o.g = 0 then s.fin else (k (s.groups (s.effMask o.g) o.b)).fin := by
  have hgo := fun k => s.vOp_go (s.effMask o.g) [] [] k (List.forall_mem_nil _) (List.forall_mem_nil _)
  cases hb : o.b with
  | reg x =>
    have hagree : s.mismatch (s.effMask o.g) x = 0 := by simpa only [State.MembersOk, hb] using h
    simp only [State.xOp, hb, hagree, ne_eq, not_true_eq_false, if_false, hgo]
  | imm | lit => simp only [State.xOp, hb, ne_eq, not_true_eq_false, if_false, hgo]

/-- What holds of a completion with no lanes, and of the action on the groups with their members, holds of the operation. -/
theorem State.xOp_members {s : State} {o : A3} {k : List (List Nat) → State} (h : s.MembersOk o) (P : LaneMask → State → Prop)
    (hnone : P 0 s.fin) :
    let gs := s.groups (s.effMask o.g) o.b
    P (members gs) (k gs).fin → P (members gs) (s.xOp o k) := by
  intro gs hacts
  rw [State.xOp_of_membersOk h]
  split
  · rename_i hm
    rw [show members gs = 0 from hm ▸ s.members_groups_zero o.b]
    exact hnone
  · exact hacts

/-! ### Cross-lane operations as their rows -/

/-- What a row of the cross-lane table writes for the groups. -/
def CrossRes.write (s : State) (o : A3) (gs : List (List Nat)) : CrossRes → State
  | .lane f => s.putV o.d (members gs) fun l => f (groupOf gs l) l
  | .vote f => s.putP o.d (members gs) fun l => f (groupOf gs l)

/-- A reduction gives each lane the value of its own group's tree, where the tree of no lanes has the value 0 that a lane of
no group reads. -/
theorem State.xRed_eq (s : State) (o : A3) (comb : Lane → Lane → Lane) {fin : Lane → Lane} (hfin : fin 0 = 0) :
    s.xRed o comb fin = s.xOp o fun gs => s.putV o.d (members gs) fun l => fin (s.treeSum comb o.a (groupOf gs l)) :=
  congrArg (s.xOp o) (funext fun gs => congrArg (s.putV o.d (members gs)) (funext fun l =>
    find_sum gs (fun g => fin (s.treeSum comb o.a g)) l (by rw [treeSum_nil, hfin])))

theorem canonF_zero : canonF 0 = 0 := by decide

/-- The reductions by their trees (09 R220); every other row is its operation's meaning as it stands. -/
theorem exec_of_crossResult {i : Instr} {s : State} {o : A3} {f : CrossRes} (h : s.crossResult i = some (o, f)) :
    exec i s = .next (s.xOp o fun gs => f.write s o gs) := by
  cases i with
  | xredI32 | xredminS32 | xredminN32 | xredmaxS32 | xredmaxN32 =>
    cases h
    exact congrArg _ (s.xRed_eq o _ rfl)
  | xredF32 | xredminF32 | xredmaxF32 =>
    cases h
    exact congrArg _ (s.xRed_eq o _ canonF_zero)
  | _ => cases h <;> rfl

end Sys2Proof.Machine

open Sys2Proof Sys2Proof.Machine

/-- Settles O4: each operation is the write its row names, under the shape of a V operation, which goes on to the write once
its ports are ready. -/
theorem vectorResults : Obligations.VectorResults := by
  unfold Obligations.VectorResults
  refine ⟨fun i s r h hr hw => ?_, fun i s r h hr => ?_, fun i s r h hl hr => ?_, fun i s r h hr => ?_⟩
  · exact ⟨_, exec_of_vectorResult h, s.vOp_setsV _ _ _ _ _ hr hw⟩
  · exact ⟨_, exec_of_wideResult h, s.vOp_setsV64 _ _ _ _ _ hr (List.forall_mem_nil _)⟩
  · exact ⟨_, exec_of_predicateResult h, s.vOp_setsP _ _ _ _ _ hl hr (List.forall_mem_nil _)⟩
  · obtain ⟨n, hn, he⟩ := exec_of_runResult h
    refine ⟨_, he, ?_⟩
    rw [hn]
    exact vOp_run s _ _ _ n _ hr

/-- Settles O5: each operation is the write its row names for the groups; with no active lane the groups have no members. -/
theorem crossLaneResults : Obligations.CrossLaneResults := by
  unfold Obligations.CrossLaneResults
  intro i s o f h hl hok gs
  refine ⟨_, exec_of_crossResult h, ?_⟩
  cases f with
  | lane f =>
    exact State.xOp_members hok (fun m t => s.SetsV t o.d m fun l => f (groupOf gs l) l)
      (s.fin_setsV _ _) (s.putV_sets _ _ _)
  | vote f =>
    exact State.xOp_members hok (fun m t => s.SetsP t o.d.toNat m fun l => f (groupOf gs l))
      (s.fin_setsP _ _) (s.putP_sets _ _ _ hl)

end

section
/-!
SUPPORT. Which lines the L2 holds decides no translation, no tile's state and no frame count (10 R225, R226, R236), and what
flushing and invalidating lines leaves in a table.
-/

namespace Sys2Proof.Machine

/-! ### Tables -/

/-- A key below a sorted table's first is not found. -/
theorem tfind_above {α : Type} {t : Table α} {k : Nat} (hk : ∀ x ∈ t.head?, k < x.1) : tfind t k = none := by
  cases t with
  | nil => rfl
  | cons y r =>
    have hy : k < y.1 := hk y rfl
    simp [tfind, hy, Nat.ne_of_gt hy]

theorem tfind_tdel {α : Type} {t : Table α} (h : tsorted t = true) (k j : Nat) :
    tfind (tdel t k) j = if j = k then none else tfind t j := by
  induction t with
  | nil => simp [tdel, tfind]
  | cons x r ih =>
    obtain ⟨i, w⟩ := x
    have hr := tsorted_head h
    have low : j ≤ i → tfind r j = none := fun hj => tfind_above fun x hx => Nat.lt_of_le_of_lt hj (hr x hx)
    have := ih (tsorted_tail h)
    simp only [tdel]
    grind [tfind]

theorem tfind_tmod {α : Type} (f : α → α) (t : Table α) (k j : Nat) :
    tfind (tmod t k f) j = if j = k then (tfind t k).map f else tfind t j := by
  induction t with
  | nil => simp [tmod, tfind]
  | cons x r ih =>
    simp only [tmod]
    grind [tfind]

/-- A change in place of a key that is not found changes nothing. -/
theorem tmod_of_tfind_none {α : Type} (f : α → α) {t : Table α} {k : Nat} (h : tfind t k = none) : tmod t k f = t := by
  induction t with
  | nil => rfl
  | cons x r ih =>
    simp only [tfind] at h
    simp only [tmod]
    grind

theorem tsorted_tmod {α : Type} (f : α → α) {t : Table α} (k : Nat) (h : tsorted t = true) :
    tsorted (tmod t k f) = true := by
  cases hk : tfind t k with
  | some v =>
    rw [tmod_eq_tset f hk]
    exact tsorted_tset t k _ h
  | none =>
    rwa [tmod_of_tfind_none f hk]

/-- Keys deleted one after another are found no more, and every other key as before. -/
theorem tfind_foldl_tdel {α : Type} (l : List Nat) {t : Table α} (h : tsorted t = true) (j : Nat) :
    tfind (l.foldl tdel t) j = if j ∈ l then none else tfind t j := by
  induction l generalizing t with
  | nil => simp
  | cons k l ih =>
    rw [List.foldl_cons, ih (tsorted_tdel t k h), tfind_tdel h]
    grind

/-! ### The lines that the L2 holds -/

/-- The state with other lines in the L2, or others of them dirty. -/
def State.withL2 (s : State) (c : Table Bool) : State := { s with ms := { s.ms with l2 := c } }
section
variable (s : State) (c : Table Bool)

theorem State.withL2_readEntry (die p lvl base : Nat) (key : BitVec 12) (va : Nat) :
    (s.withL2 c).readEntry die p lvl base key va = s.readEntry die p lvl base key va := rfl

theorem State.withL2_walkFrom (die p va lvl base : Nat) (key : BitVec 12) :
    (s.withL2 c).walkFrom die p va lvl base key = s.walkFrom die p va lvl base key := by
  induction lvl generalizing base key with
  | zero =>
    unfold State.walkFrom
    rw [State.withL2_readEntry]
  | succ lvl ih =>
    unfold State.walkFrom
    simp only [State.withL2_readEntry, ih]

theorem State.withL2_walk (x : Ctx) (va : Nat) : (s.withL2 c).walk x va = s.walk x va := s.withL2_walkFrom c ..

theorem State.withL2_xlate (x : Ctx) (va : Word) : (s.withL2 c).xlate x va = s.xlate x va := by
  simp only [State.xlate, State.withL2_walk]
  rfl

theorem State.withL2_check (x : Ctx) (k : Access) (va : Word) (n al : Nat) :
    (s.withL2 c).check x k va n al = s.check x k va n al := by
  simp only [State.check, State.withL2_xlate]
  rfl

theorem State.withL2_readVa (gate : Loc → Option Failure) (x : Ctx) (k : Access) (va : Word) (fuel n : Nat) :
    (s.withL2 c).readVa gate x k va fuel n = s.readVa gate x k va fuel n := by
  induction fuel generalizing va n with
  | zero => cases n <;> rfl
  | succ fuel ih =>
    cases n with
    | zero => rfl
    | succ n =>
      simp only [State.readVa, State.withL2_check, ih]
      rfl

theorem State.withL2_record (p n : Nat) : (s.withL2 c).record p n = s.record p n := by
  simp only [State.record, State.withL2_readVa]
  rfl

theorem State.withL2_tileState (p n : Nat) : (s.withL2 c).tileState p n = s.tileState p n := by
  simp only [State.tileState, State.withL2_record]
  rfl

theorem State.withL2_tilePinned (p n : Nat) : (s.withL2 c).tilePinned p n = s.tilePinned p n := by
  simp only [State.tilePinned, State.withL2_tileState]
  rfl

theorem State.withL2_pinnedTileLines : (s.withL2 c).pinnedTileLines = s.pinnedTileLines := by
  simp only [State.pinnedTileLines, State.withL2_tilePinned]
  rfl

theorem State.withL2_tileLinePa (p n off : Nat) : (s.withL2 c).tileLinePa p n off = s.tileLinePa p n off := by
  simp only [State.tileLinePa, State.withL2_xlate]
  rfl

theorem State.withL2_lineLoads (pinned : Bool) : (s.withL2 c).lineLoads pinned = s.lineLoads pinned := by
  simp only [State.lineLoads, State.withL2_tileLinePa, State.withL2_pinnedTileLines]
  rfl

/-- Frames are counted over locked lines and lines of tiles, whatever plain lines the L2 holds (10 R225, R226). -/
theorem State.withL2_crowded (pinned : Bool) (pas : List Nat) :
    (s.withL2 c).crowded pinned pas = s.crowded pinned pas := by
  simp only [State.crowded, State.withL2_lineLoads, State.withL2_pinnedTileLines]
  rfl

end

/-- A line that comes into the L2 changes nothing else. -/
theorem State.fillL2_withL2 (s : State) (l : Loc) : ∃ c, s.fillL2 l = s.withL2 c := by
  unfold State.fillL2
  split
  · split
    · exact ⟨s.ms.l2, rfl⟩
    · exact ⟨_, rfl⟩
  · exact ⟨s.ms.l2, rfl⟩

theorem State.foldl_fillL2_withL2 (f : Nat → Loc) (l : List Nat) (s : State) :
    ∃ c, l.foldl (fun x a => x.fillL2 (f a)) s = s.withL2 c := by
  induction l generalizing s with
  | nil => exact ⟨s.ms.l2, rfl⟩
  | cons a l ih =>
    obtain ⟨c, hc⟩ := s.fillL2_withL2 (f a)
    obtain ⟨d, hd⟩ := ih (s.withL2 c)
    exact ⟨d, by rw [List.foldl_cons, hc, hd]; rfl⟩

/-- CFLUSH of one line: it is written back and leaves the L2, or stays clean where it is locked; a line of the frame exchange
stays as it is (11 R266). -/
def State.flushLine (s : State) (c : Table Bool) (a : Nat) : Table Bool :=
  if s.target a == .fx then c else if s.lockedLines.contains a then tmod c a (fun _ => false) else tdel c a

theorem State.flushLine_cases (s : State) (c : Table Bool) (a : Nat) :
    s.target a = .fx ∧ s.flushLine c a = c ∨
      s.target a ≠ .fx ∧ (s.flushLine c a = tmod c a (fun _ => false) ∨ s.flushLine c a = tdel c a) := by
  unfold State.flushLine
  by_cases hx : s.target a = .fx
  · exact .inl ⟨hx, by simp [hx]⟩
  · refine .inr ⟨hx, ?_⟩
    by_cases hl : s.lockedLines.contains a = true
    · exact .inl (by rw [if_neg (by simpa using hx), if_pos hl])
    · exact .inr (by rw [if_neg (by simpa using hx), if_neg hl])

theorem State.tsorted_flushLine (s : State) {c : Table Bool} (h : tsorted c = true) (a : Nat) :
    tsorted (s.flushLine c a) = true := by
  rcases s.flushLine_cases c a with ⟨-, e⟩ | ⟨-, e | e⟩ <;> rw [e]
  · exact h
  · exact tsorted_tmod _ a h
  · exact tsorted_tdel c a h

/-- A flush leaves its line not dirty, and no other line dirty that was not. -/
theorem State.flushLine_clean (s : State) {c : Table Bool} (h : tsorted c = true) (a b : Nat)
    (hb : b = a ∧ s.target b ≠ .fx ∨ tfind c b ≠ some true) : tfind (s.flushLine c a) b ≠ some true := by
  rcases s.flushLine_cases c a with ⟨hx, e⟩ | ⟨-, e | e⟩ <;> rw [e]
  · rcases hb with ⟨rfl, hn⟩ | hb
    · exact absurd hx hn
    · exact hb
  · rw [tfind_tmod]
    cases tfind c a <;> grind
  · rw [tfind_tdel h]
    grind

theorem State.flushLines_clean (s : State) (l : List Nat) {c : Table Bool} (h : tsorted c = true) (b : Nat)
    (hb : b ∈ l ∧ s.target b ≠ .fx ∨ tfind c b ≠ some true) : tfind (l.foldl s.flushLine c) b ≠ some true := by
  induction l generalizing c with
  | nil => simpa using hb
  | cons a l ih =>
    refine ih (s.tsorted_flushLine h a) ?_
    rcases hb with ⟨hm, hx⟩ | hb
    · rcases List.mem_cons.mp hm with rfl | hm
      · exact .inr (s.flushLine_clean h b b (.inl ⟨rfl, hx⟩))
      · exact .inl ⟨hm, hx⟩
    · exact .inr (s.flushLine_clean h a b (.inr hb))

end Sys2Proof.Machine
end

section
/-!
LOCK, UNLOCK, CFLUSH and CINVRO (10 R225, R239, 11 R265, R266).
-/

namespace Sys2Proof.Machine

/-! ### Lines that a gang locks -/

/-- The lines of a LOCK that its gang does not hold yet. -/
def State.newLocks (s : State) (l : List Nat) : List Nat := (l.filter fun x => !s.myGang.locks.contains x).eraseDups

/-- LOCK may take some new lines: there are none, or neither the gang's quota nor the slices' limit is passed (10 R239). -/
def State.mayLock (s : State) (new : List Nat) : Bool :=
  new.isEmpty || (decide (s.charged s.me.gang + new.length ≤ (s.part s.myGang.part).lockQuota.toNat) &&
    slicesHold ((s.lockedLines ++ new).eraseDups) (s.generalWays * 512))

/-- The state with some lines locked for the team's gang. -/
def State.locking (s : State) (new : List Nat) : State :=
  { s with gangs := tset s.gangs s.me.gang { s.myGang with locks := s.myGang.locks ++ new } }

/-- Memory reads as before where only the locks of a gang, the teams and the caches differ. -/
theorem State.sameMemory_of_gang {s t : State} {g : Nat} {x : Gang} (hmem : t.ms.mem = s.ms.mem) (hparts : t.parts = s.parts)
    (hgangs : t.gangs = tset s.gangs g x) (hstore : x.store = (s.gang g).store) : s.SameMemory t where
  phys pa := by simp only [State.byte, hmem]
  gang k a := by
    simp only [State.gangByte, State.gang, hgangs]
    by_cases hk : k = g
    · rw [hk, tget_tset_same, hstore]
      rfl
    · rw [tget_tset_ne _ _ _ _ _ hk]
  tile p n off := by simp only [State.tileByte, State.part, hparts]

/-- No tile leaves where the lines fit as they are. -/
theorem State.findFrames_of_fit {s t : State} {pas : List Nat} (hf : s.findFrames pas = some t) (h : s.crowded false pas = []) :
    t = s := by
  obtain ⟨-, rfl⟩ := (s.findFrames_some t pas).mp hf
  generalize (s.parts.map fun q => q.2.rtiles.length).sum = n
  cases n with
  | zero => rfl
  | succ n => rw [State.evictTiles, h]

theorem WriteFrame.issue {s t : State} (h : WriteFrame s t) : t.issue = s.issue := by rw [h.whole]

theorem WriteFrame.me {s t : State} (h : WriteFrame s t) : t.me = s.me := by
  rw [State.me, h.issue]
  exact h.team _

/-- Writing a scalar once memory has changed completes the slot of the team as it stood. -/
theorem WriteFrame.putS_fin {s t : State} (h : WriteFrame s t) (d : BitVec 8) (v : Word) :
    (t.putS d v).fin = t.setMe { s.me.marked s.issue.slot with regs := s.me.regs.sset d.toNat v } := by
  rw [State.putS, State.modRegs_fin, h.me, h.issue]

/-! ### The operations -/

/-- The physical lines of an operation's range. -/
def State.rangePlaces (s : State) (o : A3) : List Nat :=
  (s.rangeLines .load (s.sA o) (sB s.rd false o.b).toNat).filterMap fun x => match x.2 with
    | .ok (.phys pa _, _) => some pa
    | _ => none

/-- The keys of an operation's range in the sampler caches. -/
def State.rangeKeys (s : State) (o : A3) : List Nat :=
  (s.rangeLines .load (s.sA o) (sB s.rd false o.b).toNat).filterMap fun x => match x.2 with
    | .ok (loc, _) => some (State.lineKey s.myGang.part loc)
    | _ => none

/-- The state with other lines in the sampler cache of the operation's cluster. -/
def State.withSampler (s : State) (c : Table (List Byte)) : State :=
  { s with ms := { s.ms with sampler := tset s.ms.sampler s.cluster c } }

/-- The count and address of a range pass their checks (11 R265). -/
theorem State.rangeOp_of_checks {s : State} {o : A3} (hn : (sB s.rd false o.b).toNat ≤ 65536)
    (ha : (s.sA o).toNat % 128 = 0) (m : LaneMask) (k : Word → Nat → State) :
    s.rangeOp o m k = k (s.sA o) (sB s.rd false o.b).toNat := by
  rw [State.rangeOp, if_neg (Nat.not_lt.mpr hn), if_neg (not_not_intro ha)]

theorem State.uni_rangeOp {s : State} {o : A3} (hm : s.effMask o.g ≠ 0) (hn : (sB s.rd false o.b).toNat ≤ 65536)
    (ha : (s.sA o).toNat % 128 = 0) (k : LaneMask → Word → Nat → State) :
    (s.uni o.g fun m => s.rangeOp o m (k m)) = k (s.effMask o.g) (s.sA o) (sB s.rd false o.b).toNat := by
  rw [State.uni, if_neg hm, State.rangeOp_of_checks hn ha]

section
variable {s : State} {o : A3} (hm : s.effMask o.g ≠ 0) (hn : (sB s.rd false o.b).toNat ≤ 65536)
  (ha : (s.sA o).toNat % 128 = 0)
include hm hn ha

section
variable {l : List Nat} (hl : lockPlaces (s.rangeLines .lock (s.sA o) (sB s.rd false o.b).toNat) = .ok l)
include hl

/-- Within quota and limit the lines come into the L2 and are locked, and frames are found for them or waited for. -/
theorem exec_lock :
    ∃ c, exec (.lock o) s = .next (if s.mayLock (s.newLocks l) then
      (((s.locking (s.newLocks l)).withL2 c).findFrames (s.newLocks l)).elim (s.wait .frames) fun x => (x.putS o.d 0).fin
      else (s.putS o.d 1).fin) := by
  obtain ⟨c, hc⟩ := State.foldl_fillL2_withL2 (fun a => .phys a 0) (s.newLocks l) s
  have locked : ((s.newLocks l).foldl (fun x a => x.fillL2 (.phys a 0)) s).modMyGang
      (fun g => { g with locks := g.locks ++ s.newLocks l }) = (s.locking (s.newLocks l)).withL2 c := by
    rw [hc]
    rfl
  refine ⟨c, ?_⟩
  show execLock o s = _
  rw [execLock, State.uni_rangeOp hm hn ha, hl, ← locked]
  dsimp only
  refine congrArg _ (ite_congr rfl (fun _ => ?_) fun _ => rfl)
  split <;> rename_i found <;> simp only [State.newLocks, found, Option.elim_some, Option.elim_none]

theorem exec_lock_beyond (hf : s.mayLock (s.newLocks l) = false) : exec (.lock o) s = .next (s.putS o.d 1).fin := by
  obtain ⟨c, e⟩ := exec_lock hm hn ha hl
  rw [e, hf]
  rfl

theorem exec_lock_waits (hf : s.mayLock (s.newLocks l) = true)
    (hc : (s.locking (s.newLocks l)).crowded true (s.newLocks l) ≠ []) :
    exec (.lock o) s = .next (s.wait .frames) := by
  obtain ⟨c, e⟩ := exec_lock hm hn ha hl
  rw [e, if_pos hf, State.findFrames, State.withL2_crowded, if_neg hc]
  rfl

theorem exec_lock_takes (hf : s.mayLock (s.newLocks l) = true)
    (hc : (s.locking (s.newLocks l)).crowded true (s.newLocks l) = []) :
    ∃ c x, ((s.locking (s.newLocks l)).withL2 c).findFrames (s.newLocks l) = some x ∧
      exec (.lock o) s = .next (x.putS o.d 0).fin := by
  obtain ⟨c, e⟩ := exec_lock hm hn ha hl
  refine ⟨c, _, (State.findFrames_some _ _ _).mpr ⟨(State.withL2_crowded _ c true _).trans hc, rfl⟩, ?_⟩
  rw [e, if_pos hf, State.findFrames, State.withL2_crowded, if_pos hc]
  rfl

end

theorem exec_unlock : exec (.unlock o) s =
    .next (s.modMyGang fun g => { g with locks := g.locks.filter fun x => !(s.rangePlaces o).contains x }).fin := by
  show execUnlock o s = _
  rw [execUnlock, State.uni_rangeOp hm hn ha]
  rfl

theorem exec_cflush : exec (.cflush o) s = .next (s.withL2 ((s.rangePlaces o).foldl s.flushLine s.ms.l2)).fin := by
  show execCflush o s = _
  rw [execCflush, State.uni_rangeOp hm hn ha]
  rfl

theorem exec_cinvro_range (h : sB s.rd false o.b ≠ 0) : exec (.cinvro o) s =
    .next (s.withSampler ((s.rangeKeys o).foldl tdel (tget [] s.ms.sampler s.cluster))).fin := by
  show execCinvro o s = _
  rw [execCinvro, State.uni, if_neg hm]
  refine congrArg _ ((if_neg h).trans ?_)
  rw [State.rangeOp_of_checks hn ha]
  rfl

end

theorem exec_cinvro_all {s : State} {o : A3} (hm : s.effMask o.g ≠ 0) (h : sB s.rd false o.b = 0) :
    exec (.cinvro o) s = .next (s.withSampler []).fin := by
  show execCinvro o s = _
  rw [execCinvro, State.uni, if_neg hm]
  exact congrArg _ (if_pos h)

/-! ### What the operations leave -/

/-- Changing the locks of the team's gang changes nothing else. -/
theorem State.unlocking_only (s : State) (f : List Nat → List Nat) :
    let t := (s.modMyGang fun g => { g with locks := f g.locks }).fin
    s.OnlyMyGang t ∧ t.me = s.me.marked s.issue.slot ∧ t.myGang = { s.myGang with locks := f s.myGang.locks } := by
  intro t
  have me : t.me = s.me.marked s.issue.slot := State.me_setMe _ _
  have gang : t.gang s.me.gang = { s.myGang with locks := f s.myGang.locks } := tget_tset_same _ _ _ _
  refine ⟨⟨?_, State.sameMemory_of_gang rfl rfl rfl rfl⟩, me, ?_⟩
  · rw [me, gang]
    rfl
  · rw [State.myGang, me]
    exact gang

theorem State.withL2_fin (s : State) (c : Table Bool) :
    let t := (s.withL2 c).fin
    t.me = s.me.marked s.issue.slot ∧
      t = { s with teams := tset s.teams s.issue.team t.me, ms := { s.ms with l2 := c } } ∧ s.SameMemory t := by
  intro t
  have me : t.me = s.me.marked s.issue.slot := State.me_setMe _ _
  refine ⟨me, ?_, fun _ => rfl, fun _ _ => rfl, fun _ _ _ => rfl⟩
  rw [me]
  rfl

theorem State.withSampler_fin (s : State) (c : Table (List Byte)) :
    let t := (s.withSampler c).fin
    t.me = s.me.marked s.issue.slot ∧
      t = { s with teams := tset s.teams s.issue.team t.me, ms := { s.ms with sampler := t.ms.sampler } } ∧
      (∀ k, k ≠ s.cluster → tget [] t.ms.sampler k = tget [] s.ms.sampler k) ∧ tget [] t.ms.sampler s.cluster = c ∧
      s.SameMemory t := by
  intro t
  have me : t.me = s.me.marked s.issue.slot := State.me_setMe _ _
  refine ⟨me, ?_, fun k hk => tget_tset_ne _ _ _ _ _ hk, tget_tset_same _ _ _ _, fun _ => rfl, fun _ _ => rfl,
    fun _ _ _ => rfl⟩
  rw [me]
  rfl

/-- A lock that is taken leaves the team with its status and its gang with the lines, whatever tiles have left for them. -/
theorem State.locking_taken {s x : State} {new : List Nat} (h : WriteFrame (s.locking new) x) (d : BitVec 8) (v : Word) :
    (x.putS d v).fin.me = { s.me.marked s.issue.slot with regs := s.me.regs.sset d.toNat v } ∧
      (x.putS d v).fin.myGang = { s.myGang with locks := s.myGang.locks ++ new } := by
  have me : (x.putS d v).fin.me = { s.me.marked s.issue.slot with regs := s.me.regs.sset d.toNat v } := by
    rw [h.putS_fin, State.me_setMe]
    rfl
  refine ⟨me, ?_⟩
  rw [State.myGang, me, h.putS_fin, State.gang]
  show tget _ x.gangs s.me.gang = _
  rw [h.gangs]
  exact tget_tset_same _ _ _ _

/-- With room for the lines as they are, the lock changes the lines that the L2 holds and nothing else of the machine. -/
theorem State.locking_alone (s : State) (new : List Nat) (c : Table Bool) (d : BitVec 8) (v : Word) :
    let t := (((s.locking new).withL2 c).putS d v).fin
    t = { s.locking new with teams := tset s.teams s.issue.team t.me, ms := { s.ms with l2 := t.ms.l2 } } ∧ s.SameMemory t := by
  have e := (WriteFrame.refl ((s.locking new).withL2 c)).putS_fin d v
  dsimp only
  rw [e, State.me_setMe]
  exact ⟨rfl, State.sameMemory_of_gang rfl rfl rfl rfl⟩

end Sys2Proof.Machine

open Sys2Proof Sys2Proof.Machine

/-- Settles O22: LOCK by its three outcomes, beyond a limit, waiting for frames and taken; the others each as one change. -/
theorem linesControlled : Obligations.LinesControlled := by
  unfold Obligations.LinesControlled
  intro o s hm n hn ha places keys
  refine ⟨fun l hl => ?_, ?_, ?_, ?_⟩
  · intro new fits g held
    refine ⟨fun hf => ?_, fun hf => ⟨fun hc => ?_, fun hc => ?_⟩⟩
    · refine ⟨_, exec_lock_beyond hm hn ha hl hf, ?_⟩
      rw [State.putS, State.modRegs_fin]
      exact ⟨s.onlyMe_setMe _, s.me_setMe _⟩
    · exact ⟨_, exec_lock_waits hm hn ha hl hf hc, s.onlyMe_setMe _, s.me_setMe _⟩
    · obtain ⟨c, x, hx, e⟩ := exec_lock_takes hm hn ha hl hf hc
      have frame : WriteFrame (s.locking new) x := (WriteFrame.of_ms _ _).trans (.findFrames hx)
      obtain ⟨me, mine⟩ := State.locking_taken frame o.d 0
      refine ⟨_, e, me, mine, fun hr => ?_⟩
      obtain rfl := State.findFrames_of_fit hx ((State.withL2_crowded _ c false _).trans hr)
      exact State.locking_alone s new c o.d 0
  · exact ⟨_, exec_unlock hm hn ha, s.unlocking_only _⟩
  · refine ⟨_, exec_cflush hm hn ha, ?_⟩
    obtain ⟨me, whole, memory⟩ := s.withL2_fin (places.foldl s.flushLine s.ms.l2)
    exact ⟨me, whole, fun hs pa hp hx => s.flushLines_clean _ hs pa (.inl ⟨hp, hx⟩), memory⟩
  · by_cases h0 : sB s.rd false o.b = 0
    · obtain ⟨me, whole, other, own, memory⟩ := s.withSampler_fin []
      exact ⟨_, exec_cinvro_all hm h0, me, whole, other, fun _ => own, fun h => absurd h0 h, memory⟩
    · obtain ⟨me, whole, other, own, memory⟩ := s.withSampler_fin (keys.foldl tdel (tget [] s.ms.sampler s.cluster))
      refine ⟨_, exec_cinvro_range hm hn ha h0, me, whole, other, fun h => absurd h h0, fun _ hs k => ?_, memory⟩
      exact (congrArg (tfind · k) own).trans (tfind_foldl_tdel keys hs k)

end

section
/-!
L2_LINE_EVICT and RECIPE_STORE_PERFORM (10 R225, 13 R296, R478).
-/

namespace Sys2Proof.Machine

/-! ### Lines and tiles that leave the L2 -/

theorem State.mayDrop_of_sealed {s : State} {p n : Nat} (h : s.tileState p n = .ok .sealed)
    (hpins : ((s.part p).rtile n).pins = 0) (hpin : s.hpin p n = false) : s.mayDrop p n = true := by
  simp [State.mayDrop, h, hpins, hpin, Except.toOption]

theorem State.mayDrop_eq_false {s : State} {p n : Nat} {st : TileState} (h : s.tileState p n = .ok st)
    (hst : st ≠ .sealed ∨ ((s.part p).rtile n).pins ≠ 0 ∨ s.hpin p n = true) : s.mayDrop p n = false := by
  rcases hst with hst | hpins | hpin
  · simp [State.mayDrop, h, hst, Except.toOption]
  · simp only [State.mayDrop, beq_eq_false_iff_ne.mpr hpins, Bool.and_false, Bool.false_and]
  · simp [State.mayDrop, hpin]

/-- What Fordom keeps of a tile once bytes of it have been written. -/
def RTile.Rewritten (x y : RTile) : Prop := y = { x with bytes := y.bytes, bad := y.bad }

theorem State.writeLoc_rewritten (s : State) (p g : Nat) (l : Loc) (d : List Byte) (q m : Nat) :
    ((s.part q).rtile m).Rewritten (((s.writeLoc p g l d).part q).rtile m) := by
  cases l with
  | gang a => rfl
  | phys pa key => rfl
  | recipe t off =>
    show RTile.Rewritten _ (((s.modTile p t fun x => { x with
      bytes := Memory.writeBytes x.bytes off d, bad := mended x.bad off d.length }).part q).rtile m)
    rw [rtile_modTile]
    split
    · rename_i h
      obtain ⟨rfl, rfl⟩ := h
      rfl
    · rfl

/-- Fordom's write of a tile's STATE may reach a recipe page, and of the tile there changes the bytes alone (13 R296). -/
theorem State.setTileState_rewritten (s : State) (p n : Nat) (st : TileState) (b : Bool) (q m : Nat) :
    ((s.part q).rtile m).Rewritten (((s.setTileState p n st b).part q).rtile m) := by
  unfold State.setTileState
  split
  · dsimp only
    split
    · rfl
    · exact s.writeLoc_rewritten _ _ _ _ _ _
  · rfl

theorem State.dropTile_rtile (s : State) (p n : Nat) :
    ((s.dropTile p n).part p).rtile n =
      { (s.part p).rtile n with bytes := [], resident := false, holder := none, lines := [], bad := [] } := by
  rw [State.dropTile, rtile_modTile, if_pos ⟨rfl, rfl⟩, s.setTileState_rewritten p n .dropped false p n]

theorem exec_evictLine_stays {s : State} {pa : Nat} (h : lineOf pa ∈ s.lockedLines ∨ s.target (lineOf pa) = .fx) :
    exec (.l2LineEvict (.line pa)) s = .next s :=
  congrArg _ (if_pos (by simpa using h))

theorem exec_evictLine_leaves {s : State} {pa : Nat} (hl : lineOf pa ∉ s.lockedLines) (hx : s.target (lineOf pa) ≠ .fx) :
    exec (.l2LineEvict (.line pa)) s = .next (s.withL2 (tdel s.ms.l2 (lineOf pa))) :=
  congrArg _ (if_neg (by simp [hl, hx]))

theorem exec_evictTile {s : State} {p n : Nat} {st : TileState} (h : s.tileState p n = .ok st) :
    exec (.l2LineEvict (.tile p n)) s = .next (if s.mayDrop p n then s.dropTile p n else s) := by
  show execL2LineEvict (.tile p n) s = _
  rw [execL2LineEvict, h]

theorem exec_evictTile_error {s : State} {p n : Nat} {f : Failure} (h : s.tileState p n = .error f) :
    exec (.l2LineEvict (.tile p n)) s = .next (s.logDevice f.code.num 1 2 0 f.addr) := by
  show execL2LineEvict (.tile p n) s = _
  rw [execL2LineEvict, h]

/-! ### Stores that follow in a queue -/

/-- A store follows the one before it out of the queue: it is not to a recipe tile (13 R478). -/
def HeldStore.follows (h : HeldStore) : Bool :=
  match h.loc with
  | .recipe _ _ => false
  | _ => true

/-- A store performed adds to its team's failures at most, and leaves its queue (18 R374, 13 R478). -/
theorem State.performStore_fails (s : State) (u : Nat) (h : HeldStore) :
    ∃ l, ((s.performStore u h).team u).storeFails = (s.team u).storeFails ++ l := by
  unfold State.performStore
  dsimp only
  split
  · split
    · split
      · split
        · exact ⟨[], (List.append_nil _).symm⟩
        · exact ⟨_, congrArg Team.storeFails (State.team_modTeam_same _ _ _)⟩
      · exact ⟨[], (congrArg Team.storeFails (State.team_modTeam_same _ _ _)).trans (List.append_nil _).symm⟩
    · exact ⟨[], (congrArg Team.storeFails (State.writeLoc_team _ _ _ _ _ _)).trans (List.append_nil _).symm⟩
  · exact ⟨[], (congrArg Team.storeFails (State.writeLoc_team _ _ _ _ _ _)).trans (List.append_nil _).symm⟩

theorem State.drain_of_not_follows {s : State} {u : Nat} {h : HeldStore} {r : List HeldStore}
    (hq : (s.team u).storeQ = h :: r) (hf : h.follows = false) (k : Nat) : s.drain u k = s := by
  cases k with
  | zero => rfl
  | succ k =>
    unfold HeldStore.follows at hf
    split at hf
    · rename_i hl
      simp only [State.drain, hq, hl]
    · cases hf

theorem State.drain_of_follows {s : State} {u : Nat} {h : HeldStore} {r : List HeldStore}
    (hq : (s.team u).storeQ = h :: r) (hf : h.follows = true) (k : Nat) :
    s.drain u (k + 1) = ((s.performStore u h).modTeam u fun t => { t with storeQ := r }).drain u k := by
  rw [State.drain, hq]
  dsimp only
  split
  · rename_i hl
    simp [HeldStore.follows, hl] at hf
  · rfl

/-- Stores leave a queue in order, up to the next to a recipe tile; what of them fails is raised later. -/
theorem State.drain_queue (s : State) (u : Nat) (q : List HeldStore) (hq : (s.team u).storeQ = q) :
    ((s.drain u q.length).team u).storeQ = q.dropWhile HeldStore.follows ∧
      (s.team u).storeFails <+: ((s.drain u q.length).team u).storeFails := by
  induction q generalizing s with
  | nil => exact ⟨hq, ⟨[], List.append_nil _⟩⟩
  | cons h r ih =>
    by_cases hf : h.follows = true
    · have hx : ((s.performStore u h).modTeam u fun t => { t with storeQ := r }).team u =
          { (s.performStore u h).team u with storeQ := r } := State.team_modTeam_same _ _ _
      obtain ⟨queue, fails⟩ := ih _ (congrArg Team.storeQ hx)
      rw [List.length_cons, State.drain_of_follows hq hf, List.dropWhile_cons_of_pos hf]
      rw [hx] at fails
      obtain ⟨l, hl⟩ := s.performStore_fails u h
      exact ⟨queue, List.IsPrefix.trans ⟨l, hl.symm⟩ fails⟩
    · rw [State.drain_of_not_follows hq (Bool.eq_false_iff.mpr hf), hq, List.dropWhile_cons_of_neg hf]
      exact ⟨rfl, ⟨[], List.append_nil _⟩⟩

theorem State.onlyTeam_modTeam (s : State) (u : Nat) (f : Team → Team) : s.OnlyTeam (s.modTeam u f) u :=
  ⟨by rw [State.team_modTeam_same]; rfl, fun _ => rfl, fun _ _ => rfl, fun _ _ _ => rfl⟩

theorem State.syncStore_team (s : State) (g u : Nat) : (s.syncStore g).team u = s.team u := by
  unfold State.syncStore
  split
  · exact (WriteFrame.writeMem s _ _ _).team u
  · rfl

/-! ### RECIPE_STORE_PERFORM -/

/-- The store at a queue's head has been performed or refused: the stores behind it follow, and the image of a suspended gang
holds what they wrote (13 R478, 03 R78). -/
def State.headStored (s : State) (u : Nat) (r : List HeldStore) (f : List Failure) : State :=
  let y := s.modTeam u fun t => { t with storeQ := r, storeFails := t.storeFails ++ f }
  if r.isEmpty then y else (y.drain u r.length).syncStore (s.team u).gang

theorem State.headStored_last (s : State) (u : Nat) (f : List Failure) :
    s.headStored u [] f = s.modTeam u fun t => { t with storeQ := [], storeFails := t.storeFails ++ f } := rfl

theorem State.headStored_queue (s : State) (u : Nat) (r : List HeldStore) (f : List Failure) :
    ((s.headStored u r f).team u).storeQ = r.dropWhile HeldStore.follows ∧
      (s.team u).storeFails ++ f <+: ((s.headStored u r f).team u).storeFails := by
  have hy : (s.modTeam u fun t => { t with storeQ := r, storeFails := t.storeFails ++ f }).team u =
      { s.team u with storeQ := r, storeFails := (s.team u).storeFails ++ f } := State.team_modTeam_same _ _ _
  cases r with
  | nil =>
    rw [State.headStored_last, hy]
    exact ⟨rfl, ⟨[], List.append_nil _⟩⟩
  | cons h r =>
    obtain ⟨queue, fails⟩ := State.drain_queue _ u (h :: r) (congrArg Team.storeQ hy)
    rw [hy] at fails
    rw [State.headStored]
    simp only [List.isEmpty_cons, Bool.false_eq_true, if_false, State.syncStore_team]
    exact ⟨queue, fails⟩

section
variable {s : State} {u n off : Nat} {h : HeldStore} {r : List HeldStore} (hq : (s.team u).storeQ = h :: r)
  (hl : h.loc = .recipe n off)
include hq hl

theorem exec_recipeStore_done {w : State}
    (hs : s.tileStore (s.gang (s.team u).gang).part (some (s.team u).gang) n off h.va h.data = .done w) :
    exec (.recipeStorePerform u) s = .next (w.headStored u r []) := by
  have hw : w.team u = s.team u := (WriteFrame.tileStore hs).team u
  show execRecipeStorePerform u s = _
  simp only [execRecipeStorePerform, hq, hl, hs, State.headStored, hw]

theorem exec_recipeStore_refused {f : Failure}
    (hs : s.tileStore (s.gang (s.team u).gang).part (some (s.team u).gang) n off h.va h.data = .refused f) :
    exec (.recipeStorePerform u) s = .next (s.headStored u r [f]) := by
  show execRecipeStorePerform u s = _
  simp only [execRecipeStorePerform, hq, hl, hs, State.headStored]

theorem exec_recipeStore_wait {m : Nat}
    (hs : s.tileStore (s.gang (s.team u).gang).part (some (s.team u).gang) n off h.va h.data = .wait m) :
    exec (.recipeStorePerform u) s = .next s := by
  show execRecipeStorePerform u s = _
  simp only [execRecipeStorePerform, hq, hl, hs]

end

end Sys2Proof.Machine

open Sys2Proof Sys2Proof.Machine

/-- Settles O51: a line and a tile leave or stay by the guards of L2_LINE_EVICT; RECIPE_STORE_PERFORM by the outcome of the
store at the head, and by induction on the stores behind it (`State.drain_queue`). -/
theorem linesLeave : Obligations.LinesLeave := by
  unfold Obligations.LinesLeave
  intro s
  refine ⟨fun pa => ⟨exec_evictLine_stays, fun hl hx => ?_⟩,
    fun p n => ⟨fun hst hpins hpin => ?_, fun st hst hno => ?_, fun f hf => ?_⟩, ?_⟩
  · exact ⟨_, exec_evictLine_leaves hl hx, ⟨fun _ => rfl, fun _ _ => rfl, fun _ _ _ => rfl⟩, rfl⟩
  · have e := exec_evictTile hst
    rw [if_pos (State.mayDrop_of_sealed hst hpins hpin)] at e
    exact ⟨_, e, (WriteFrame.dropTile s p n).whole, s.dropTile_rtile p n⟩
  · rw [exec_evictTile hst, State.mayDrop_eq_false hst hno]
    rfl
  · exact ⟨_, exec_evictTile_error hf, ⟨fun _ => rfl, fun _ _ => rfl, fun _ _ _ => rfl⟩, rfl⟩
  · intro u h r n off x g rest hq hl
    refine ⟨fun w hw => ?_, fun m hw => ?_, fun f hf => ?_⟩
    · refine ⟨_, exec_recipeStore_done hq hl hw, (w.headStored_queue u r []).1, ?_⟩
      rintro rfl
      rw [State.headStored_last]
      simp only [List.append_nil]
      rfl
    · exact exec_recipeStore_wait hq hl hw
    · obtain ⟨queue, fails⟩ := s.headStored_queue u r [f]
      refine ⟨_, exec_recipeStore_refused hq hl hf, queue, fails.subset (by simp), ?_⟩
      rintro rfl
      rw [State.headStored_last]
      exact ⟨s.onlyTeam_modTeam u _, s.team_modTeam_same u _⟩

end

section
/-!
Loads, LDRO and PREF (11 R241-R245, R248, R249): what a read leaves once its data are in the registers, and the fills of the
sampler cache.
-/

namespace Sys2Proof.Machine

/-! ### A read that completes -/

theorem ReadFrame.fin {s t : State} (h : ReadFrame s t) :
    s.OnlyMeRead t.fin ∧ t.fin.me = s.me.marked s.issue.slot ∧ t.fin.ms = t.ms := by
  rw [State.fin_eq, h.me, h.issue]
  exact h.frame _

/-- A read made once the executing team's record has become T. -/
theorem ReadFrame.fin_of_setMe {s t : State} {T : Team} (h : ReadFrame (s.setMe T) t) :
    s.OnlyMeRead t.fin ∧ t.fin.me = T.marked s.issue.slot ∧ t.fin.ms = t.ms := by
  obtain ⟨frame, hme, hms⟩ := h.fin
  rw [State.me_setMe] at hme
  refine ⟨⟨?_, frame.parts, frame.tiles, ⟨frame.memory.phys, frame.memory.gang, frame.memory.tile⟩⟩, hme, hms⟩
  have hteams : tset (s.setMe T).teams (s.setMe T).issue.team t.fin.me = tset s.teams s.issue.team t.fin.me := tset_tset ..
  refine frame.whole.trans ?_
  rw [hteams]
  rfl

theorem ReadFrame.setMe {s t : State} (h : ReadFrame s t) (T : Team) : ReadFrame (s.setMe T) (t.setMe T) := by
  refine ⟨?_, h.parts, h.tiles⟩
  have hwhole : t.setMe T = State.setMe { s with parts := t.parts, ms := _ } T := congrArg (State.setMe · T) h.whole
  exact hwhole

theorem ReadFrame.takesData {s y t : State} (h : ReadFrame s y) {d : BitVec 8} {n : Nat} {m : LaneMask} {f : Nat → List Byte}
    (ht : y.TakesData t d n m f) : s.TakesData t d n m f := by
  rw [h.whole] at ht
  exact ht

/-! ### Data shorter than their type -/

theorem bytesNat_append_zeros (b : List Byte) {z : List Byte} (hz : ∀ x ∈ z, x = 0) : bytesNat (b ++ z) = bytesNat b := by
  induction b with
  | nil =>
    induction z with
    | nil => rfl
    | cons x r ih =>
      obtain ⟨rfl, hr⟩ := List.forall_mem_cons.1 hz
      have hr0 : bytesNat r = 0 := ih hr
      show 0 + 256 * bytesNat r = 0
      rw [hr0]
  | cons x r ih => simp [bytesNat, ih]

theorem bytesNat_padTo (n : Nat) (b : List Byte) : bytesNat (padTo n b) = bytesNat b :=
  bytesNat_append_zeros b fun _ hx => List.eq_of_mem_replicate hx

theorem fieldAt_padTo (n : Nat) (b : List Byte) (off k : Nat) : fieldAt (padTo n b) off k = fieldAt b off k := by
  simp only [fieldAt, padTo, List.drop_append, List.take_append]
  exact bytesNat_append_zeros _ fun x hx => List.eq_of_mem_replicate (List.mem_of_mem_drop (List.mem_of_mem_take hx))

/-- Loaded data of fewer bytes than their type stand for those with zeros behind them. -/
theorem putData_takes_le (s : State) (d : BitVec 8) {n : Nat} (hn : 0 < n) (m : LaneMask) {f : Nat → List Byte}
    (hf : ∀ l, (f l).length ≤ n) :
    ∃ T : Team, s.putData d n m f = s.setMe T ∧ T = { s.me with regs := T.regs, held := T.held } ∧
      ∀ t : State, t.me.regs = T.regs → t.me.held = T.held → s.TakesData t d n m f := by
  have hlen : ∀ l, (padTo n (f l)).length = n := fun l => by simp [padTo, Nat.add_sub_cancel' (hf l)]
  obtain ⟨T, hput, hT, htakes⟩ := putData_takes s d n hn m (fun l => padTo n (f l)) fun l _ _ => hlen l
  refine ⟨T, ?_, hT, fun t hregs hheld => ?_⟩
  · simpa only [State.putData, bytesNat_padTo, fieldAt_padTo] using hput
  · simpa only [State.TakesData, bytesNat_padTo, fieldAt_padTo] using htakes t hregs hheld

theorem State.TakesData.congr {s t : State} {d : BitVec 8} {n : Nat} {m : LaneMask} {f g : Nat → List Byte}
    (h : s.TakesData t d n m f) (hfg : ∀ l ∈ s.active m, f l = g l) : s.TakesData t d n m g := by
  unfold State.TakesData at h ⊢
  by_cases hport : n ≤ 4 ∧ isPort d = true
  · rw [if_pos hport] at h ⊢
    obtain ⟨hregs, hheld⟩ := h
    have hstores : s.portStores d m (fun l => BitVec.ofNat 32 (bytesNat (f l))) =
        s.portStores d m fun l => BitVec.ofNat 32 (bytesNat (g l)) := by
      refine congrArg joinStores (List.map_congr_left fun l hl => ?_)
      dsimp only
      rw [hfg l (List.mem_filter.1 hl).1]
    exact ⟨hregs, hheld.trans (by rw [hstores])⟩
  · rw [if_neg hport] at h ⊢
    obtain ⟨hheld, honly, hlanes⟩ := h
    refine ⟨hheld, honly, fun j hj l hl => (hlanes j hj l hl).trans ?_⟩
    by_cases hm : m.getLsbD l = true
    · dsimp only
      rw [hfg l ((active_mem s m l).2 ⟨hl, hm⟩)]
    · simp [hm]

/-! ### The sampler cache -/

theorem State.fillSampler_eq (s : State) (cl p : Nat) (l : Loc) :
    ∃ c, s.fillSampler cl p l = { s with ms := { s.ms with sampler := c } } ∧
      ∀ k, k ≠ cl → tget [] c k = tget [] s.ms.sampler k := by
  unfold State.fillSampler
  dsimp only
  split
  · exact ⟨_, rfl, fun _ _ => rfl⟩
  · exact ⟨_, rfl, fun k hk => tget_tset_ne _ _ _ _ _ hk⟩

/-- Filling lanes' lines changes the sampler cache of the operation's cluster alone. -/
theorem State.fillLanes_eq (l : List (Nat × LaneAt)) (s : State) :
    ∃ c, s.fillLanes l = { s with ms := { s.ms with sampler := c } } ∧
      ∀ k, k ≠ s.cluster → tget [] c k = tget [] s.ms.sampler k := by
  induction l generalizing s with
  | nil => exact ⟨_, rfl, fun _ _ => rfl⟩
  | cons a r ih =>
    obtain ⟨c, hfill, hothers⟩ := s.fillSampler_eq s.cluster s.myGang.part a.2.loc
    obtain ⟨c', hrest, hothers'⟩ := ih { s with ms := { s.ms with sampler := c } }
    refine ⟨c', ?_, fun k hk => (hothers' k hk).trans (hothers k hk)⟩
    have hcons : s.fillLanes (a :: r) = (s.fillSampler s.cluster s.myGang.part a.2.loc).fillLanes r := rfl
    rw [hcons, hfill, hrest]

theorem ReadFrame.fillLanes (s : State) (l : List (Nat × LaneAt)) : ReadFrame s (s.fillLanes l) := by
  obtain ⟨c, hfill, -⟩ := s.fillLanes_eq l
  rw [hfill]
  exact ⟨rfl, fun _ => rfl, fun _ _ => rfl⟩

theorem State.fillLanes_sampler_ne (s : State) (l : List (Nat × LaneAt)) {c : Nat} (hc : c ≠ s.cluster) :
    tget [] (s.fillLanes l).ms.sampler c = tget [] s.ms.sampler c := by
  obtain ⟨_, hfill, hothers⟩ := s.fillLanes_eq l
  rw [hfill]
  exact hothers c hc

theorem State.samplerBytes_length_le (s : State) (cl p : Nat) (l : Loc) (n : Nat) : (s.samplerBytes cl p l n).length ≤ n :=
  List.length_take_le ..

/-! ### Per-lane loads -/

/-- Each per-lane load is a load of the shape of 11 R243 through its row's addresses; none of its lanes is served before it
is read. -/
theorem exec_of_loadRule {i : Instr} {s : State} {o : A3} {n : Nat} {chk : Nat → Except Failure LaneAt}
    (h : s.loadRule i = some (o, n, chk)) :
    exec i s = .next (s.loadOp o n chk) ∧ 0 < n ∧ ∀ l a, chk l = .ok a → a.served = false := by
  cases i with
  | ldgsB32 | ldgsB64 | ldgsB128 => cases h; exact ⟨rfl, by decide, fun _ _ => gang_served _ _ _ _⟩
  | _ => cases h <;> exact ⟨rfl, by decide, fun _ _ => virt_served _ _ _ _ _⟩

theorem State.effMask_ne_zero_of_active {s : State} {m : LaneMask} {l : Nat} (h : l ∈ s.active m) : m ≠ 0 := by
  rintro rfl
  simpa using ((active_mem s 0 l).1 h).2

theorem State.loadOp_of_checks {s : State} {o : A3} {n : Nat} {chk : Nat → Except Failure LaneAt} {a : Nat → LaneAt}
    (hm : s.effMask o.g ≠ 0) (hd : s.DestReady o.d)
    (h : ∀ l ∈ s.active (s.effMask o.g), chk l = .ok (a l) ∧ s.ReadsAtOnce (a l).loc n) :
    s.loadOp o n chk =
      s.loadAt o.d n (s.effMask o.g) ((s.active (s.effMask o.g)).map fun l => (l, readAs s (a l) n)) := by
  have hread : ∀ l ∈ s.active (s.effMask o.g), s.laneRead true (chk l) n = .ok (readAs s (a l) n) := fun l hl => by
    rw [(h l hl).1, laneRead_ok s true _ n (h l hl).2, if_pos rfl]
  unfold State.loadOp
  simp only [if_neg hm, s.writeGate_go _ hd, checkLanes_ok _ _ _ hread]

/-! ### LDRO and PREF -/

/-- What LDRO finds of a lane's place: a line that the cluster's sampler cache holds serves it. -/
def State.cachedAs (s : State) (a : LaneAt) : LaneAt :=
  if (tfind (tget [] s.ms.sampler s.cluster) (State.lineKey s.myGang.part a.loc)).isSome then { a with served := true } else a

theorem State.cachedAs_loc (s : State) (a : LaneAt) : (s.cachedAs a).loc = a.loc := by
  unfold State.cachedAs
  split <;> rfl

theorem State.laneCached_ok {s : State} {a : LaneAt} {n : Nat} (h : s.ReadsAtOnce a.loc n) :
    s.laneCached (.ok a) n = .ok (s.cachedAs a) := by
  unfold State.laneCached State.cachedAs
  dsimp only
  split
  · rfl
  · rw [laneRead_ok s false a n h]
    rfl

section
variable {s : State} {o : A3} {n : Nat} {a : Nat → LaneAt} (hm : s.effMask o.g ≠ 0) (hd : s.DestReady o.d)
  (h : ∀ l ∈ s.active (s.effMask o.g),
    s.laneVirtual .readOnly (s.addrV o n l) n = .ok (a l) ∧ s.ReadsAtOnce (a l).loc n)
include hm hd h

/-- LDRO through checked places: their lines fill the sampler cache, and the lanes take the bytes it then holds. -/
theorem State.ldro_of_checks : ∃ at_ : List (Nat × LaneAt), ∃ f : Nat → List Byte,
    s.ldro o n = (((s.fillLanes at_).putData o.d n (s.effMask o.g) f).noteLanes at_).fin ∧ (∀ l, (f l).length ≤ n) ∧
      ∀ l ∈ s.active (s.effMask o.g), f l = s.samplerBytes s.cluster s.myGang.part (a l).loc n := by
  let ls := s.active (s.effMask o.g)
  let at_ := ls.map fun l => (l, s.cachedAs (a l))
  have hchecked : checkLanes ls (fun l => s.laneCached (s.laneVirtual .readOnly (s.addrV o n l) n) n) = .ok at_ :=
    checkLanes_ok _ _ _ fun l hl => by rw [(h l hl).1, State.laneCached_ok (h l hl).2]
  have hpresent : s.missingTile at_ = none := missing_none s at_ n fun x hx => by
    obtain ⟨l, hl, rfl⟩ := List.mem_map.1 hx
    rw [State.cachedAs_loc]
    exact (h l hl).2
  refine ⟨at_, laneRes [] (at_.map fun x => (x.1, LaneAt.cached s x.2 n)), ?_, fun l => ?_, fun l hl => ?_⟩
  · unfold State.ldro
    simp only [if_neg hm, s.writeGate_go _ hd]
    rw [hchecked]
    simp only [hpresent]
  · unfold laneRes
    split
    · rename_i x hx
      obtain ⟨y, -, rfl⟩ := List.mem_map.1 (List.mem_of_find?_eq_some hx)
      exact s.samplerBytes_length_le ..
    · exact Nat.zero_le n
  · have hgot : at_.map (fun x => (x.1, LaneAt.cached s x.2 n)) =
        ls.map fun l => (l, s.samplerBytes s.cluster s.myGang.part (a l).loc n) := by
      simp only [at_, List.map_map, Function.comp_def, LaneAt.cached, State.cachedAs_loc]
    rw [hgot, laneRes_map _ _ _ _ hl]

theorem State.ldro_takes (hn : 0 < n) : s.OnlyMeRead (s.ldro o n) ∧
    (∀ c, c ≠ s.cluster → tget [] (s.ldro o n).ms.sampler c = tget [] s.ms.sampler c) ∧
    (s.ldro o n).me = { s.me.marked s.issue.slot with regs := (s.ldro o n).me.regs, held := (s.ldro o n).me.held } ∧
    s.TakesData (s.ldro o n) o.d n (s.effMask o.g) fun l => s.samplerBytes s.cluster s.myGang.part (a l).loc n := by
  obtain ⟨at_, f, heq, hlen, hf⟩ := State.ldro_of_checks hm hd h
  have hfill := ReadFrame.fillLanes s at_
  obtain ⟨T, hput, hT, htakes⟩ := putData_takes_le (s.fillLanes at_) o.d hn (s.effMask o.g) hlen
  rw [hfill.me] at hT
  rw [hput] at heq
  have hframe := (hfill.setMe T).trans (ReadFrame.lanes at_ _)
  obtain ⟨honly, hme, hms⟩ := hframe.fin_of_setMe
  rw [← heq] at honly hme hms
  refine ⟨honly, fun c hc => ?_, ?_, ?_⟩
  · rw [hms, lanes_sampler]
    exact s.fillLanes_sampler_ne at_ hc
  · rw [hme]
    conv => lhs; rw [hT]
    rfl
  · exact (hfill.takesData (htakes _ (by rw [hme]; rfl) (by rw [hme]; rfl))).congr hf

end

/-- The lines of a PREF's lanes come into the caches, and nothing else happens. -/
theorem exec_pref {s : State} {o : A3} (hm : s.effMask o.g ≠ 0) :
    ∃ y, exec (.pref o) s = .next y.fin ∧ ReadFrame s y ∧
      ∀ c, c ≠ s.cluster → tget [] y.ms.sampler c = tget [] s.ms.sampler c := by
  let at_ := s.prefLanes o (s.effMask o.g)
  have hnote := ReadFrame.lanes at_ s
  have hsampler := lanes_sampler at_ s
  have hcluster : (s.noteLanes at_).cluster = s.cluster := by rw [State.cluster, hnote.issue]; rfl
  have hexec : exec (.pref o) s =
      .next (if o.b.code = 1 then (s.noteLanes at_).fillLanes at_ else s.noteLanes at_).fin := by
    show execPref o s = _
    rw [execPref, if_neg hm]
  refine ⟨_, hexec, ?_⟩
  split
  · refine ⟨hnote.trans (ReadFrame.fillLanes _ at_), fun c hc => ?_⟩
    rw [State.fillLanes_sampler_ne _ at_ (by rwa [hcluster]), hsampler]
  · exact ⟨hnote, fun c _ => by rw [hsampler]⟩

end Sys2Proof.Machine

open Sys2Proof Sys2Proof.Machine

/-- Settles O16: a load by the checks of its lanes and `loadAt_ok`; LDRO by the same write of the registers, with the bytes
of its cluster's sampler cache, whose fill, as PREF's, changes that cluster's lines alone. -/
theorem loadResults : Obligations.LoadResults := by
  unfold Obligations.LoadResults
  refine ⟨fun i s o n chk a hrule hm hd h => ?_, fun o s hm => ⟨fun i n a hi hd h => ?_, ?_⟩⟩
  · obtain ⟨hexec, hn, hserved⟩ := exec_of_loadRule hrule
    refine ⟨_, hexec, ?_⟩
    rw [State.loadOp_of_checks hm hd h]
    exact loadAt_ok s o.d n hn _ a fun l hl => ⟨(h l hl).2, hserved l (a l) (h l hl).1⟩
  · have hexec : exec i s = .next (s.ldro o n) ∧ 0 < n := by
      simp only [List.mem_cons, Prod.mk.injEq, List.not_mem_nil, or_false] at hi
      obtain ⟨rfl, rfl⟩ | ⟨rfl, rfl⟩ | ⟨rfl, rfl⟩ := hi <;> exact ⟨rfl, by decide⟩
    exact ⟨_, hexec.1, State.ldro_takes hm hd h hexec.2⟩
  · obtain ⟨y, hexec, hframe, hothers⟩ := exec_pref hm
    obtain ⟨honly, hme, hms⟩ := hframe.fin
    exact ⟨_, hexec, honly, fun c hc => by rw [hms, hothers c hc], hme⟩

end

section
/-!
Stores (11 R241-R245): a per-lane store is withheld, and one that leaves the release buffer writes physical memory under its key
ID (10 R225, R228, 02 R65, 19 R386, R387).
-/

namespace Sys2Proof.Machine

/-! ### Withheld stores -/

theorem ReadFrame.isHost {s t : State} (h : ReadFrame s t) (l : Loc) : t.isHost l = s.isHost l := by
  rw [h.whole]
  rfl

theorem ReadFrame.isDomain {s t : State} (h : ReadFrame s t) (l : Loc) : t.isDomain l = s.isDomain l := by
  rw [h.whole]
  rfl

theorem State.hold_fin (s : State) (l : List HeldStore) :
    (s.hold l).fin = s.setMe { s.me.marked s.issue.slot with held := s.me.held ++ l } :=
  s.fin_setMe { s.me with held := s.me.held ++ l }

/-- Stores to places of which none is in host memory or another device's are withheld (11 R244). -/
theorem State.putStores_withheld {s y : State} {at_ : List (Nat × LaneAt)} (h : ReadFrame s y)
    (hplaces : ∀ x ∈ at_, s.Withholds x.2.loc) (l : List HeldStore) : y.putStores at_ l = (y.hold l).fin := by
  refine if_neg ?_
  rw [List.any_eq_true]
  rintro ⟨x, hx, hfar⟩
  obtain ⟨hhost, hdomain⟩ := hplaces x hx
  rw [h.isHost, h.isDomain, hhost, hdomain] at hfar
  exact Bool.noConfusion hfar

/-- Each per-lane store is a store of the shape of 11 R243 through its row's addresses. -/
theorem exec_of_storeRule {i : Instr} {s : State} {o : A3} {n : Nat} {chk : Nat → Except Failure LaneAt}
    (h : s.storeRule i = some (o, n, chk)) : exec i s = .next (s.storeOp o n chk) := by
  cases i
  all_goals cases h
  all_goals rfl

theorem State.storeOp_of_checks {s : State} {o : A3} {n : Nat} {chk : Nat → Except Failure LaneAt} {a : Nat → LaneAt}
    (hm : s.effMask o.g ≠ 0) (hd : s.SourceReady o.d)
    (h : ∀ l ∈ s.active (s.effMask o.g), chk l = .ok (a l) ∧ s.Withholds (a l).loc) :
    let at_ := (s.active (s.effMask o.g)).map fun l => (l, a l)
    s.storeOp o n chk = ((s.noteLanes at_).hold (s.laneStores o.d n at_)).fin := by
  intro at_
  unfold State.storeOp
  simp only [if_neg hm, s.readGate_go _ _ hd, checkLanes_ok _ _ _ fun l hl => (h l hl).1]
  refine State.putStores_withheld (ReadFrame.lanes at_ s) (fun x hx => ?_) _
  obtain ⟨l, hl, rfl⟩ := List.mem_map.1 hx
  exact (h l hl).2

/-- Of the stores of some lanes the latest at a place is that of the last lane that writes it. -/
theorem latest_map (f : Nat → HeldStore) (ls : List Nat) (x : Loc) :
    latest (ls.map f) x = ls.reverse.findSome? fun l => (f l).byteAt x := by
  rw [latest, ← List.map_reverse, List.findSome?_map]
  rfl

theorem State.latest_laneStores (s : State) (d : BitVec 8) (n : Nat) (ls : List Nat) (a : Nat → LaneAt) (x : Loc) :
    latest (s.laneStores d n (ls.map fun l => (l, a l))) x = ls.reverse.findSome? fun l =>
      (⟨(a l).loc, (a l).va, s.laneData d n l, false, (a l).key, 0⟩ : HeldStore).byteAt x := by
  rw [State.laneStores, latest_join, List.map_map, latest_map]
  rfl

/-! ### A released store -/

theorem tfind_tset {α : Type} (t : Table α) (k j : Nat) (v : α) :
    tfind (tset t k v) j = if j = k then some v else tfind t j := by
  induction t with
  | nil =>
    simp only [tset, tfind]
    grind
  | cons x r ih =>
    obtain ⟨i, w⟩ := x
    simp only [tset, tfind]
    grind [tfind]

theorem tfind_foldl_tset {α : Type} (v : α) (ls : List Nat) (t : Table α) (j : Nat) :
    tfind (ls.foldl (fun m l => tset m l v) t) j = if j ∈ ls then some v else tfind t j := by
  induction ls generalizing t with
  | nil => simp
  | cons l r ih =>
    rw [List.foldl_cons, ih, tfind_tset]
    by_cases hr : j ∈ r <;> by_cases hl : j = l <;> simp [hr, hl]

/-- A line's key ID put down in the table, which lists those other than 0. -/
def putKey (key : BitVec 12) (m : Table Nat) (l : Nat) : Table Nat := if key = 0 then tdel m l else tset m l key.toNat

theorem tsorted_putKey (key : BitVec 12) {m : Table Nat} (h : tsorted m = true) (l : Nat) : tsorted (putKey key m l) = true := by
  unfold putKey
  split
  · exact tsorted_tdel m l h
  · exact tsorted_tset m l _ h

theorem tget_putKey (key : BitVec 12) {m : Table Nat} (h : tsorted m = true) (l j : Nat) :
    tget 0 (putKey key m l) j = if j = l then key.toNat else tget 0 m j := by
  unfold putKey
  split
  next h0 =>
    subst h0
    split
    next hj => rw [hj, tget_tdel_same 0 m l h]; rfl
    next hj => exact tget_tdel_ne 0 m l j h hj
  next =>
    split
    next hj => rw [hj, tget_tset_same]
    next hj => exact tget_tset_ne 0 m l j _ hj

theorem tget_foldl_putKey (key : BitVec 12) (ls : List Nat) {m : Table Nat} (h : tsorted m = true) (j : Nat) :
    tget 0 (ls.foldl (putKey key) m) j = if j ∈ ls then key.toNat else tget 0 m j := by
  induction ls generalizing m with
  | nil => simp
  | cons l r ih =>
    rw [List.foldl_cons, ih (tsorted_putKey key h l), tget_putKey key h]
    by_cases hr : j ∈ r <;> by_cases hl : j = l <;> simp [hr, hl]

/-- The lines of HBM that a write touches are under its key ID from then on (02 R65). -/
theorem State.physWrite_lineKeys (s : State) (key : BitVec 12) (pa : Nat) (d : List Byte) (h : tsorted s.ms.lineKeys = true)
    {l : Nat} (hl : l ∈ linesOf pa d.length) (hbm : s.target l = .hbm) :
    tget 0 (s.physWrite key pa d).ms.lineKeys l = key.toNat := by
  have hkeys : (s.physWrite key pa d).ms.lineKeys = (s.otherKeyed key pa d.length).foldl (putKey key) s.ms.lineKeys := rfl
  rw [hkeys, tget_foldl_putKey key _ h]
  split
  · rfl
  next hother =>
    simpa [State.otherKeyed, hl, hbm] using hother

theorem State.physWrite_l2 (s : State) (key : BitVec 12) (pa : Nat) (d : List Byte) {l : Nat} (hl : l ∈ linesOf pa d.length) :
    tfind (s.physWrite key pa d).ms.l2 l = some true :=
  (tfind_foldl_tset true _ _ l).trans (if_pos hl)

theorem State.physWrite_poisoned (s : State) (key : BitVec 12) (pa : Nat) (d : List Byte) {l : Nat}
    (hl : l ∈ linesOf pa d.length) (hlo : pa ≤ l) (hhi : l + 128 ≤ pa + d.length) :
    ¬ (s.physWrite key pa d).ms.poisoned.contains l := by
  simp only [State.physWrite, List.contains_eq_mem, List.mem_filter, decide_eq_true_eq]
  rintro ⟨-, hwhole⟩
  simp [hl, hlo, hhi] at hwhole

theorem State.performStore_phys {s : State} {u pa : Nat} {key : BitVec 12} {h : HeldStore} (hloc : h.loc = .phys pa key)
    (hnear : (s.target pa == .remote) = false) : s.performStore u h = s.physWrite key pa h.data := by
  unfold State.performStore
  simp only [hloc, hnear]
  rfl

end Sys2Proof.Machine

open Sys2Proof Sys2Proof.Machine

/-- Settles O17: a store whose places withhold it is held after the team's others, its lanes in ascending order, so that
`latest` finds the highest first; a released one is a write of physical memory under the key ID of its place. -/
theorem storeResults : Obligations.StoreResults := by
  unfold Obligations.StoreResults
  refine ⟨fun i s o n chk a hrule hm hd h => ?_, fun s u pa key h hloc hnear hmem hsorted => ?_⟩
  · refine ⟨_, exec_of_storeRule hrule, ?_⟩
    rw [State.storeOp_of_checks hm hd h, State.hold_fin]
    have hnote := ReadFrame.lanes ((s.active (s.effMask o.g)).map fun l => (l, a l)) s
    rw [hnote.me, hnote.issue]
    obtain ⟨honly, hme, hms⟩ := hnote.frame { s.me.marked s.issue.slot with
      held := s.me.held ++ s.laneStores o.d n ((s.active (s.effMask o.g)).map fun l => (l, a l)) }
    refine ⟨honly, ?_, ?_, fun x => ?_⟩
    · rw [hms, lanes_sampler]
    · rw [hme]
    · rw [hme, latest_append, State.latest_laneStores]
  · rw [State.performStore_phys hloc hnear]
    exact ⟨s.physWrite_memOk key pa _ hmem, fun k hk => s.physWrite_in key pa k _ hmem hk,
      fun b hb hu => s.physWrite_under key pa b _ hmem hb hu, fun l hl hbm => s.physWrite_lineKeys key pa _ hsorted hl hbm,
      fun l hl => s.physWrite_l2 key pa _ hl, fun l hl hlo hhi => s.physWrite_poisoned key pa _ hl hlo hhi, rfl, rfl⟩

end

section
/-!
Lanes that fail an access check (11 R243): the lowest failing lane's failure is the operation's, for every lane that fails with its
code.
-/

namespace Sys2Proof.Machine

/-- Lane k's check fails with a code. -/
def failsWith {α : Type} (f : Nat → Except Failure α) (c : FaultCode) (k : Nat) : Bool :=
  match f k with
  | .error e => e.code == c
  | .ok _ => false

/-- Lane k with the failure of its check, if it fails. -/
def failureAt {α : Type} (f : Nat → Except Failure α) (k : Nat) : Option (Nat × Failure) :=
  match f k with
  | .error e => some (k, e)
  | .ok _ => none

theorem failureAt_eq_none {α : Type} {f : Nat → Except Failure α} {k : Nat} (h : ∃ a, f k = .ok a) : failureAt f k = none := by
  obtain ⟨a, h⟩ := h
  simp [failureAt, h]

theorem lanes_failuresAt {α : Type} (f : Nat → Except Failure α) (c : FaultCode) (ls : List Nat) :
    ((ls.filterMap (failureAt f)).filter fun x => x.2.code == c).map (·.1) = ls.filter (failsWith f c) := by
  induction ls with
  | nil => rfl
  | cons k r ih =>
    rw [List.filterMap_cons, List.filter_cons]
    cases hk : f k with
    | ok a => simp [failureAt, failsWith, hk, ih]
    | error e =>
      by_cases hc : (e.code == c) = true
      · simp [failureAt, failsWith, hk, hc, ih]
      · simp [failureAt, failsWith, hk, hc, ih]

/-- Checked in ascending order, lanes fail with the lowest failing one's failure. -/
theorem checkLanes_error {α : Type} {f : Nat → Except Failure α} {ls : List Nat} {l : Nat} {e : Failure}
    (hsorted : ls.Pairwise (· < ·)) (hl : l ∈ ls) (he : f l = .error e) (hlow : ∀ k ∈ ls, k < l → ∃ a, f k = .ok a) :
    checkLanes ls f = .error ⟨e, maskOf (ls.filter (failsWith f e.code))⟩ := by
  obtain ⟨below, above, rfl⟩ := List.append_of_mem hl
  have hbelow : below.filterMap (failureAt f) = [] := by
    rw [List.filterMap_eq_nil_iff]
    intro k hk
    exact failureAt_eq_none (hlow k (List.mem_append_left _ hk) ((List.pairwise_append.1 hsorted).2.2 k hk l (by simp)))
  have hfirst : (below ++ l :: above).filterMap (failureAt f) = (l, e) :: above.filterMap (failureAt f) := by
    rw [List.filterMap_append, hbelow, List.nil_append, List.filterMap_cons]
    simp [failureAt, he]
  unfold checkLanes
  dsimp only
  rw [fm_congr _ (failureAt f) _ (by intro k _; cases hk : f k <;> simp only [failureAt, hk]), hfirst]
  dsimp only
  rw [← hfirst, lanes_failuresAt]

theorem State.active_pairwise (s : State) (m : LaneMask) : (s.active m).Pairwise (· < ·) :=
  List.Pairwise.filter _ List.pairwise_lt_range

/-- Reading leaves a lane whose bytes are at hand checked, and one that fails with its failure. -/
theorem failsWith_laneRead {s : State} {chk : Nat → Except Failure LaneAt} {n k : Nat}
    (h : ∀ a, chk k = .ok a → s.ReadsAtOnce a.loc n) (c : FaultCode) :
    failsWith (fun l => s.laneRead true (chk l) n) c k = failsWith chk c k := by
  cases hk : chk k with
  | error e => simp only [failsWith, hk, State.laneRead]
  | ok a => simp only [failsWith, hk, laneRead_ok s true a n (h a hk)]

section
variable {s : State} {o : A3} {n l : Nat} {chk : Nat → Except Failure LaneAt} {f : Failure}
  (hl : l ∈ s.active (s.effMask o.g)) (hf : chk l = .error f) (hlow : ∀ k ∈ s.active (s.effMask o.g), k < l → ∃ a, chk k = .ok a)
include hl hf hlow

theorem State.storeOp_faults (hd : s.SourceReady o.d) :
    s.storeOp o n chk = s.fault f.code f.addr (maskOf ((s.active (s.effMask o.g)).filter (failsWith chk f.code))) := by
  unfold State.storeOp
  simp only [if_neg (State.effMask_ne_zero_of_active hl), s.readGate_go _ _ hd,
    checkLanes_error (s.active_pairwise _) hl hf hlow]

theorem State.loadOp_faults (hd : s.DestReady o.d)
    (hread : ∀ k ∈ s.active (s.effMask o.g), ∀ a, chk k = .ok a → s.ReadsAtOnce a.loc n) :
    s.loadOp o n chk = s.fault f.code f.addr (maskOf ((s.active (s.effMask o.g)).filter (failsWith chk f.code))) := by
  have hbelow : ∀ k ∈ s.active (s.effMask o.g), k < l → ∃ a, s.laneRead true (chk k) n = .ok a := fun k hk hkl => by
    obtain ⟨a, ha⟩ := hlow k hk hkl
    rw [ha, laneRead_ok s true a n (hread k hk a ha)]
    exact ⟨_, rfl⟩
  have hfails : s.laneRead true (chk l) n = .error f := by rw [hf]; rfl
  unfold State.loadOp
  simp only [if_neg (State.effMask_ne_zero_of_active hl), s.writeGate_go _ hd]
  rw [checkLanes_error (s.active_pairwise _) hl hfails hbelow,
    List.filter_congr fun k hk => failsWith_laneRead (hread k hk) f.code]

end

end Sys2Proof.Machine

open Sys2Proof Sys2Proof.Machine

/-- Settles O18: the lanes of a load or store are checked in ascending order before anything is accessed, and the lowest failing
one's failure is taken for every lane that shares its code. -/
theorem accessFaults : Obligations.AccessFaults := by
  unfold Obligations.AccessFaults
  intro i s o n chk l f hrule hl hf hlow hread
  have hexec : exec i s =
      .next (s.fault f.code f.addr (maskOf ((s.active (s.effMask o.g)).filter (failsWith chk f.code)))) := by
    obtain ⟨hload, hd⟩ | ⟨hstore, hd⟩ := hrule
    · rw [(exec_of_loadRule hload).1, State.loadOp_faults hl hf hlow hd hread]
    · rw [exec_of_storeRule hstore, State.storeOp_faults hl hf hlow hd]
  refine hexec.trans (congrArg (fun ls => (.next (s.fault f.code f.addr (maskOf ls)) : Answer)) (List.filter_congr fun k _ => ?_))
  cases hk : chk k <;> simp only [failsWith, hk]

end

section
/-!
A scalar store with a domain or system scope also waits for the team's earlier stores to leave its store queue (11 R247),
which a state with a queued store shows.
-/

namespace Sys2Proof.Machine

/-- An STL that may name its place, of domain or system scope, waits while an earlier store stands in the store queue. -/
theorem State.stl_waits {s : State} {o : AtomOp} {n : Nat} {a : LaneAt} (hm : s.effMask o.g ≠ 0)
    (hc : s.laneVirtual .store (s.rd.sget o.a.toNat) n = .ok a) (hr : s.scopeReaches o.scope a.loc = true)
    (hscope : 4 ≤ o.scope.toNat) (hq : s.me.storeQ.isEmpty = false) : s.stl o n = s.wait .storeQueue := by
  have hw : 4 ≤ o.scope.toNat ∧ (!s.me.storeQ.isEmpty) = true := ⟨hscope, by rw [hq]; rfl⟩
  unfold State.stl State.uni State.acked
  simp only [if_neg hm, hc, hr, if_pos hw, Bool.not_true, Bool.false_eq_true, if_false]

@[simp] theorem State.wait_held (s : State) (c : WaitCond) : (s.wait c).me.held = s.me.held := by
  simp only [State.wait, State.modMe, State.me_setMe]

/-- Team 2, with one lane and a store still in its store queue, the first gibibyte of its partition mapped to physical
address 0. -/
def queuedStore : State :=
  { State.reset with
    issue := ⟨2, 0, 0, [⟨0, 0, 2 ^ 30, 0x1D⟩], .none, none⟩
    parts := [(0, { Part.reset with keySet := 1 })]
    gangs := [(1, Gang.absent)]
    teams := [(2, { Team.absent with
      gang := 1, regs := { Regs.zero with masks := [⟨1, false, false, 0, 0⟩] }
      storeQ := [⟨.phys 0x2000 0, 0x2000, [0], false, 0, 0⟩] })] }

/-- STL.b32 of s0 to address 0 with domain scope. -/
def storeDomain : AtomOp := ⟨0, 0, 0, 4, false⟩

set_option maxRecDepth 20000 in
set_option exponentiation.threshold 5000 in
theorem queuedStore_check :
    queuedStore.laneVirtual .store (queuedStore.rd.sget storeDomain.a.toNat) 4 = .ok ⟨.phys 0 0, 0, 0, false⟩ := by
  rfl

end Sys2Proof.Machine

open Sys2Proof Sys2Proof.Machine

/-- Refutes O19: an STL of domain scope waits also for the stores in the team's store queue (11 R247), where the statement
asks only that none is unacknowledged. -/
theorem not_scalarAccesses : ¬ Obligations.ScalarAccesses := by
  unfold Obligations.ScalarAccesses
  rintro ⟨-, h⟩
  have hm : queuedStore.effMask storeDomain.g ≠ 0 := by decide +kernel
  have hreach : queuedStore.scopeReaches storeDomain.scope (.phys 0 0) = true := by decide +kernel
  obtain ⟨t, ht, -, -, hme⟩ := h (.stlB32 storeDomain) queuedStore _ _ _ _ _ _ rfl hm queuedStore_check
    (by unfold State.Withholds; decide +kernel) (by decide +kernel)
  have hwait : queuedStore.stl storeDomain 4 = queuedStore.wait .storeQueue :=
    State.stl_waits hm queuedStore_check hreach (by decide) (by decide +kernel)
  have e : (.next (queuedStore.wait .storeQueue) : Answer) = .next t := by rw [← hwait]; exact ht
  obtain rfl : queuedStore.wait .storeQueue = t := by simpa using e
  have hheld := congrArg (fun x => x.held.length) hme
  simp at hheld

end

section
/-!
A failure that the continuation of a CPYY meets is reported at the bundle that the team waits for a recomputation in, where it
waits for one (19 R394): a state with such a wait shows it.
-/

namespace Sys2Proof.Machine

/-- FAULT_REPORT of a runnable team between bundles whose continuation meets a failure. -/
theorem exec_faultReport {s : State} {u : Nat} {f : EngineFail} (hf : (s.team u).contFail = some f)
    (hst : (s.team u).st = .runnable) (hflight : (s.team u).flight = none) (hended : (s.team u).ended = false) :
    exec (.faultReport u) s = .next (s.raiseCont u f) := by
  show execFaultReport u s = _
  unfold execFaultReport
  simp only [hf, hst, hflight, hended, beq_self_eq_true, Option.isNone_none, Bool.not_false, Bool.and_self, if_true]

/-- The failure of copy 4 of team 2. -/
def copyFailure : EngineFail := ⟨4, 2, ⟨.xlate, 0⟩⟩

/-- Team 2 at bundle 0, with the failed copy 4 as its continuation's and a wait for a recomputation in bundle 7. -/
def copyFailedWaiting : State :=
  { State.reset with
    gangs := [(1, { Gang.absent with hndEn := true, image := { Image.absent with trapVec := some 0 } })]
    teams := [(2, { Team.absent with
      gang := 1, st := .runnable, waits := [.recompute 0 0 7], contNum := some 4, contFails := [copyFailure] })] }

/-- The frame of the fault names bundle 7. -/
theorem raiseCont_copyFailedWaiting_s62 :
    ((copyFailedWaiting.raiseCont 2 copyFailure).team 2).regs.sget 62 = (copyFailedWaiting.gang 1).image.bundleVa 7 := by
  decide +kernel

end Sys2Proof.Machine

open Sys2Proof Sys2Proof.Machine

/-- Refutes O44: the fault a continuation meets is framed with the bundle the team waits for a recomputation in, where the
statement has the bundle the team stands at. -/
theorem not_teamsStop : ¬ Obligations.TeamsStop := by
  unfold Obligations.TeamsStop
  rintro ⟨h, -⟩
  obtain ⟨report, -⟩ := h copyFailedWaiting 2
  have hf : (copyFailedWaiting.team 2).contFail = some copyFailure := by decide +kernel
  obtain ⟨t, ht, -, -, henters⟩ := report copyFailure 0 hf rfl rfl rfl rfl rfl rfl rfl
  have e := (exec_faultReport hf rfl rfl rfl).symm.trans ht
  obtain rfl : copyFailedWaiting.raiseCont 2 copyFailure = t := by simpa using e
  have hframe := raiseCont_copyFailedWaiting_s62.symm.trans henters.s62
  exact absurd hframe (by decide +kernel)

end

section
/-!
A copy within a gang store changes the store it writes: a copy of one byte shows that no gang-store copy of differing bytes
leaves the memory the same (11 R262).
-/

namespace Sys2Proof.Machine

/-- The record of a copy of one byte from address 0 of the gang store to address 128 of it. -/
def copyByteRecord : List Byte :=
  setBytes (setBytes (setBytes (List.replicate 64 0) 8 [128]) 0x28 [1]) 0x30 [0x50]

/-- The started copy. -/
def copyByte : CopyCmd := ⟨1, copyByteRecord, 0, none, true, false, ⟨[], false⟩, 0, []⟩

/-- Team 2 of gang 1, whose one command is that copy; byte 0 of the gang store is 7, every other one 0. -/
def copyingByte : State :=
  { State.reset with
    gangs := [(1, { Gang.absent with gstore := 1, store := [(0, 7)] })]
    teams := [(2, { Team.absent with gang := 1, st := .runnable, copyNum := 1, copyQ := [copyByte] })] }

theorem copyingByte_source :
    copyingByte.storeRead 1 (BitVec.ofNat 64 (fieldAt copyByteRecord 0 8) + strideAt copyByteRecord 0x20 * BitVec.ofNat 64 0)
      (copyLen copyByteRecord) 1 = .ok (.gang 0) := by
  rfl

theorem copyingByte_destination :
    (copyingByte.gang 1).checkStore
      (BitVec.ofNat 64 (fieldAt copyByteRecord 8 8) + strideAt copyByteRecord 0x24 * BitVec.ofNat 64 0)
      (copyLen copyByteRecord) 1 = .ok (.gang 128) := by
  rfl

end Sys2Proof.Machine

open Sys2Proof Sys2Proof.Machine

/-- Refutes O48: the copied byte 7 arrives at address 128 of the gang store, which held 0, where the statement also has every
byte of the gang stores read as before. -/
theorem not_copiesRun : ¬ Obligations.CopiesRun := by
  unfold Obligations.CopiesRun
  rintro ⟨-, -, copied⟩
  obtain ⟨t, -, hsame, -, -, harrived, -⟩ := copied copyingByte 2 copyByte [] rfl rfl rfl (by simp) (by decide)
    (fun _ _ => List.not_mem_nil) rfl (by decide +kernel) (by decide +kernel) (by decide +kernel) (by decide +kernel)
    rfl rfl (by decide +kernel) copyingByte_source copyingByte_destination
  have hkept : Memory.read (t.gang 1).store 128 = 0 := hsame.gang 1 128
  have harrived7 : Memory.read (t.gang 1).store 128 = 7 := (List.cons.inj harrived).1
  exact absurd (hkept.symm.trans harrived7) (by decide)

end

section
/-!
The rings of a gang: QINIT, QCOMMIT and QPOP (11 R251-R253, R257).
-/

namespace Sys2Proof.Machine

/-! ### Changes of the team's gang -/

/-- Changing the team and its gang, the gang store kept, changes nothing else. -/
theorem State.modMyGang_setMe_only (s : State) {f : Gang → Gang} {x : Team} (hx : x.gang = s.me.gang)
    (hf : (f s.myGang).store = s.myGang.store) :
    let t := (s.modMyGang f).setMe x
    s.OnlyMyGang t ∧ t.me = x ∧ t.myGang = f s.myGang := by
  intro t
  have me : t.me = x := State.me_setMe _ _
  have gang : t.gang s.me.gang = f s.myGang := tget_tset_same _ _ _ _
  refine ⟨⟨?_, State.sameMemory_of_gang rfl rfl rfl hf⟩, me, ?_⟩
  · rw [me, gang]
    rfl
  · rw [State.myGang, me, hx]
    exact gang

/-- A committing change of the team's gang. -/
theorem State.modMyGang_finC_spec (s : State) (f : Gang → Gang) :
    let t := (s.modMyGang f).finC
    t.me = s.me.committed s.issue.slot ∧ t.gang s.me.gang = f s.myGang ∧
      t = { s with
        teams := tset s.teams s.issue.team t.me
        gangs := tset s.gangs s.me.gang (t.gang s.me.gang) } := by
  intro t
  have me : t.me = s.me.committed s.issue.slot := State.me_setMe _ _
  have gang : t.gang s.me.gang = f s.myGang := tget_tset_same _ _ _ _
  refine ⟨me, gang, ?_⟩
  rw [me, gang]
  rfl

theorem State.uni_of_active {s : State} {g : BitVec 3} (hm : s.effMask g ≠ 0) (k : LaneMask → State) :
    s.uni g k = k (s.effMask g) := if_neg hm

theorem State.uniC_of_active {s : State} {g : BitVec 3} (hm : s.effMask g ≠ 0) (k : LaneMask → State) :
    s.uniC g k = k (s.effMask g) := if_neg hm

/-- A team with no store left to perform and no failure of one goes on. -/
theorem State.drained_of_settled {s : State} (h : s.Settled) (m : LaneMask) (k : State) : s.drained m k = k := by
  obtain ⟨hq, hf⟩ := h
  have hnext : s.me.nextStoreFail = none := by rw [Team.nextStoreFail, hf]
  simp only [State.drained, State.raised, hq, hnext, List.isEmpty_nil, Bool.not_true, Bool.false_eq_true, if_false]

/-! ### QINIT -/

theorem bitsOf_7_0 (x : Nat) : bitsOf x 7 0 = x % 256 := by simp [bitsOf]

theorem bitsOf_12_8 {x : Nat} (h : x < 2 ^ 13) : bitsOf x 12 8 = x / 256 := Nat.mod_eq_of_lt (by omega)

/-- A gang whose ring q is off the walker it was bound to. -/
def Gang.unbindRing (g : Gang) (q : Nat) : Gang :=
  if (g.ring q).bound then g.setWalker (g.ring q).walker { g.walker (g.ring q).walker with bound := false } else g

theorem Gang.unbindRing_eq (g : Gang) (q : Nat) :
    g.unbindRing q = { g with
      walkers :=
        if (g.ring q).bound then tset g.walkers (g.ring q).walker { g.walker (g.ring q).walker with bound := false }
        else g.walkers } := by
  unfold Gang.unbindRing
  split <;> rfl

/-- QINIT of a range in the gang store over a ring that no running walker is bound to. -/
theorem exec_qinit {o : A3} {s : State} (hm : s.effMask o.g ≠ 0) (hal : (s.sA o).toNat % 128 = 0)
    (hcfg : (sB s.rd false o.b).toNat < 2 ^ 13) (hbase : (s.sA o).toNat < 2 ^ 22)
    (hspan : bitsOf (s.sA o).toNat 21 20 < s.myGang.span)
    (hfits : (s.sA o).toNat % 2 ^ 20 + ((sB s.rd false o.b).toNat % 256 + 1) * (((sB s.rd false o.b).toNat / 256 + 1) * 128) ≤
      s.myGang.gstore * 4096)
    (hidle : ((s.myGang.ring o.d.toNat).bound && (s.myGang.walker (s.myGang.ring o.d.toNat).walker).run) = false) :
    exec (.qinit o) s = .next (s.modMyGang fun g => (g.unbindRing o.d.toNat).setRing o.d.toNat
      ⟨(s.sA o).toNat, (sB s.rd false o.b).toNat % 256, (sB s.rd false o.b).toNat / 256, true, false, 0, 0, 0, none⟩).fin := by
  have hstore : s.myGang.checkStore (s.sA o)
      (((sB s.rd false o.b).toNat % 256 + 1) * (((sB s.rd false o.b).toNat / 256 + 1) * 128)) 1 = .ok (.gang (s.sA o).toNat) := by
    simp only [Gang.checkStore, Nat.mod_one, ne_eq, not_true_eq_false, if_false, hbase, hspan, hfits, and_self, if_true]
  show execQinit o s = _
  unfold execQinit
  simp only [State.uni_of_active hm, bitsOf_7_0, bitsOf_12_8 hcfg, Nat.mod_eq_of_lt hbase, Ring.size, Ring.entryBytes, hstore,
    hal, Nat.div_eq_of_lt hcfg, hidle, ne_eq, not_true_eq_false, if_false, Except.toOption, Option.isNone_some,
    Bool.false_eq_true]
  rfl

/-! ### QCOMMIT -/

theorem State.writeLoc_issue (s : State) (p g : Nat) (l : Loc) (d : List Byte) : (s.writeLoc p g l d).issue = s.issue := by
  cases l <;> rfl

theorem State.performStore_issue (s : State) (u : Nat) (h : HeldStore) : (s.performStore u h).issue = s.issue := by
  unfold State.performStore
  dsimp only
  split
  · split
    · split
      · split
        · rfl
        · rfl
      · rfl
    · exact s.writeLoc_issue _ _ _ _
  · exact s.writeLoc_issue _ _ _ _

theorem State.drain_issue (u k : Nat) (s : State) : (s.drain u k).issue = s.issue := by
  induction k generalizing s with
  | zero => rfl
  | succ k ih =>
    unfold State.drain
    split
    · rfl
    · rename_i h r _
      split
      · rfl
      · rw [ih]
        exact s.performStore_issue u h

@[simp] theorem State.release_issue (s : State) (u k : Nat) : (s.release u k).issue = s.issue := State.drain_issue u _ _

/-- A gang with n entries more in ring q. -/
def Gang.commitRing (g : Gang) (q n : Nat) : Gang :=
  g.setRing q { g.ring q with tail := (g.ring q).tail + BitVec.ofNat 32 n }

/-- QCOMMIT into a ring with room that no walker fills. -/
theorem exec_qcommit {o : A3} {s : State} (hm : s.effMask o.g ≠ 0) (hs : s.Settled)
    (hinit : (s.myGang.ring o.d.toNat).init = true) (hbound : (s.myGang.ring o.d.toNat).bound = false)
    (hn : 0 < (sB s.rd false o.b).toNat)
    (hroom : (s.myGang.ring o.d.toNat).filled + (sB s.rd false o.b).toNat ≤ (s.myGang.ring o.d.toNat).size) :
    exec (.qcommit o) s = .next ((((s.keepRing o.d.toNat).release s.issue.team s.me.held.length).modMyGang fun g =>
      g.commitRing o.d.toNat (sB s.rd false o.b).toNat).finC) := by
  have hsize : ¬ (s.myGang.ring o.d.toNat).size < (sB s.rd false o.b).toNat := by omega
  show execQcommit o s = _
  unfold execQcommit
  simp only [State.uniC_of_active hm, State.drained_of_settled hs, if_neg (Nat.ne_of_gt hn), if_neg (Nat.not_lt.mpr hroom),
    hinit, hbound, hsize, decide_false, Bool.not_true, Bool.or_self, Bool.false_eq_true, if_false, Gang.commitRing]

/-! ### QPOP -/

/-- Keeping a ring for the bundle's other slots changes the team alone. -/
theorem State.keepRing_eq (s : State) (q : Nat) :
    s.keepRing q = s.setMe { s.me with flight := s.me.flight.map fun f =>
      { f with olds := { f.olds with ring := some (q, (s.myGang.ring q).head, (s.myGang.ring q).tail) } } } := rfl

/-- A change of the team's gang commutes with one of the team within the gang. -/
theorem State.modMyGang_of_setMe (s : State) {x : Team} (hx : x.gang = s.me.gang) (f : Gang → Gang) :
    (s.setMe x).modMyGang f = (s.modMyGang f).setMe x := by
  unfold State.modMyGang
  rw [State.me_setMe, hx]
  rfl

/-- The last of the next n entries of ring q is one of its walker's walk. -/
def Gang.popsOwn (g : Gang) (q n : Nat) : Bool :=
  (g.ring q).bound &&
    decide (((g.ring q).head + BitVec.ofNat 32 n - 1 - (g.walker (g.ring q).walker).start).toNat <
      (g.walker (g.ring q).walker).produced)

/-- The walker of ring q, with that entry as the last one popped. -/
def Gang.walkerAt (g : Gang) (q n : Nat) : Walker :=
  { g.walker (g.ring q).walker with
    lastE := some ((g.ring q).head + BitVec.ofNat 32 n - 1 - (g.walker (g.ring q).walker).start).toNat }

/-- The walker of ring q once n entries have been popped. -/
def Gang.poppedWalker (g : Gang) (q n : Nat) : Walker :=
  if g.popsOwn q n then g.walkerAt q n else g.walker (g.ring q).walker

/-- A gang with n entries popped from ring q. -/
def Gang.popRing (g : Gang) (q n : Nat) : Gang :=
  (if g.popsOwn q n then g.setWalker (g.ring q).walker (g.poppedWalker q n) else g).setRing q
    { g.ring q with head := (g.ring q).head + BitVec.ofNat 32 n }

theorem Gang.popRing_eq (g : Gang) (q n : Nat) :
    g.popRing q n = { g with
      rings := tset g.rings q { g.ring q with head := (g.ring q).head + BitVec.ofNat 32 n }
      walkers := if g.popsOwn q n then tset g.walkers (g.ring q).walker (g.walkerAt q n) else g.walkers } := by
  unfold Gang.popRing Gang.poppedWalker
  split <;> rfl

theorem Gang.popsOwn_and_flag (g : Gang) (q n d : Nat) :
    (g.popsOwn q n && (g.poppedWalker q n).flag d) = (g.popsOwn q n && (g.walkerAt q n).flag d) := by
  unfold Gang.poppedWalker
  cases g.popsOwn q n <;> rfl

/-- The team keeps ring q for its bundle's other slots. -/
def State.keeper (s : State) (q : Nat) : Team :=
  { s.me with flight := s.me.flight.map fun f =>
    { f with olds := { f.olds with ring := some (q, (s.myGang.ring q).head, (s.myGang.ring q).tail) } } }

/-- The team once it has popped n entries of ring q: c[d] says whether the last of them ended its walker's walk. -/
def State.popper (s : State) (q n d : Nat) : Team :=
  ((s.keeper q).both fun x => x.cset d (s.myGang.popsOwn q n && (s.myGang.walkerAt q n).flag 3)).committed s.issue.slot

theorem State.popper_gang (s : State) (q n d : Nat) : (s.popper q n d).gang = s.me.gang := by
  simp only [State.popper, Team.committed, Team.marked, Team.both, State.keeper]

theorem State.popper_cget (s : State) (q n : Nat) {d : Nat} (hd : d < 8) :
    (s.popper q n d).regs.cget d = (decide (d = 0) || s.myGang.popsOwn q n && (s.myGang.walkerAt q n).flag 3) :=
  Regs.cget_cset _ _ _ hd

/-- QPOP of entries that the ring holds. -/
theorem exec_qpop {o : A3} {s : State} (hm : s.effMask o.g ≠ 0) (hinit : (s.myGang.ring o.a.toNat).init = true)
    (hn : 0 < (sB s.rd false o.b).toNat) (hsize : (sB s.rd false o.b).toNat ≤ (s.myGang.ring o.a.toNat).size)
    (hfilled : (sB s.rd false o.b).toNat ≤ (s.myGang.ring o.a.toNat).filled) :
    exec (.qpop o) s = .next ((s.modMyGang fun g => g.popRing o.a.toNat (sB s.rd false o.b).toNat).setMe
      (s.popper o.a.toNat (sB s.rd false o.b).toNat o.d.toNat)) := by
  have hkeep : s.keepRing o.a.toNat = s.setMe (s.keeper o.a.toNat) := rfl
  have hok : (!(s.myGang.ring o.a.toNat).init ||
      decide ((s.myGang.ring o.a.toNat).size < (sB s.rd false o.b).toNat)) = false := by
    simp [hinit, hsize]
  rw [State.popper, ← Gang.popsOwn_and_flag]
  show execQpop o s = _
  unfold execQpop
  simp only [State.uniC_of_active hm, if_neg (Nat.ne_of_gt hn), if_neg (Nat.not_lt.mpr hfilled), hok, Bool.false_eq_true,
    if_false, hkeep, State.modMyGang_of_setMe s (x := s.keeper o.a.toNat) rfl, State.modRegsC_finC, State.me_setMe,
    State.setMe_setMe]
  rfl

end Sys2Proof.Machine

open Sys2Proof Sys2Proof.Machine

/-- Settles O20: each operation changes its team and its ring alone, once its checks pass; what QCOMMIT's release changes is the
state it starts from. -/
theorem rings : Obligations.Rings := by
  unfold Obligations.Rings
  refine ⟨?_, ?_, ?_⟩
  · intro o s hm base cfg old hal hcfg hbase hspan hfits hidle
    refine ⟨_, exec_qinit hm hal hcfg hbase hspan hfits hidle, ?_⟩
    obtain ⟨only, me, gang⟩ := s.modMyGang_setMe_only (x := s.me.marked s.issue.slot) (f := fun g =>
      (g.unbindRing o.d.toNat).setRing o.d.toNat ⟨base, cfg % 256, cfg / 256, true, false, 0, 0, 0, none⟩) rfl
      (by rw [Gang.unbindRing_eq]; rfl)
    exact ⟨only, me, gang.trans (by rw [Gang.unbindRing_eq]; rfl)⟩
  · intro o s hm hq hf q n r hinit hbound hn hroom w
    have hexec : exec (.qcommit o) s = .next (w.modMyGang fun g => g.commitRing q n).finC :=
      exec_qcommit hm ⟨hq, hf⟩ hinit hbound hn hroom
    have hissue : w.issue = s.issue := State.release_issue _ _ _
    obtain ⟨me, gang, whole⟩ := w.modMyGang_finC_spec fun g => g.commitRing q n
    rw [← hissue]
    exact ⟨_, hexec, me, gang, whole⟩
  · intro o s hm hd q n r w e mine hinit hn hsize hfilled
    have hexec : exec (.qpop o) s = .next ((s.modMyGang fun g => g.popRing q n).setMe (s.popper q n o.d.toNat)) :=
      exec_qpop hm hinit hn hsize hfilled
    have hstore : (s.myGang.popRing q n).store = s.myGang.store := by rw [Gang.popRing_eq]
    obtain ⟨only, me, gang⟩ :=
      s.modMyGang_setMe_only (f := fun g => g.popRing q n) (s.popper_gang q n o.d.toNat) hstore
    refine ⟨_, hexec, only, gang.trans (Gang.popRing_eq _ _ _), ?_, me⟩
    rw [me]
    exact s.popper_cget q n hd
end

section
/-!
Walkers and queued copies: WBIND, WSTART, WSTOP, CPY and CPYY (11 R254, R256, R259, R260, R264).
-/

namespace Sys2Proof.Machine

/-! ### Records read -/

/-- Reading a record notes the recipe tiles it lies in and changes nothing else. -/
theorem WriteFrame.recordRead (s : State) (sp : Nat) (va : Word) (n : Nat) : WriteFrame s (s.recordRead sp va n) := by
  unfold State.recordRead
  split
  · exact .refl s
  · obtain ⟨whole, parts, -⟩ := noteRange_only s (s.teamCtx s.issue.team) va n
    exact ⟨by rw [whole], parts⟩

theorem WriteFrame.myGang {s t : State} (h : WriteFrame s t) : t.myGang = s.myGang := by
  rw [State.myGang, h.me, State.gang, h.gangs]
  rfl

theorem WriteFrame.rd {s t : State} (h : WriteFrame s t) : t.rd = s.rd := by
  rw [State.rd, h.me]
  rfl

/-- An operation goes on with the record it names. -/
theorem State.uniReadIn_of_record {s : State} {sp n al : Nat} {va : Word} {b : List Byte} (ha : va.toNat % al = 0)
    (h : s.RecordIs sp va n b) (m : LaneMask) (k : State → List Byte → State) :
    s.uniReadIn sp va n al m k = k (s.recordRead sp va n) b := by
  unfold State.uniReadIn State.recordRead
  unfold State.RecordIs at h
  rw [if_neg (not_not_intro ha)]
  by_cases hsp : sp = 1
  · rw [if_pos hsp] at h
    obtain ⟨l, hl, rfl⟩ := h
    simp only [hsp, if_true, State.uniReadGang, hl]
  · rw [if_neg hsp] at h
    simp only [hsp, if_false, State.uniRead, h]

/-! ### Walkers -/

/-- Two changes of the team's gang that agree on it as it stands are one. -/
theorem State.modMyGang_congr (s : State) {f g : Gang → Gang} (h : f s.myGang = g s.myGang) : s.modMyGang f = s.modMyGang g :=
  congrArg (s.setGang s.me.gang) h

theorem Team.committed_gang (t : Team) (k : Nat) : (t.committed k).gang = t.gang := by
  simp only [Team.committed, Team.marked]

/-- A committing change of the team's gang, the gang store kept, changes nothing else. -/
theorem State.modMyGang_finC_only (s : State) {f : Gang → Gang} (hf : (f s.myGang).store = s.myGang.store) :
    let t := (s.modMyGang f).finC
    s.OnlyMyGang t ∧ t.me = s.me.committed s.issue.slot ∧ t.myGang = f s.myGang :=
  s.modMyGang_setMe_only (s.me.committed_gang _) hf

/-- A gang whose walker n is bound to no ring: the ring it was bound to is free. -/
def Gang.unbindWalker (g : Gang) (n : Nat) : Gang :=
  if (g.walker n).bound then g.setRing (g.walker n).ring { g.ring (g.walker n).ring with bound := false } else g

theorem Gang.unbindWalker_store (g : Gang) (n : Nat) : (g.unbindWalker n).store = g.store := by
  unfold Gang.unbindWalker
  split <;> rfl

/-- A gang whose walker n is bound to ring q with a descriptor. -/
def Gang.bindWalker (g : Gang) (n q : Nat) (d : List Byte) : Gang :=
  ((g.unbindWalker n).setRing q { (g.unbindWalker n).ring q with bound := true, walker := n }).setWalker n
    ⟨d, q, true, false, false, 0, 0, 0, .xlate, 0, none⟩

/-- WBIND of a stopped walker to a ring that no other walker is bound to. -/
theorem exec_wbind {o : A3} {s : State} {d : List Byte} (hm : s.effMask o.g ≠ 0) (hs : s.Settled)
    (ha : (sB s.rd false o.b).toNat % 64 = 0) (hd : s.RecordIs 0 (sB s.rd false o.b) 64 d) (hok : walkOk d = true)
    (hal : walkAligned d = true) (hrun : (s.myGang.walker o.d.toNat).run = false)
    (hinit : (s.myGang.ring o.a.toNat).init = true)
    (hfree : (s.myGang.ring o.a.toNat).bound = true → (s.myGang.ring o.a.toNat).walker = o.d.toNat) :
    exec (.wbind o) s = .next
      ((s.recordRead 0 (sB s.rd false o.b) 64).modMyGang fun g => g.bindWalker o.d.toNat o.a.toNat d).finC := by
  have hframe := WriteFrame.recordRead s 0 (sB s.rd false o.b) 64
  have hring : ((s.myGang.ring o.a.toNat).bound && (s.myGang.ring o.a.toNat).walker != o.d.toNat) = false := by
    cases hb : (s.myGang.ring o.a.toNat).bound
    · rfl
    · simp [hfree hb]
  show execWbind o s = _
  unfold execWbind
  simp only [State.uniC_of_active hm, State.drained_of_settled hs, State.uniReadIn_of_record ha hd, hframe.myGang, hok, hal,
    hrun, hinit, hring, Bool.not_true, Bool.or_self, Bool.false_eq_true, if_false]
  refine congrArg (fun x => (.next (State.finC x) : Answer)) (State.modMyGang_congr _ ?_)
  rw [hframe.myGang]
  rfl

theorem Gang.bindWalker_store (g : Gang) (n q : Nat) (d : List Byte) : (g.bindWalker n q d).store = g.store := by
  simp only [Gang.bindWalker, Gang.setWalker, Gang.setRing, Gang.unbindWalker_store]

/-- What a walker's reads have asked for concerns teams alone, and no team's gang. -/
theorem State.walkerOver_gangs (s : State) (g n : Nat) : (s.walkerOver g n).gangs = s.gangs := by
  unfold State.walkerOver
  dsimp only
  split <;> rfl

theorem State.walkerOver_issue (s : State) (g n : Nat) : (s.walkerOver g n).issue = s.issue := by
  unfold State.walkerOver
  dsimp only
  split <;> rfl

theorem State.walkerOver_me_gang (s : State) (g n : Nat) : (s.walkerOver g n).me.gang = s.me.gang := by
  rw [State.me, State.walkerOver_issue]
  unfold State.walkerOver
  dsimp only
  split
  · by_cases hu : s.issue.team = s.walkerTeam g ((s.gang g).walker n)
    · rw [hu, State.team_modTeam_same, Team.engDone, State.me, hu]
    · rw [State.team_modTeam_ne _ _ hu]
      rfl
  · rfl

theorem State.walkerOver_myGang (s : State) (g n : Nat) : (s.walkerOver g n).myGang = s.myGang := by
  rw [State.myGang, State.walkerOver_me_gang, State.gang, State.walkerOver_gangs]
  rfl

/-- A gang whose walker n runs from its ring's tail for team u. -/
def Gang.startWalker (g : Gang) (n u : Nat) : Gang :=
  g.setWalker n { g.walker n with
    start := (g.ring (g.walker n).ring).tail, produced := 0, fault := false, run := true, team := u, lastE := none }

/-- A gang whose walker n stands still and is bound to no ring. -/
def Gang.stopWalker (g : Gang) (n : Nat) : Gang :=
  (g.unbindWalker n).setWalker n { g.walker n with run := false, bound := false }

/-- WSTART of a bound, stopped walker. -/
theorem exec_wstart {o : A3} {s : State} (hm : s.effMask o.g ≠ 0) (hs : s.Settled)
    (hbound : (s.myGang.walker o.d.toNat).bound = true) (hrun : (s.myGang.walker o.d.toNat).run = false) :
    exec (.wstart o) s = .next
      ((s.walkerOver s.me.gang o.d.toNat).modMyGang fun g => g.startWalker o.d.toNat s.issue.team).finC := by
  have hfree : (!(s.myGang.walker o.d.toNat).bound || (s.myGang.walker o.d.toNat).run) = false := by
    rw [hbound, hrun]
    rfl
  show execWstart o s = _
  unfold execWstart
  simp only [State.uniC_of_active hm, State.drained_of_settled hs, hfree, Bool.false_eq_true, if_false]
  refine congrArg (fun x => (.next (State.finC x) : Answer)) (State.modMyGang_congr _ ?_)
  rw [State.walkerOver_myGang]
  rfl

theorem Gang.startWalker_store (g : Gang) (n u : Nat) : (g.startWalker n u).store = g.store := by
  simp only [Gang.startWalker, Gang.setWalker]

theorem Gang.stopWalker_store (g : Gang) (n : Nat) : (g.stopWalker n).store = g.store := by
  simp only [Gang.stopWalker, Gang.setWalker, Gang.unbindWalker_store]

/-- WSTOP. -/
theorem exec_wstop {o : A3} {s : State} (hm : s.effMask o.g ≠ 0) :
    exec (.wstop o) s = .next ((s.walkerOver s.me.gang o.d.toNat).modMyGang fun g => g.stopWalker o.d.toNat).finC := by
  show execWstop o s = _
  unfold execWstop
  simp only [State.uniC_of_active hm]
  refine congrArg (fun x => (.next (State.finC x) : Answer)) (State.modMyGang_congr _ ?_)
  rw [State.walkerOver_myGang]
  rfl

/-! ### Copies -/

theorem WriteFrame.copyCheck {s t : State} (h : WriteFrame s t) (r : List Byte) : t.copyCheck r = s.copyCheck r := by
  unfold State.copyCheck
  rw [h.myGang, h.rd]

/-- The command that a CPY, or a CPYY with its continuation, queues. -/
def State.copyCmd (s : State) (r : List Byte) (yields : Bool) (old : Mapping) : CopyCmd :=
  ⟨s.me.copyNum + 1, r, s.rd.fmt, if yields then some (fieldAt r 0x34 4) else none, false, false, old, 0, []⟩

/-- The team with a copy queued and its number in s[d]. -/
def State.copyQueuer (s : State) (d : BitVec 8) (c : CopyCmd) : Team :=
  ({ s.me with copyNum := s.me.copyNum + 1, copyQ := s.me.copyQ ++ [c] } : Team).both fun x =>
    x.sset d.toNat (s.me.copyNum + 1)

theorem State.modMe_putSC (s : State) (f : Team → Team) (d : BitVec 8) (v : Word) :
    (s.modMe f).putSC d v = s.setMe ((f s.me).both fun r => r.sset d.toNat v) := by
  unfold State.putSC State.modRegsC State.modMe
  rw [State.me_setMe, State.setMe_setMe]
  rfl

theorem State.setMe_flow (s : State) (t : Team) (x : Flow) : (s.setMe t).flow x = s.setMe (t.flowing x) := by
  unfold State.flow State.modMe
  rw [State.me_setMe, State.setMe_setMe]
  rfl

/-- A CPY or CPYY whose record passes its checks, with room in the team's queue, queues its command. -/
theorem State.copyIssue_of_checks {o : A3} {s : State} {r : List Byte} {yields : Bool} (hm : s.effMask o.g ≠ 0) (hs : s.Settled)
    (ha : (s.sA o).toNat % 64 = 0) (hr : s.RecordIs o.b.code (s.sA o) 64 r) (hok : s.copyCheck r = none)
    (hroom : s.me.copyQ.length < 32) :
    ∃ old, s.copyIssue o yields = (s.recordRead o.b.code (s.sA o) 64).setMe
      ((if yields then (s.copyQueuer o.d (s.copyCmd r yields old)).flowing (.cont (s.me.copyNum + 1) (fieldAt r 0x34 4))
        else s.copyQueuer o.d (s.copyCmd r yields old)).committed s.issue.slot) := by
  have hread := State.uniReadIn_of_record ha hr
  have hframe := WriteFrame.recordRead s o.b.code (s.sA o) 64
  generalize s.recordRead o.b.code (s.sA o) 64 = v at hread hframe
  refine ⟨v.mapping (v.teamCtx v.issue.team) (copyRanges s.rd.fmt r), ?_⟩
  unfold State.copyIssue
  simp only [State.uniC_of_active hm, State.drained_of_settled hs, hread, hframe.copyCheck, hok, hframe.me, hframe.rd,
    if_neg (Nat.not_le.mpr hroom), State.modMe_putSC, ← hframe.issue]
  cases yields
  · exact finC_setMe v _
  · simp only [if_true, State.setMe_flow]
    exact finC_setMe v _

theorem exec_copy (o : A3) (s : State) (yields : Bool) :
    exec (if yields then .cpyy o else .cpy o) s = .next (s.copyIssue o yields) := by
  cases yields <;> rfl

end Sys2Proof.Machine

open Sys2Proof Sys2Proof.Machine

/-- Settles O21: reading the record notes recipe tiles at most; then each operation changes its team and gang alone. -/
theorem copyQueued : Obligations.CopyQueued := by
  unfold Obligations.CopyQueued
  refine ⟨?_, ?_⟩
  · intro o s hm n x
    refine ⟨?_, ?_, ?_⟩
    · intro d hq hf ha hd hok hal hrun r hinit hfree
      have hframe := WriteFrame.recordRead s 0 (sB s.rd false o.b) 64
      obtain ⟨only, me, gang⟩ := (s.recordRead 0 (sB s.rd false o.b) 64).modMyGang_finC_only
        (f := fun g => g.bindWalker n o.a.toNat d) (Gang.bindWalker_store _ _ _ _)
      rw [hframe.me, hframe.issue] at me
      rw [hframe.myGang] at gang
      exact ⟨_, exec_wbind hm ⟨hq, hf⟩ ha hd hok hal hrun hinit hfree, only, me, gang⟩
    · intro hq hf hbound hrun
      obtain ⟨only, me, gang⟩ := (s.walkerOver s.me.gang n).modMyGang_finC_only
        (f := fun g => g.startWalker n s.issue.team) (Gang.startWalker_store _ _ _)
      rw [State.walkerOver_issue] at me
      rw [State.walkerOver_myGang] at gang
      exact ⟨_, exec_wstart hm ⟨hq, hf⟩ hbound hrun, only, me, gang⟩
    · obtain ⟨only, me, gang⟩ := (s.walkerOver s.me.gang n).modMyGang_finC_only
        (f := fun g => g.stopWalker n) (Gang.stopWalker_store _ _)
      rw [State.walkerOver_issue] at me
      rw [State.walkerOver_myGang] at gang
      exact ⟨_, exec_wstop hm, only, me, gang⟩
  · intro o s r yields hm hq hf ha hr hok hroom
    obtain ⟨old, hissue⟩ := State.copyIssue_of_checks (yields := yields) hm ⟨hq, hf⟩ ha hr hok hroom
    exact ⟨_, old, (exec_copy o s yields).trans (congrArg _ hissue), State.onlyMe_setMe _ _, State.me_setMe _ _⟩
end

section
/-!
Trellis operations enter the reservation table (12 R271, R272, R277-R290).
-/

namespace Sys2Proof.Machine

/-! ### The reservation table -/

/-- The entries of a table's values, those of one key replaced by values with the same entries. No order of the keys is
assumed. -/
theorem flatMap_tset {α β : Type} (d : α) (f : Nat × α → List β) (t : Table α) (k : Nat) (v : α)
    (hd : f (k, d) = []) (hv : f (k, v) = f (k, tget d t k)) : (tset t k v).flatMap f = t.flatMap f := by
  induction t with
  | nil => simp [tset, hv, tget, hd]
  | cons x r ih =>
    obtain ⟨j, w⟩ := x
    by_cases hj : j = k
    · subst hj
      simp only [tget, if_true] at hv
      simp [tset, hv]
    · by_cases hk : k < j
      · simp only [tget, hj, hk, if_true, if_false] at hv
        simp [tset, hj, hk, hv, hd]
      · simp only [tget, hj, hk, if_false] at hv
        simp [tset, hj, hk, ih hv]

/-- What a gang contributes to a cluster's reservation table. -/
def State.tableOf (s : State) (cl : Nat) (g : Nat × Gang) : List (Nat × TrellisCmd) :=
  if g.2.cluster_ == cl && !g.2.trellis.isEmpty && s.onDie g.2 then g.2.trellis.map fun c => (g.1, c) else []

theorem State.table_eq (s : State) (cl : Nat) : s.table cl = s.gangs.flatMap (s.tableOf cl) := by
  unfold State.table State.tableOf
  induction s.gangs with
  | nil => rfl
  | cons x r ih =>
    rw [List.flatMap_cons, ← ih, List.filter_cons]
    split <;> rfl

/-- The reservation tables depend on the gangs' commands and places alone. -/
theorem State.table_setGang (s : State) (g cl : Nat) {x : Gang} (hc : x.trellis = (s.gang g).trellis)
    (hp : x.cluster_ = (s.gang g).cluster_) (hq : x.part = (s.gang g).part) : (s.setGang g x).table cl = s.table cl := by
  have hdie : s.onDie x = s.onDie (s.gang g) := by rw [State.onDie, hq]; rfl
  rw [State.table_eq, State.table_eq]
  refine flatMap_tset Gang.absent (s.tableOf cl) s.gangs g x (by simp [State.tableOf, Gang.absent]) ?_
  show s.tableOf cl (g, x) = s.tableOf cl (g, s.gang g)
  simp only [State.tableOf, hc, hp, hdie]

theorem WriteFrame.table {s t : State} (h : WriteFrame s t) (cl : Nat) : t.table cl = s.table cl := by
  have hdie : ∀ g : Gang, t.onDie g = s.onDie g := fun g => by rw [State.onDie, h.parts]; rfl
  have hof : t.tableOf cl = s.tableOf cl := by
    funext g
    simp only [State.tableOf, hdie]
  rw [State.table_eq, State.table_eq, h.gangs, hof]

/-! ### Tiles marked -/

/-- Tiles of a list changed one after another. -/
def modTiles (f : Tile → Tile) (l : List Nat) (t : Table Tile) : Table Tile :=
  l.foldl (fun t n => tset t n (f (tget default t n))) t

theorem Gang.foldl_modTile (f : Tile → Tile) (l : List Nat) (g : Gang) :
    l.foldl (fun x n => x.modTile n f) g = { g with tiles := modTiles f l g.tiles } := by
  induction l generalizing g with
  | nil => rfl
  | cons n r ih => exact ih _

theorem Gang.markBusy_eq (g : Gang) (reads writes : List Nat) :
    g.markBusy reads writes = { g with tiles := (g.markBusy reads writes).tiles } := by
  simp only [Gang.markBusy, Gang.foldl_modTile]

/-! ### What a command captures -/

theorem WriteFrame.tcSeen {s t : State} (h : WriteFrame s t) : t.tcSeen = s.tcSeen := by
  funext n
  simp only [State.tcSeen, h.me, h.myGang]

theorem WriteFrame.bdSeen {s t : State} (h : WriteFrame s t) : t.bdSeen = s.bdSeen := by
  funext n
  simp only [State.bdSeen, h.me, h.myGang]

theorem WriteFrame.captureTcs {s t : State} (h : WriteFrame s t) : t.captureTcs = s.captureTcs := by
  funext l
  simp only [State.captureTcs, h.tcSeen]

theorem WriteFrame.captureBds {s t : State} (h : WriteFrame s t) : t.captureBds = s.captureBds := by
  simp only [State.captureBds, h.bdSeen]

/-- The command that an operation of the executing team enters, with bindings `cbs` and mapping `old`. -/
def State.trellisCmd (s : State) (op : TrellisOp) (tiles : List Nat) (cbs : Table Word) (old : Mapping) : TrellisCmd :=
  ⟨s.myGang.trellisNum + 1, s.issue.team, op, s.captureTcs tiles, cbs, s.captureBds, s.rd.fmt, s.uids, 0, false, false, none,
    old⟩

theorem WriteFrame.uids {s t : State} (h : WriteFrame s t) : t.uids = s.uids := by rw [h.whole]

theorem WriteFrame.trellisCmd {s t : State} (h : WriteFrame s t) : t.trellisCmd = s.trellisCmd := by
  funext op tiles cbs old
  simp only [State.trellisCmd, h.myGang, h.issue, h.captureTcs, h.captureBds, h.rd, h.uids]

/-- A gang whose next command is entered. -/
def Gang.enters (g : Gang) (reads writes : List Nat) (c : TrellisCmd) : Gang :=
  { g.markBusy reads writes with trellisNum := g.trellisNum + 1, trellis := g.trellis ++ [c] }

theorem Gang.enters_store (g : Gang) (reads writes : List Nat) (c : TrellisCmd) :
    (g.enters reads writes c).store = g.store := by
  rw [Gang.enters, Gang.markBusy_eq]

/-- The machine once the executing team's operation has entered a command of its gang, which stood as g. -/
def State.commandIn (s : State) (g : Gang) (reads writes : List Nat) (c : TrellisCmd) : State :=
  (({ s with uids := s.uids + 1 } : State).setGang s.me.gang (g.enters reads writes c)).finC

/-- The translations that a command issued now keeps (10 R238). -/
def State.commandPages (s : State) (op : TrellisOp) (tiles : List Nat) : Mapping :=
  s.mapping (s.teamCtx s.issue.team) (op.ranges (s.captureTcs tiles) s.myGang.cbs s.captureBds)

/-- A command whose tiles are idle enters the table while that has room. -/
theorem State.trellisIssue_of_room {s : State} {reads writes : List Nat} (op : TrellisOp)
    (hw : s.myGang.tileWait reads writes = none) (hr : (s.table s.myGang.cluster_).length < 64) :
    s.trellisIssue op reads writes = s.commandIn s.myGang reads writes
      (s.trellisCmd op (reads ++ writes) s.myGang.cbs (s.commandPages op (reads ++ writes))) := by
  unfold State.trellisIssue State.tilesIdle
  simp only [hw, if_neg (Nat.not_le.mpr hr)]
  rfl

/-- What entering a command does, from a state in which only records have been read. -/
theorem State.commandIn_spec {s b : State} (h : WriteFrame s b) {g : Gang} (hg : g.store = s.myGang.store)
    (reads writes : List Nat) (c : TrellisCmd) :
    let t := b.commandIn g reads writes c
    b.OnlyMyGangNew t ∧ t.uids = s.uids + 1 ∧ t.me = s.me.committed s.issue.slot ∧ t.myGang = g.enters reads writes c := by
  intro t
  have me : t.me = b.me.committed b.issue.slot := State.me_setMe _ _
  have gang : t.gang b.me.gang = g.enters reads writes c := tget_tset_same _ _ _ _
  have store : (g.enters reads writes c).store = (b.gang b.me.gang).store := by
    rw [Gang.enters_store, hg, ← h.myGang]
    rfl
  refine ⟨⟨?_, State.sameMemory_of_gang rfl rfl rfl store⟩, ?_, ?_, ?_⟩
  · rw [me, gang]
    rfl
  · show b.uids + 1 = _
    rw [h.uids]
  · rw [me, h.me, h.issue]
  · rw [State.myGang, me, Team.committed_gang]
    exact gang

/-! ### Checks -/

theorem State.noFormat_eq_none {s : State} {l : List Nat} (h : ∀ n ∈ l, tcFormat (s.tcSeen n) ≠ 0) : s.noFormat l = none :=
  List.find?_eq_none.mpr fun n hn => by simpa using h n hn

/-- A command whose tiles have formats goes on to its other checks. -/
theorem State.tileOps_of_checks {s : State} {g : BitVec 3} {l : List Nat} (hm : s.effMask g ≠ 0) (hs : s.Settled)
    (hf : ∀ n ∈ l, tcFormat (s.tcSeen n) ≠ 0) (k : LaneMask → State) : s.tileOps g l k = k (s.effMask g) := by
  rw [State.tileOps, State.uniC_of_active hm, State.drained_of_settled hs, State.noFormat_eq_none hf]

theorem WriteFrame.refill (s : State) (va : Word) : WriteFrame s (s.refill va) := by
  unfold State.refill
  split
  · exact .refl s
  · split
    · exact .refl s
    · exact .of_ms s _

/-- An operation goes on with the bytes it reads. -/
theorem State.uniRead_of_record {s : State} {va : Word} {n : Nat} {b : List Byte} (h : s.RecordIs 0 va n b) (m : LaneMask)
    (k : State → List Byte → State) : s.uniRead va n m k = k (s.recordRead 0 va n) b := by
  have h1 := State.uniReadIn_of_record (al := 1) (Nat.mod_one _) h m k
  simpa only [State.uniReadIn, Nat.mod_one, ne_eq, not_true_eq_false, if_false, Nat.zero_ne_one] using h1

theorem length_pieces (m k : Nat) (l : List Byte) : (pieces m k l).length = k := by
  induction k generalizing l with
  | zero => rfl
  | succ k ih => rw [pieces, List.length_cons, ih]

section
variable {o : A3} {s : State} (hm : s.effMask o.g ≠ 0) (hs : s.Settled)
include hm hs

/-- TLD and TST of a record that passes its checks. -/
theorem State.transfer_of_checks {r : List Byte} (ha : (s.sA o).toNat % 32 = 0) (hr : s.RecordIs o.b.code (s.sA o) 32 r)
    (hf : tcFormat (s.tcSeen o.d.toNat) ≠ 0) (hok : transferOk (s.tcSeen o.d.toNat) r = true)
    (hal : transferAlign (s.tcSeen o.d.toNat) r = none) (store : Bool) :
    s.transfer o store =
      if store then (s.recordRead o.b.code (s.sA o) 32).trellisIssue (.tst o.d.toNat r) [o.d.toNat] []
      else (s.recordRead o.b.code (s.sA o) 32).trellisIssue (.tld o.d.toNat r) [] [o.d.toNat] := by
  have htc := (WriteFrame.recordRead s o.b.code (s.sA o) 32).tcSeen
  unfold State.transfer
  simp only [State.tileOps_of_checks hm hs (List.forall_mem_singleton.mpr hf), State.uniReadIn_of_record ha hr, htc, hok, hal,
    Bool.not_true, Bool.false_eq_true, if_false]

/-- TMMA, TMMAQ and TMMAV of tiles whose formats and shapes agree. -/
theorem State.product_of_checks {kind : Nat} (hd : tcFormat (s.tcSeen o.d.toNat) ≠ 0) (ha : tcFormat (s.tcSeen o.a.toNat) ≠ 0)
    (hb : tcFormat (s.tcSeen o.b.code) ≠ 0) (hf : productFormats kind (s.tcSeen o.a.toNat) (s.tcSeen o.b.code) = true)
    (hacc : tcFormat (s.tcSeen o.d.toNat) = 1 ∨ tcFormat (s.tcSeen o.d.toNat) = 2)
    (hshape : productShape kind (s.tcSeen o.d.toNat) (s.tcSeen o.a.toNat) (s.tcSeen o.b.code) = none)
    (hbook : kind = 2 → tget 0 s.myGang.cbs (tcCb (s.tcSeen o.b.code)) ≠ 0) :
    s.product o kind = s.trellisIssue (.tmma kind o.d.toNat o.a.toNat o.b.code) [o.a.toNat, o.b.code] [o.d.toNat] := by
  have hfmt : ∀ n ∈ [o.d.toNat, o.a.toNat, o.b.code], tcFormat (s.tcSeen n) ≠ 0 := by simp [hd, ha, hb]
  have hbound : ¬ (kind = 2 ∧ tget 0 s.myGang.cbs (tcCb (s.tcSeen o.b.code)) = 0) := fun h => hbook h.1 h.2
  have haccb : (tcFormat (s.tcSeen o.d.toNat) == 1 || tcFormat (s.tcSeen o.d.toNat) == 2) = true := by simpa using hacc
  unfold State.product
  simp only [State.tileOps_of_checks hm hs hfmt, hf, haccb, hshape, if_neg hbound, Bool.not_true, Bool.or_self,
    Bool.false_eq_true, if_false]

/-- TCVT of tiles whose formats and shapes agree. -/
theorem exec_tcvt (hd : tcFormat (s.tcSeen o.d.toNat) ≠ 0) (ha : tcFormat (s.tcSeen o.a.toNat) ≠ 0)
    (hok : convertOk (s.tcSeen o.a.toNat) (s.tcSeen o.d.toNat) = true)
    (hrows : tcRows (s.tcSeen o.a.toNat) = tcRows (s.tcSeen o.d.toNat))
    (hcols : tcCols (s.tcSeen o.a.toNat) = tcCols (s.tcSeen o.d.toNat)) :
    exec (.tcvt o) s = .next (s.trellisIssue (.tcvt o.d.toNat o.a.toNat) [o.a.toNat] [o.d.toNat]) := by
  have hfmt : ∀ n ∈ [o.d.toNat, o.a.toNat], tcFormat (s.tcSeen n) ≠ 0 := by simp [hd, ha]
  show execTcvt o s = _
  unfold execTcvt
  simp only [State.tileOps_of_checks hm hs hfmt, hok, hrows, hcols, Bool.not_true, Bool.false_eq_true, if_false, ne_eq,
    not_true_eq_false, or_self]

/-- TZERO of a tile with a format. -/
theorem exec_tzero (hd : tcFormat (s.tcSeen o.d.toNat) ≠ 0) :
    exec (.tzero o) s = .next (s.trellisIssue (.tzero o.d.toNat) [] [o.d.toNat]) :=
  congrArg _ (State.tileOps_of_checks hm hs (List.forall_mem_singleton.mpr hd) _)

/-- CBLOAD of a number in range, to unbind it, or of a codebook that may be read or fails by its key alone. -/
theorem exec_cbload (hn : (sB s.rd false o.b).toNat ≤ 63) (hr : (s.table s.myGang.cluster_).length < 64)
    (hva : s.sA o = 0 ∨ (∃ x, s.check (s.teamCtx s.issue.team) .load (s.sA o) 2048 2048 = .ok x) ∨
      s.check (s.teamCtx s.issue.team) .load (s.sA o) 2048 2048 = .error .keyInvalid) :
    exec (.cbload o) s = .next
      (((s.refill (s.sA o)).modMyGang fun g => { g with cbs := tset g.cbs (sB s.rd false o.b).toNat (s.sA o) }).trellisIssue
        (.cbload (sB s.rd false o.b).toNat (s.sA o)) [] []) := by
  show execCbload o s = _
  unfold execCbload
  simp only [State.uniC_of_active hm, State.drained_of_settled hs, if_neg (Nat.not_lt.mpr hn), if_neg (Nat.not_le.mpr hr)]
  by_cases h0 : s.sA o = 0
  · rw [if_pos h0]
  · rw [if_neg h0]
    obtain hzero | ⟨x, hx⟩ | hx := hva
    · exact absurd hzero h0
    · rw [hx]
    · rw [hx]

/-- TCHAIN of a program whose header, steps and sizes pass. -/
theorem exec_tchain {r b : List Byte} {n : Nat} (hn : n = bitsOf (fieldAt r 0 4) 3 0 + 1)
    (hrange : o.d.toNat + 2 * o.b.code ≤ s.myGang.ntile) (ha : (s.sA o).toNat % 32 = 0) (hr : s.RecordIs 0 (s.sA o) 32 r)
    (hb : (s.recordRead 0 (s.sA o) 32).RecordIs 0 (s.sA o + 32) (32 * n) b)
    (hc : s.chainOk o.d.toNat o.b.code r (pieces 32 n b)) :
    exec (.tchain o) s = .next (((s.recordRead 0 (s.sA o) 32).recordRead 0 (s.sA o + 32) (32 * n)).trellisIssue
      (.tchain o.d.toNat o.b.code (fieldAt r 2 2 + 1) (bitsOf (fieldAt r 0 4) 6 4 + 1) ((pieces 32 n b).map parseStep)) []
      ((List.range (2 * o.b.code)).map (· + o.d.toNat))) := by
  have hframe := WriteFrame.recordRead s 0 (s.sA o) 32
  have hframes := hframe.trans (WriteFrame.recordRead _ 0 (s.sA o + 32) (32 * n))
  have hsA : (s.recordRead 0 (s.sA o) 32).sA o = s.sA o := by rw [State.sA, hframe.rd]; rfl
  obtain ⟨htiles, hheader, hsteps, hbooks, hinput, hsizes⟩ := hc
  have htiles' : ((List.range (2 * o.b.code)).map (· + o.d.toNat)).find?
      (fun k => tcFormat (s.tcSeen k) != 1 || tcScale (s.tcSeen k) != 0) = none := by
    refine List.find?_eq_none.mpr fun k hk => ?_
    obtain ⟨i, hi, rfl⟩ := List.mem_map.mp hk
    have := List.mem_range.mp hi
    simp [htiles (i + o.d.toNat) (by omega) (by omega)]
  have hsteps' : (List.range n).find? (fun i => !chainStepOk (bitsOf (fieldAt r 0 4) 6 4 + 1) s.captureBds (pieces 32 n b) i) =
      none :=
    List.find?_eq_none.mpr fun i hi => by
      simp [hsteps i (by rw [length_pieces]; exact List.mem_range.mp hi)]
  have hbooks' : ((pieces 32 n b).map parseStep).find? (fun x => x.cfmt == 4 && tget 0 s.myGang.cbs x.cb == 0) = none :=
    List.find?_eq_none.mpr fun x hx => by simpa using hbooks x hx
  have hsizes' : (List.range n).find? (fun i => decide (s.chainCap o.d.toNat o.b.code ((i + 1) % 2) <
      stepSize (bitsOf (fieldAt r 0 4) 6 4 + 1) (fieldAt r 2 2 + 1) s.captureBds ((pieces 32 n b).map parseStep) i)) = none :=
    List.find?_eq_none.mpr fun i hi => by
      simpa using hsizes i (by rw [length_pieces]; exact List.mem_range.mp hi)
  subst hn
  show execTchain o s = _
  unfold execTchain
  unfold State.chainCap at hinput hsizes'
  simp only [State.uniC_of_active hm, State.drained_of_settled hs, if_neg (Nat.not_lt.mpr hrange),
    State.uniReadIn_of_record ha hr, hsA, State.uniRead_of_record hb, hframes.tcSeen, hframes.captureBds, hframes.myGang,
    htiles', hheader, hsteps', hbooks', if_neg (Nat.not_lt.mpr hinput), hsizes', Bool.not_true, Bool.false_eq_true, if_false]

end

/-! ### Every operation -/

theorem State.commandIn_setGang (b : State) (x g : Gang) (reads writes : List Nat) (c : TrellisCmd) :
    (b.setGang b.me.gang x).commandIn g reads writes c = b.commandIn g reads writes c := by
  show State.finC { b with
    uids := b.uids + 1, gangs := tset (tset b.gangs b.me.gang x) b.me.gang (g.enters reads writes c) } = _
  rw [tset_tset]
  rfl

/-- Bindings of codebooks change nothing that the table or a command without tiles hangs on. -/
theorem State.trellisIssue_bound {s b : State} (h : WriteFrame s b) {x : Gang} {cbs : Table Word}
    (hx : x = { s.myGang with cbs := cbs }) (op : TrellisOp)
    (hw : s.myGang.tileWait [] [] = none) (hr : (s.table s.myGang.cluster_).length < 64) :
    ∃ old, (b.setGang b.me.gang x).trellisIssue op [] [] = b.commandIn x [] [] (s.trellisCmd op [] x.cbs old) := by
  have hgang : (b.setGang b.me.gang x).myGang = x := tget_tset_same _ _ _ _
  have hmy : b.gang b.me.gang = s.myGang := h.myGang
  have hroom : ((b.setGang b.me.gang x).table x.cluster_).length < 64 := by
    have htable := b.table_setGang b.me.gang x.cluster_ (x := x) (by rw [hmy, hx]) (by rw [hmy, hx]; rfl) (by rw [hmy, hx])
    rw [htable, h.table, hx]
    exact hr
  have hcmd : (b.setGang b.me.gang x).trellisCmd op [] = s.trellisCmd op [] := by
    have hme : (b.setGang b.me.gang x).me = s.me := h.me
    have hissue : (b.setGang b.me.gang x).issue = s.issue := h.issue
    have huids : (b.setGang b.me.gang x).uids = s.uids := h.uids
    have hnum : x.trellisNum = s.myGang.trellisNum := by rw [hx]
    have hbd : x.bd = s.myGang.bd := by rw [hx]
    funext cbs old
    simp only [State.trellisCmd, State.captureBds, State.bdSeen, State.rd, hgang, hnum, hbd, hme, hissue, huids]
    rfl
  have hissue := State.trellisIssue_of_room (s := b.setGang b.me.gang x) (reads := []) (writes := []) op
    (by rw [hgang, hx]; exact hw) (by rw [hgang]; exact hroom)
  rw [hgang, List.append_nil, hcmd, State.commandIn_setGang] at hissue
  exact ⟨_, hissue⟩

/-- A command without a binding of its own enters from a state in which only records have been read. -/
theorem State.trellisIssue_read {s b : State} (h : WriteFrame s b) (op : TrellisOp) {reads writes : List Nat}
    (hw : s.myGang.tileWait reads writes = none) (hr : (s.table s.myGang.cluster_).length < 64) :
    ∃ old, b.trellisIssue op reads writes =
      b.commandIn s.myGang reads writes (s.trellisCmd op (reads ++ writes) s.myGang.cbs old) := by
  have hissue := State.trellisIssue_of_room (s := b) (reads := reads) (writes := writes) op (by rw [h.myGang]; exact hw)
    (by rw [h.myGang, h.table]; exact hr)
  rw [h.myGang, h.trellisCmd] at hissue
  exact ⟨_, hissue⟩

/-- The base of a rule differs from the state in what reading records and starting a codebook's fill change, its gang in the
bindings alone. -/
theorem State.trellisRule_base {s : State} {r b : List Byte} {i : Instr} {x : TrellisRule}
    (h : s.trellisRule r b i = some x) : WriteFrame s x.base ∧ ∃ cbs, x.gang = { s.myGang with cbs := cbs } := by
  unfold State.trellisRule at h
  dsimp only at h
  split at h <;> cases h
  case h_1 | h_2 => exact ⟨.recordRead _ _ _ _, _, rfl⟩
  case h_3 | h_4 | h_5 | h_6 | h_7 => exact ⟨.refl s, _, rfl⟩
  case h_8 => exact ⟨.refill s _, _, rfl⟩
  case h_9 o =>
    have hheader := WriteFrame.recordRead s 0 (s.sA o) 32
    exact ⟨hheader.trans (.recordRead (s.recordRead 0 (s.sA o) 32) 0 (s.sA o + 32) _), _, rfl⟩

/-- Every Trellis operation whose checks pass issues its command, CBLOAD after it has bound its codebook. -/
theorem exec_issues {s : State} {r b : List Byte} {i : Instr} {x : TrellisRule} (h : s.trellisRule r b i = some x)
    (hok : x.ok) (hm : s.effMask x.g ≠ 0) (hs : s.Settled) (hr : (s.table s.myGang.cluster_).length < 64) :
    (exec i s = .next (x.base.trellisIssue x.op x.reads x.writes) ∧ x.gang = s.myGang) ∨
      (exec i s = .next ((x.base.setGang x.base.me.gang x.gang).trellisIssue x.op [] []) ∧ x.reads = [] ∧ x.writes = [] ∧
        ∃ cbs, x.gang = { s.myGang with cbs := cbs }) := by
  unfold State.trellisRule at h
  dsimp only at h
  split at h <;> cases h
  case h_1 o =>
    obtain ⟨ha, hrec, hf, htr, hal⟩ := hok
    exact .inl ⟨congrArg _ (State.transfer_of_checks hm hs ha hrec hf htr hal false), rfl⟩
  case h_2 o =>
    obtain ⟨ha, hrec, hf, htr, hal⟩ := hok
    exact .inl ⟨congrArg _ (State.transfer_of_checks hm hs ha hrec hf htr hal true), rfl⟩
  case h_3 o => exact .inl ⟨exec_tzero hm hs hok, rfl⟩
  case h_4 o | h_5 o | h_6 o =>
    obtain ⟨hd, ha, hb, hf, hacc, hshape, hbook⟩ := hok
    exact .inl ⟨congrArg _ (State.product_of_checks hm hs hd ha hb hf hacc hshape hbook), rfl⟩
  case h_7 o =>
    obtain ⟨hd, ha, hconv, hrows, hcols⟩ := hok
    exact .inl ⟨exec_tcvt hm hs hd ha hconv hrows hcols, rfl⟩
  case h_8 o =>
    obtain ⟨hn, hva⟩ := hok
    have hgang : (s.refill (s.sA o)).gang (s.refill (s.sA o)).me.gang = s.myGang := (WriteFrame.refill s (s.sA o)).myGang
    have hexec := exec_cbload hm hs hn hr hva
    rw [State.modMyGang, State.modGang, hgang] at hexec
    exact .inr ⟨hexec, rfl, rfl, _, rfl⟩
  case h_9 o =>
    obtain ⟨hrange, ha, hrec, hbody, hchain⟩ := hok
    exact .inl ⟨exec_tchain hm hs rfl hrange ha hrec hbody hchain, rfl⟩

/-- Every Trellis operation whose checks pass enters its command while its tiles are idle and the table has room. -/
theorem exec_of_trellisRule {s : State} {r b : List Byte} {i : Instr} {x : TrellisRule} (h : s.trellisRule r b i = some x)
    (hok : x.ok) (hm : s.effMask x.g ≠ 0) (hs : s.Settled) (hw : s.myGang.tileWait x.reads x.writes = none)
    (hr : (s.table s.myGang.cluster_).length < 64) :
    ∃ old, exec i s = .next
      (x.base.commandIn x.gang x.reads x.writes (s.trellisCmd x.op (x.reads ++ x.writes) x.gang.cbs old)) := by
  obtain ⟨hframe, -⟩ := State.trellisRule_base h
  obtain ⟨hexec, hgang⟩ | ⟨hexec, hreads, hwrites, cbs, hgang⟩ := exec_issues h hok hm hs hr
  · obtain ⟨old, hissue⟩ := State.trellisIssue_read hframe x.op hw hr
    rw [hexec, hissue, hgang]
    exact ⟨old, rfl⟩
  · rw [hreads, hwrites] at hw ⊢
    obtain ⟨old, hissue⟩ := State.trellisIssue_bound hframe hgang x.op hw hr
    rw [hexec, hissue]
    exact ⟨old, rfl⟩

end Sys2Proof.Machine

open Sys2Proof Sys2Proof.Machine

/-- Settles O23: each operation's checks lead to the one way a command enters the table, `State.commandIn`. -/
theorem trellisCommandsEnter : Obligations.TrellisCommandsEnter := by
  unfold Obligations.TrellisCommandsEnter
  intro i s r b x h hok hm hs hw hr
  obtain ⟨hframe, cbs, hgang⟩ := State.trellisRule_base h
  obtain ⟨old, hexec⟩ := exec_of_trellisRule h hok hm hs hw hr
  obtain ⟨only, uids, me, gang⟩ := State.commandIn_spec hframe (g := x.gang) (by rw [hgang]) x.reads x.writes
    (s.trellisCmd x.op (x.reads ++ x.writes) x.gang.cbs old)
  refine ⟨_, old, hexec, only, uids, me, gang.trans ?_⟩
  rw [Gang.enters, show x.gang.trellisNum = s.myGang.trellisNum by rw [hgang],
    show x.gang.trellis = s.myGang.trellis by rw [hgang]]
  rfl
end

section
/-!
The bytes of tiles (12 R268, R270): elements written one after another, and what they read as.
-/

namespace Sys2Proof.Machine

/-! ### Runs of bytes -/

theorem Memory.readBytes_congr {m k : Memory} {a n : Nat} (h : ∀ i, i < n → Memory.read m (a + i) = Memory.read k (a + i)) :
    Memory.readBytes m a n = Memory.readBytes k a n := by
  induction n generalizing a with
  | zero => rfl
  | succ n ih =>
    have hrest : Memory.readBytes m (a + 1) n = Memory.readBytes k (a + 1) n :=
      ih fun i hi => by simpa only [Nat.add_assoc, Nat.add_comm 1 i] using h (i + 1) (by omega)
    have hfirst : Memory.read m a = Memory.read k a := h 0 (by omega)
    rw [Memory.readBytes, Memory.readBytes, hfirst, hrest]

/-- Bytes written are read back. -/
theorem Memory.readBytes_writeBytes (m : Memory) (a : Nat) (l : List Byte) (h : Memory.wf m = true) :
    Memory.readBytes (Memory.writeBytes m a l) a l.length = l := by
  induction l generalizing m a with
  | nil => rfl
  | cons b r ih =>
    have hw := Memory.wf_write m a b h
    have hb : Memory.read (Memory.writeBytes m a (b :: r)) a = b :=
      (Memory.read_writeBytes_out _ (a + 1) a r hw (.inl (Nat.lt_succ_self a))).trans (Memory.read_write_same m a b h)
    rw [List.length_cons, Memory.readBytes, hb]
    exact congrArg _ (ih _ _ hw)

theorem Memory.writeBytes_append (m : Memory) (a : Nat) (l r : List Byte) :
    Memory.writeBytes m a (l ++ r) = Memory.writeBytes (Memory.writeBytes m a l) (a + l.length) r := by
  induction l generalizing m a with
  | nil => rfl
  | cons b l ih =>
    rw [List.cons_append, Memory.writeBytes, ih, List.length_cons, Nat.add_comm l.length, ← Nat.add_assoc]
    rfl

@[simp] theorem length_natBytes (x n : Nat) : (natBytes x n).length = n := by
  induction n generalizing x with
  | zero => rfl
  | succ n ih => rw [natBytes, List.length_cons, ih]

theorem bytesNat_natBytes (x n : Nat) : bytesNat (natBytes x n) = x % 2 ^ (8 * n) := by
  induction n generalizing x with
  | zero => simp [natBytes, bytesNat, Nat.mod_one]
  | succ n ih =>
    have hp : 2 ^ (8 * (n + 1)) = 256 * 2 ^ (8 * n) := by rw [Nat.mul_succ, Nat.pow_add, Nat.mul_comm]
    rw [natBytes, bytesNat, ih, hp, Nat.mod_mul, BitVec.toNat_ofNat]

theorem bytesNat_readBytes_zero {m : Memory} {a n : Nat} (h : ∀ i, i < n → Memory.read m (a + i) = 0) :
    bytesNat (Memory.readBytes m a n) = 0 := by
  induction n generalizing a with
  | zero => rfl
  | succ n ih =>
    have hrest : bytesNat (Memory.readBytes m (a + 1) n) = 0 :=
      ih fun i hi => by simpa only [Nat.add_assoc, Nat.add_comm 1 i] using h (i + 1) (by omega)
    rw [Memory.readBytes, bytesNat, hrest, show Memory.read m a = 0 from h 0 (by omega)]
    rfl

/-! ### Elements written one after another -/

/-- A memory of elements of n bytes with those of a list written, element e with the low bytes of f e. -/
def Memory.putElems (n : Nat) (f : Nat → Nat) (l : List Nat) (m : Memory) : Memory :=
  l.foldl (fun m e => Memory.writeBytes m (e * n) (natBytes (f e) n)) m

section
variable {n : Nat} (hn : 0 < n) (f : Nat → Nat) (l : List Nat) {m : Memory} (h : Memory.wf m = true)
include hn

/-- The elements as a list of addresses. -/
theorem Memory.putElems_eq (m : Memory) : Memory.putElems n f l m =
    (l.map (· * n)).foldl (fun m a => Memory.writeBytes m a (natBytes (f (a / n)) n)) m := by
  simp only [Memory.putElems, List.foldl_map, Nat.mul_div_cancel _ hn]

include h

theorem Memory.wf_putElems : Memory.wf (Memory.putElems n f l m) = true := by
  rw [Memory.putElems_eq hn]
  exact wf_foldl_lines _ _ _ h

/-- A byte of no element written stays. -/
theorem Memory.read_putElems_out {a : Nat} (ha : ∀ e ∈ l, a < e * n ∨ (e + 1) * n ≤ a) :
    Memory.read (Memory.putElems n f l m) a = Memory.read m a := by
  rw [Memory.putElems_eq hn]
  refine read_foldl_lines _ _ _ _ h fun x hx => ?_
  obtain ⟨e, he, rfl⟩ := List.mem_map.mp hx
  simpa only [length_natBytes, Nat.succ_mul] using ha e he

/-- An element written reads as its value. -/
theorem Memory.readBytes_putElems {e : Nat} (he : e ∈ l) :
    Memory.readBytes (Memory.putElems n f l m) (e * n) n = natBytes (f e) n := by
  induction l generalizing m with
  | nil => exact absurd he List.not_mem_nil
  | cons x r ih =>
    have hw := Memory.wf_writeBytes m (x * n) (natBytes (f x) n) h
    by_cases hr : e ∈ r
    · exact ih hw hr
    · obtain rfl : e = x := (List.mem_cons.mp he).resolve_right hr
      have hrest : Memory.readBytes (Memory.putElems n f r (Memory.writeBytes m (e * n) (natBytes (f e) n))) (e * n) n =
          Memory.readBytes (Memory.writeBytes m (e * n) (natBytes (f e) n)) (e * n) n := by
        refine Memory.readBytes_congr fun i hi => Memory.read_putElems_out hn f r hw fun y hy => ?_
        have hne : y ≠ e := fun hye => hr (hye ▸ hy)
        obtain hlt | hgt := Nat.lt_or_gt_of_ne hne
        · have := Nat.mul_le_mul_right n (show y + 1 ≤ e from hlt)
          omega
        · have := Nat.mul_le_mul_right n (show e + 1 ≤ y from hgt)
          rw [Nat.succ_mul] at this
          omega
      have hwritten := Memory.readBytes_writeBytes m (e * n) (natBytes (f e) n) h
      rw [length_natBytes] at hwritten
      exact hrest.trans hwritten

end

theorem tcElem_pos (w : Word) : 0 < tcElem w := by
  unfold tcElem
  split
  · decide
  · split <;> decide

/-- Elements from element c on, one for each lane of a list, but for those past the last. -/
theorem putElems_lanes (ls : List Nat) (c cells n : Nat) (f : Nat → Nat) (m : Memory) :
    ls.foldl (fun b l => if c + l < cells then Memory.writeBytes b ((c + l) * n) (natBytes (f l) n) else b) m =
      Memory.putElems n (fun e => f (e - c)) ((ls.map (c + ·)).filter (· < cells)) m := by
  unfold Memory.putElems
  rw [List.foldl_filter, List.foldl_map]
  simp only [decide_eq_true_eq, Nat.add_sub_cancel_left]

end Sys2Proof.Machine
end

section
/-!
Tiles as teams reach them: TTOV, VTOT and MOVTC (12 R268-R270, R280, 08 R195).
-/

namespace Sys2Proof.Machine

theorem State.tilesIdle_of_idle {s : State} {reads writes : List Nat} (h : s.myGang.tileWait reads writes = none) (k : State) :
    s.tilesIdle reads writes k = k := by
  rw [State.tilesIdle, h]

/-- The row that TTOV or VTOT names lies in the tile. -/
theorem State.rowOp_of_checks {s : State} {o : A3} {n : Nat} (hf : tcFormat (s.tcSeen n) ≠ 0)
    (hr : (sB s.rd false o.b).toNat < tcRows (s.tcSeen n)) (m : LaneMask) (k : Word → Nat → State) :
    s.rowOp o n m k = k (s.tcSeen n) (sB s.rd false o.b).toNat := by
  simp only [State.rowOp, if_neg hf, if_neg (Nat.not_le.mpr hr)]

/-- What lane l of TTOV gets: element l of tile n from row r on, and 0 past the tile's end. -/
def State.rowElem (s : State) (n r l : Nat) : Lane :=
  let w := s.tcSeen n
  if r * tcCols w + l < tcRows w * tcCols w then BitVec.ofNat 32 ((s.myGang.tile n).raw w (r * tcCols w + l)) else 0

/-- TTOV of elements without poison. -/
theorem exec_ttov {o : A3} {s : State} {w : Word} {r : Nat} (hw : w = s.tcSeen o.a.toNat) (hrow : r = (sB s.rd false o.b).toNat)
    (hm : s.effMask o.g ≠ 0) (hf : tcFormat w ≠ 0) (hr : r < tcRows w) (hidle : s.myGang.tileWait [o.a.toNat] [] = none)
    (hbad : ∀ l ∈ s.active (s.effMask o.g), r * tcCols w + l < tcRows w * tcCols w →
      badLine (s.myGang.tile o.a.toNat).bad ((r * tcCols w + l) * tcElem w) (tcElem w) = none) :
    exec (.ttov o) s = .next (s.putV o.d (s.effMask o.g) (s.rowElem o.a.toNat r)).fin := by
  subst hw hrow
  have hclean : (s.active (s.effMask o.g)).findSome? (fun l =>
      if (sB s.rd false o.b).toNat * tcCols (s.tcSeen o.a.toNat) + l < tcRows (s.tcSeen o.a.toNat) * tcCols (s.tcSeen o.a.toNat)
      then badLine (s.myGang.tile o.a.toNat).bad
        (((sB s.rd false o.b).toNat * tcCols (s.tcSeen o.a.toNat) + l) * tcElem (s.tcSeen o.a.toNat)) (tcElem (s.tcSeen o.a.toNat))
      else none) = none := by
    refine List.findSome?_eq_none_iff.mpr fun l hl => ?_
    split
    · exact hbad l hl ‹_›
    · rfl
  show execTtov o s = _
  unfold execTtov
  simp only [State.uni_of_active hm, State.rowOp_of_checks hf hr, State.tilesIdle_of_idle hidle, hclean]
  rfl

/-- Byte b of tile n belongs to an element that VTOT writes from row r on. -/
def State.rowWrites (s : State) (o : A3) (n r b : Nat) : Bool :=
  let w := s.tcSeen n
  let e := b / tcElem w
  decide (e < tcRows w * tcCols w ∧ r * tcCols w ≤ e) && decide (e - r * tcCols w < 1024) &&
    (s.effMask o.g).getLsbD (e - r * tcCols w)

/-- Tile n with the elements of the lanes of a mask written from row r on. -/
def State.rowPut (s : State) (o : A3) (n r : Nat) (t : Tile) : Tile :=
  let w := s.tcSeen n
  let c := r * tcCols w
  { t with
    bytes := Memory.putElems (tcElem w) (fun e => (s.vsrc o.a (e - c)).toNat)
      (((s.active (s.effMask o.g)).map (c + ·)).filter (· < tcRows w * tcCols w)) t.bytes
    bad := mendedBy t.bad (s.rowWrites o n r) }

theorem exec_vtot {o : A3} {s : State} (hm : s.effMask o.g ≠ 0) (hf : tcFormat (s.tcSeen o.d.toNat) ≠ 0)
    (hr : (sB s.rd false o.b).toNat < tcRows (s.tcSeen o.d.toNat)) (hidle : s.myGang.tileWait [] [o.d.toNat] = none) :
    exec (.vtot o) s = .next
      (s.modMyGang fun g => g.modTile o.d.toNat (s.rowPut o o.d.toNat (sB s.rd false o.b).toNat)).finC := by
  show execVtot o s = _
  unfold execVtot
  simp only [State.uniC_of_active hm, State.rowOp_of_checks hf hr, State.tilesIdle_of_idle hidle, putElems_lanes]
  rfl

theorem Gang.tile_modTile (g : Gang) (n : Nat) (f : Tile → Tile) : (g.modTile n f).tile n = f (g.tile n) :=
  tget_tset_same _ _ _ _

theorem mendedBy_subset (bad : List Nat) (wrote : Nat → Bool) : ∀ x ∈ mendedBy bad wrote, x ∈ bad :=
  fun _ h => (List.mem_filter.mp h).1

theorem State.rowPut_bad (s : State) (o : A3) (n r : Nat) (t : Tile) : ∀ x ∈ (s.rowPut o n r t).bad, x ∈ t.bad :=
  mendedBy_subset t.bad (s.rowWrites o n r)

section
variable (s : State) (o : A3) (n r : Nat) {t : Tile} (hwf : Memory.wf t.bytes = true)
include hwf

/-- An active lane's element reads as the lane's value. -/
theorem State.readBytes_rowPut {l : Nat} (hl : l ∈ s.active (s.effMask o.g))
    (hin : r * tcCols (s.tcSeen n) + l < tcRows (s.tcSeen n) * tcCols (s.tcSeen n)) :
    Memory.readBytes (s.rowPut o n r t).bytes ((r * tcCols (s.tcSeen n) + l) * tcElem (s.tcSeen n)) (tcElem (s.tcSeen n)) =
      natBytes (s.vsrc o.a l).toNat (tcElem (s.tcSeen n)) := by
  have hmem : r * tcCols (s.tcSeen n) + l ∈
      ((s.active (s.effMask o.g)).map (r * tcCols (s.tcSeen n) + ·)).filter (· < tcRows (s.tcSeen n) * tcCols (s.tcSeen n)) :=
    List.mem_filter.mpr ⟨List.mem_map_of_mem hl, decide_eq_true hin⟩
  have hread := Memory.readBytes_putElems (tcElem_pos (s.tcSeen n))
    (fun e => (s.vsrc o.a (e - r * tcCols (s.tcSeen n))).toNat) _ hwf hmem
  rwa [Nat.add_sub_cancel_left] at hread

/-- A byte of no active lane's element stays. -/
theorem State.read_rowPut_out {a : Nat}
    (ha : ∀ l ∈ s.active (s.effMask o.g), r * tcCols (s.tcSeen n) + l < tcRows (s.tcSeen n) * tcCols (s.tcSeen n) →
      a < (r * tcCols (s.tcSeen n) + l) * tcElem (s.tcSeen n) ∨
        (r * tcCols (s.tcSeen n) + l + 1) * tcElem (s.tcSeen n) ≤ a) :
    Memory.read (s.rowPut o n r t).bytes a = Memory.read t.bytes a := by
  refine Memory.read_putElems_out (tcElem_pos _) _ _ hwf fun e he => ?_
  obtain ⟨hmap, hin⟩ := List.mem_filter.mp he
  obtain ⟨l, hl, rfl⟩ := List.mem_map.mp hmap
  exact ha l hl (of_decide_eq_true hin)

end

/-! ### MOVTC -/

/-- A gang whose tile n begins afresh under control value v. -/
def Gang.reallocate (g : Gang) (n : Nat) (v : Word) : Gang :=
  { g.modTile n fun t => { t with bytes := freshBytes v, bad := [] } with tc := tset g.tc n v }

/-- The executing team, whose bundle's slots go on seeing the value v of control register n. -/
def Team.seesTc (t : Team) (n : Nat) (v : Word) : Team :=
  { t with flight := t.flight.map fun f => { f with olds := { f.olds with tc := some (n, v) } } }

/-- No store of an earlier bundle has failed, so none is raised. -/
theorem State.raised_of_none {s : State} (h : s.me.storeFails = []) (m : LaneMask) (k : State) : s.raised m k = k := by
  rw [State.raised, Team.nextStoreFail, h]

theorem State.checkpointHere_of_committing {s : State} {f : Flight} (hf : s.me.flight = some f) (hc : f.committing = true) :
    s.checkpointHere = s := by
  simp only [State.checkpointHere, hf, hc, if_true]

section
variable {o : A3} {s : State} (hg : s.sGuard o.g = true) (hidle : s.myGang.tileWait [] [o.d.toNat] = none)
  (hok : tcOk (s.sA o) = true)
  (hfits : ((List.range s.myGang.ntile).map fun k => tcFootprint (if k = o.d.toNat then s.sA o else tget 0 s.myGang.tc k)).sum ≤
    s.myGang.tileKb * 65536)
include hg hidle hok hfits

theorem exec_movtc_same (hv : s.sA o = tget 0 s.myGang.tc o.d.toNat) : exec (.movtc o) s = .next s.fin := by
  show execMovtc o s = _
  unfold execMovtc
  simp only [State.sOp_of_guard _ hg, State.tilesIdle_of_idle hidle, hok, if_neg (Nat.not_lt.mpr hfits), if_pos hv,
    Bool.not_true, Bool.false_eq_true, if_false]

theorem exec_movtc_changed (hv : s.sA o ≠ tget 0 s.myGang.tc o.d.toNat) (hs : s.me.storeFails = []) {f : Flight}
    (hf : s.me.flight = some f) (hc : f.committing = true) :
    exec (.movtc o) s = .next ((s.modMyGang fun g => g.reallocate o.d.toNat (s.sA o)).setMe
      ((s.me.seesTc o.d.toNat (tget 0 s.myGang.tc o.d.toNat)).committed s.issue.slot)) := by
  show execMovtc o s = _
  unfold execMovtc
  simp only [State.sOp_of_guard _ hg, State.tilesIdle_of_idle hidle, hok, if_neg (Nat.not_lt.mpr hfits), if_neg hv,
    State.raised_of_none hs, State.checkpointHere_of_committing hf hc, Bool.not_true, Bool.false_eq_true, if_false]
  refine congrArg _ ?_
  show State.finC (State.modMyGang (s.setMe (s.me.seesTc o.d.toNat (tget 0 s.myGang.tc o.d.toNat))) _) = _
  rw [State.modMyGang_of_setMe s (x := s.me.seesTc o.d.toNat (tget 0 s.myGang.tc o.d.toNat)) rfl, finC_setMe]
  rfl

end

end Sys2Proof.Machine

open Sys2Proof Sys2Proof.Machine

/-- Settles O24: TTOV writes its register and VTOT the elements of its tile once their checks pass; MOVTC by whether the value
differs. -/
theorem tileRows : Obligations.TileRows := by
  unfold Obligations.TileRows
  refine ⟨fun o s hm => ⟨?_, ?_⟩, ?_⟩
  · intro w hf hr hidle hbad
    exact ⟨_, exec_ttov rfl rfl hm hf hr hidle hbad, s.putV_sets _ _ _⟩
  · intro w hf hr hidle hwf
    obtain ⟨only, me, gang⟩ := s.modMyGang_finC_only
      (f := fun g => g.modTile o.d.toNat (s.rowPut o o.d.toNat (sB s.rd false o.b).toNat)) rfl
    have tile := (congrArg (fun g => g.tile o.d.toNat) gang).trans (Gang.tile_modTile _ _ _)
    refine ⟨_, exec_vtot hm hf hr hidle, only, me, ?_, ?_, ?_, ?_, ?_⟩
    · rw [tile]
      exact gang
    · rw [tile]
      rfl
    · rw [tile]
      exact s.rowPut_bad _ _ _ _
    · rw [tile]
      exact fun l hl hin => s.readBytes_rowPut o _ _ hwf hl hin
    · rw [tile]
      exact fun a ha => s.read_rowPut_out o _ _ hwf ha
  · intro o s hg hs hidle hok hfits
    refine ⟨fun hv => ⟨_, exec_movtc_same hg hidle hok hfits hv, s.fin_noEffect⟩, fun hv f hf hc => ?_⟩
    obtain ⟨only, me, gang⟩ := s.modMyGang_setMe_only
      (x := (s.me.seesTc o.d.toNat (tget 0 s.myGang.tc o.d.toNat)).committed s.issue.slot)
      (f := fun g => g.reallocate o.d.toNat (s.sA o)) (Team.committed_gang _ _) rfl
    refine ⟨_, exec_movtc_changed hg hidle hok hfits hv hs hf hc, only, me.trans ?_, gang⟩
    rw [Team.seesTc, hf]
    rfl
end

section
/-!
The Trellis engine at work: grants, retirement and codebook fills (12 R271, R273-R275, R285).
-/

namespace Sys2Proof.Machine

/-! ### Work of an engine -/

theorem State.gang_modGang_same (s : State) (g : Nat) (f : Gang → Gang) : (s.modGang g f).gang g = f (s.gang g) :=
  tget_tset_same _ _ _ _

/-- An engine's work under the translations its command keeps. -/
theorem State.under_eq (s : State) (e : EngId) (m : Mapping) (k : State → State) : s.under e m k = (k (s.keeping e m)).letGo :=
  rfl

/-! ### Grants -/

/-- Of a command chosen so far and another, the one a side of the engine grants first. -/
def State.preferred (s : State) (b : Option (Nat × TrellisCmd)) (c : Nat × TrellisCmd) : Option (Nat × TrellisCmd) :=
  match b with
  | none => some c
  | some x =>
    if (s.gang x.1).prio < (s.gang c.1).prio ∨ ((s.gang x.1).prio = (s.gang c.1).prio ∧ c.2.order < x.2.order) then some c
    else some x

theorem State.nextGrant_eq (s : State) (cl : Nat) (array : Bool) : s.nextGrant cl array =
    ((s.table cl).filter fun c => c.2.op.onArray == array && !c.2.running && s.runs (s.gang c.1)).foldl s.preferred none := rfl

/-- Command y comes after command a: its gang's priority is lower, or the same and the command younger. -/
def State.after (s : State) (a y : Nat × TrellisCmd) : Prop :=
  (s.gang y.1).prio < (s.gang a.1).prio ∨ (s.gang y.1).prio = (s.gang a.1).prio ∧ a.2.order < y.2.order

theorem State.preferred_keeps {s : State} {a y : Nat × TrellisCmd} (h : y ≠ a → s.after a y) :
    s.preferred (some a) y = some a := by
  by_cases hy : y = a
  · rw [hy, State.preferred, ite_self]
  · have hafter := h hy
    unfold State.after at hafter
    exact if_neg (by omega)

theorem State.preferred_takes {s : State} {a y : Nat × TrellisCmd} (h : s.after a y) : s.preferred (some y) a = some a :=
  if_pos h

/-- A command that all others of a list come after is the one chosen, whatever was chosen of the others so far. -/
theorem State.foldl_preferred {s : State} {a : Nat × TrellisCmd} (l : List (Nat × TrellisCmd))
    (b : Option (Nat × TrellisCmd)) (hb : ∀ y ∈ b, y ≠ a → s.after a y) (hl : ∀ y ∈ l, y ≠ a → s.after a y)
    (ha : a ∈ l ∨ b = some a) : l.foldl s.preferred b = some a := by
  induction l generalizing b with
  | nil => exact ha.resolve_left List.not_mem_nil
  | cons x r ih =>
    obtain ⟨hx, hr⟩ := List.forall_mem_cons.mp hl
    rw [List.foldl_cons]
    by_cases hba : b = some a
    · rw [hba, State.preferred_keeps hx]
      exact ih _ (fun y hy hne => absurd (Option.mem_some.mp hy).symm hne) hr (.inr rfl)
    · by_cases hxa : x = a
      · have hstep : s.preferred b x = some a := by
          rw [hxa]
          cases b with
          | none => rfl
          | some y => exact State.preferred_takes (hb y rfl fun e => hba (congrArg some e))
        rw [hstep]
        exact ih _ (fun y hy hne => absurd (Option.mem_some.mp hy).symm hne) hr (.inr rfl)
      · refine ih _ (fun y hy hne => ?_) hr (.inl ((List.mem_cons.mp (ha.resolve_right hba)).resolve_left (Ne.symm hxa)))
        cases b with
        | none =>
          obtain rfl : x = y := Option.some.inj hy
          exact hx hne
        | some z =>
          unfold State.preferred at hy
          dsimp only at hy
          split at hy
          · obtain rfl : x = y := Option.some.inj hy
            exact hx hne
          · obtain rfl : z = y := Option.some.inj hy
            exact hb z rfl hne

/-- A free side grants the command that all others waiting for it come after. -/
theorem State.nextGrant_of_first {s : State} {cl : Nat} {array : Bool} {a : Nat × TrellisCmd} (ha : a ∈ s.table cl)
    (hside : a.2.op.onArray = array) (hfree : a.2.running = false) (hrun : (s.part (s.gang a.1).part).st = .running)
    (hfirst : ∀ y, y ∈ s.table cl ∧ y.2.op.onArray = array → (s.part (s.gang y.1).part).st = .running → y ≠ a →
      s.after a y) :
    s.nextGrant cl array = some a := by
  rw [State.nextGrant_eq]
  refine State.foldl_preferred _ _ (by simp) (fun y hy hne => ?_) (.inl ?_)
  · simp only [List.mem_filter, Bool.and_eq_true, beq_iff_eq, State.runs] at hy
    obtain ⟨hmem, ⟨hyside, -⟩, hyrun⟩ := hy
    exact hfirst y ⟨hmem, hyside⟩ hyrun hne
  · simp only [List.mem_filter, State.runs, hside, hfree, hrun, ha, beq_self_eq_true, Bool.not_false, Bool.and_self, and_self]

theorem State.inHand_of_free {s : State} {cl : Nat} {array : Bool}
    (h : ∀ y, y ∈ s.table cl ∧ y.2.op.onArray = array → y.2.running = false) : s.inHand cl array = none :=
  List.find?_eq_none.mpr fun y hy => by
    by_cases hside : y.2.op.onArray = array
    · simp [h y ⟨hy, hside⟩]
    · simp [hside]

/-- The work of a command that neither stalls nor waits is carried out. -/
theorem State.carryOn_done {s w : State} {cl g : Nat} {c : TrellisCmd} (hf : c.filled = false) (hs : s.stalls c = false)
    (hw : (s.keeping (.trellis c.num) c.old).trellisWork cl g c = .done w) :
    s.carryOn cl g c = (w.modCmd g c.num fun c => { c with filled := true }).letGo := by
  unfold State.carryOn
  simp only [hf, hs, Bool.false_and, Bool.or_self, Bool.false_eq_true, if_false, State.under_eq, hw]

/-- A free side grants and carries out the command that all others waiting for it come after. -/
theorem State.grant_of_first {s s1 w : State} {cl g : Nat} {array : Bool} {c : TrellisCmd}
    (hfree : ∀ y, y ∈ s.table cl ∧ y.2.op.onArray = array → y.2.running = false)
    (hc : (g, c) ∈ s.table cl ∧ c.op.onArray = array) (hrun : (s.part (s.gang g).part).st = .running)
    (hfirst : ∀ y, y ∈ s.table cl ∧ y.2.op.onArray = array → (s.part (s.gang y.1).part).st = .running → y ≠ (g, c) →
      s.after (g, c) y)
    (hfill : c.filled = false) (hs1 : (s.modCmd g c.num fun y => { y with running := true }) = s1)
    (hstall : s1.stalls { c with running := true } = false)
    (hwork : (s1.keeping (.trellis c.num) c.old).trellisWork cl g { c with running := true } = .done w) :
    s.grant cl array = (w.modCmd g c.num fun y => { y with filled := true }).letGo := by
  unfold State.grant
  simp only [State.inHand_of_free hfree, State.nextGrant_of_first hc.1 hc.2 (hfree _ hc) hrun hfirst, hs1]
  exact State.carryOn_done (c := { c with running := true }) hfill hstall hwork

theorem exec_grant (s : State) (cl : Nat) (array : Bool) :
    exec (if array then .trellisArrayGrant cl else .trellisPortGrant cl) s = .next (s.grant cl array) := by
  cases array <;> rfl

/-! ### Retirement -/

theorem find?_of_unique {α : Type} {p : α → Bool} {l : List α} {a : α} (ha : a ∈ l) (hp : p a = true)
    (h : ∀ y ∈ l, p y = true → y = a) : l.find? p = some a := by
  obtain ⟨y, hy⟩ := Option.isSome_iff_exists.mp (List.find?_isSome.mpr ⟨a, ha, hp⟩)
  rw [hy, h y (List.mem_of_find?_eq_some hy) (List.find?_some hy)]

theorem nodup_eraseDups (l : List Nat) : l.eraseDups.Nodup := by
  match l with
  | [] => exact List.nodup_nil
  | a :: r =>
    rw [List.eraseDups_cons, List.nodup_cons]
    refine ⟨fun h => ?_, nodup_eraseDups (r.filter fun b => !b == a)⟩
    have hne : (!a == a) = true := (List.mem_filter.mp (List.mem_eraseDups.mp h)).2
    rw [beq_self_eq_true, Bool.not_true] at hne
    exact Bool.false_ne_true hne
termination_by l.length
decreasing_by exact Nat.lt_succ_of_le (List.length_filter_le _ _)

/-- A tile of no list is as before. -/
theorem tget_modTiles_ne (f : Tile → Tile) {l : List Nat} (t : Table Tile) {n : Nat} (h : n ∉ l) :
    tget default (modTiles f l t) n = tget default t n := by
  induction l generalizing t with
  | nil => rfl
  | cons k r ih =>
    exact (ih _ (List.not_mem_of_not_mem_cons h)).trans (tget_tset_ne _ _ _ _ _ (List.ne_of_not_mem_cons h))

/-- A tile of a list without repetition has been changed once. -/
theorem tget_modTiles_mem (f : Tile → Tile) {l : List Nat} (t : Table Tile) {n : Nat} (h : n ∈ l) (hl : l.Nodup) :
    tget default (modTiles f l t) n = f (tget default t n) := by
  induction l generalizing t with
  | nil => exact absurd h List.not_mem_nil
  | cons k r ih =>
    obtain ⟨hk, hr⟩ := List.nodup_cons.mp hl
    obtain rfl | hmem := List.mem_cons.mp h
    · exact (tget_modTiles_ne f _ hk).trans (tget_tset_same _ _ _ _)
    · have hne : n ≠ k := fun e => hk (e ▸ hmem)
      exact (ih _ hmem hr).trans (congrArg f (tget_tset_ne _ _ _ _ _ hne))

/-- A tile of a list has what every change brings about. -/
theorem modTiles_forall (f : Tile → Tile) {P : Tile → Prop} (hP : ∀ x, P (f x)) {l : List Nat} (t : Table Tile) {n : Nat}
    (h : n ∈ l) : P (tget default (modTiles f l t) n) := by
  induction l generalizing t with
  | nil => exact absurd h List.not_mem_nil
  | cons k r ih =>
    by_cases hr : n ∈ r
    · exact ih _ hr
    · obtain rfl : n = k := (List.mem_cons.mp h).resolve_right hr
      have e : tget default (modTiles f (n :: r) t) n = f (tget default t n) :=
        (tget_modTiles_ne f _ hr).trans (tget_tset_same _ _ _ _)
      rw [e]
      exact hP _

section
variable (g : Gang) (reads writes : List Nat) {n : Nat}

theorem Gang.clearBusy_eq : g.clearBusy reads writes = { g with
    tiles := modTiles (fun t => { t with rb := t.rb - 1 }) (reads.filter fun n => !writes.contains n).eraseDups
      (modTiles (fun t => { t with wb := false }) writes g.tiles) } := by
  simp only [Gang.clearBusy, Gang.foldl_modTile]

theorem Gang.clearBusy_write (h : n ∈ writes) : ((g.clearBusy reads writes).tile n).wb = false := by
  have hread : n ∉ (reads.filter fun n => !writes.contains n).eraseDups := by simp [List.mem_eraseDups, h]
  rw [Gang.clearBusy_eq, Gang.tile, tget_modTiles_ne _ _ hread]
  exact modTiles_forall _ (P := fun t => t.wb = false) (fun _ => rfl) _ h

theorem Gang.clearBusy_read (h : n ∈ reads) (hw : n ∉ writes) :
    ((g.clearBusy reads writes).tile n).rb = (g.tile n).rb - 1 := by
  have hread : n ∈ (reads.filter fun n => !writes.contains n).eraseDups := by simp [List.mem_eraseDups, h, hw]
  rw [Gang.clearBusy_eq, Gang.tile, tget_modTiles_mem _ _ hread (nodup_eraseDups _), tget_modTiles_ne _ _ hw]
  rfl

theorem Gang.clearBusy_other (h : n ∉ reads) (hw : n ∉ writes) : (g.clearBusy reads writes).tile n = g.tile n := by
  have hread : n ∉ (reads.filter fun n => !writes.contains n).eraseDups := by simp [List.mem_eraseDups, h]
  rw [Gang.clearBusy_eq, Gang.tile, tget_modTiles_ne _ _ hread, tget_modTiles_ne _ _ hw]
  rfl

end

/-- The timeline stands below every command that has not completed. -/
theorem Gang.trellisReached_lt {g : Gang} {y : TrellisCmd} (h : y ∈ g.trellis) :
    g.trellisReached.toNat < y.num.toNat ∨ y.num = 0 := by
  have hmem : y.num.toNat ∈ g.trellis.map (·.num.toNat) := List.mem_map_of_mem h
  unfold Gang.trellisReached
  cases hl : g.trellis.map (·.num.toNat) with
  | nil => rw [hl] at hmem; exact absurd hmem List.not_mem_nil
  | cons n r =>
    rw [hl] at hmem
    have hle : r.foldl min n ≤ y.num.toNat := (List.min?_eq_some_iff.mp List.min?_cons').2 _ hmem
    have hlt := y.num.isLt
    by_cases h0 : y.num = 0
    · exact .inr h0
    · have hpos : 0 < y.num.toNat := Nat.pos_of_ne_zero fun e => h0 (BitVec.eq_of_toNat_eq e)
      refine .inl ?_
      show (BitVec.ofNat 64 (r.foldl min n - 1)).toNat < y.num.toNat
      rw [BitVec.toNat_ofNat, Nat.mod_eq_of_lt (by omega)]
      omega

theorem Gang.trellisReached_nil {g : Gang} (h : g.trellis = []) : g.trellisReached = g.trellisNum := by
  rw [Gang.trellisReached, h]
  rfl

/-- A gang without command c in the table, its tiles' busy bits clear. -/
def Gang.withoutCmd (g : Gang) (c : TrellisCmd) : Gang :=
  { g.clearBusy c.op.tiles.1 c.op.tiles.2 with trellis := g.trellis.filter fun x => x.num != c.num }

/-- A gang from whose table command c has gone, its timeline advanced. -/
def Gang.retires (g : Gang) (c : TrellisCmd) : Gang :=
  { g.withoutCmd c with trellisTl := (g.withoutCmd c).trellisReached }

theorem Gang.retires_eq (g : Gang) (c : TrellisCmd) : g.retires c = { g with
    trellis := (g.retires c).trellis, trellisTl := (g.retires c).trellisTl, tiles := (g.retires c).tiles } := by
  simp only [Gang.retires, Gang.withoutCmd, Gang.clearBusy_eq]

theorem Gang.retires_tile (g : Gang) (c : TrellisCmd) (n : Nat) :
    (g.retires c).tile n = (g.clearBusy c.op.tiles.1 c.op.tiles.2).tile n := rfl

theorem Gang.retires_trellisTl_nil {g : Gang} {c : TrellisCmd} (h : (g.retires c).trellis = []) :
    (g.retires c).trellisTl = g.trellisNum := by
  show (g.withoutCmd c).trellisReached = _
  rw [Gang.trellisReached_nil (g := g.withoutCmd c) h, Gang.withoutCmd, Gang.clearBusy_eq]

/-- A command whose work is over retires. -/
theorem exec_trellisCommandComplete {s : State} {g : Nat} {c : TrellisCmd} (hmem : c ∈ (s.gang g).trellis)
    (hfill : c.filled = true) (hmore : c.more = false) (huniq : ∀ y ∈ (s.gang g).trellis, y.num = c.num → y = c)
    (hfail : c.fail = none) (hstall : s.stalls c = false) :
    exec (.trellisCommandComplete g c.num.toNat) s =
      .next ((s.modGang g fun x => x.retires c).modTeam c.team fun t => t.engDone (.trellis c.num)) := by
  have hfind : (s.gang g).trellis.find? (fun y => y.num.toNat == c.num.toNat && y.filled && !y.more && !s.stalls y) = some c := by
    refine find?_of_unique hmem (by simp [hfill, hmore, hstall]) fun y hy hp => huniq y hy ?_
    simp only [Bool.and_eq_true, beq_iff_eq] at hp
    exact BitVec.eq_of_toNat_eq hp.1.1.1
  show execTrellisCommandComplete g c.num.toNat s = _
  unfold execTrellisCommandComplete
  simp only [hfind, hfail]
  rfl

/-! ### Codebooks -/

/-- Noting the reads of a range leaves every byte of memory. -/
theorem State.noteRange_sameMemory (s : State) (c : Ctx) (va : Word) (n : Nat) : s.SameMemory (s.noteRange c va n) := by
  obtain ⟨whole, -, tiles⟩ := noteRange_only s c va n
  refine ⟨fun pa => ?_, fun g a => ?_, fun p k off => ?_⟩
  · rw [State.byte, whole]
    rfl
  · rw [State.gangByte, State.gang, whole]
    rfl
  · rw [State.tileByte, tiles]
    rfl

/-- The machine once an engine of a cluster has read a codebook for team u, the SRAM of that cluster as given. -/
def State.bookRead (v : State) (cl u : Nat) (sram : List (Nat × List Byte)) : State :=
  (({ v with ms := { v.ms with lookup := tset v.ms.lookup cl sram } } : State).modTeam u fun t => t.engDone (.book cl)).letGo

theorem State.bookRead_eq {s v : State} (hms : v.ms = s.ms) (hteams : v.teams = s.teams) (cl u : Nat)
    (sram : List (Nat × List Byte)) : v.bookRead cl u sram = { v.letGo with
      ms := { s.ms with lookup := tset s.ms.lookup cl sram }
      teams := tset s.teams u ((s.team u).engDone (.book cl)) } := by
  simp only [State.team, ← hms, ← hteams]
  rfl

/-- The first command of a cluster's table, granted, waits for its first codebook, which is read. -/
theorem exec_codebookFill {s v : State} {cl g k : Nat} {c : TrellisCmd} {r : List (Nat × TrellisCmd)} {va : Word} {l : List Word}
    {b : List Byte} (ht : s.table cl = (g, c) :: r) (hrun : c.running = true) (hfill : c.filled = false)
    (hbooks : c.books = va :: l) (hwants : s.wants cl c va = some k)
    (hget : (s.keeping (.book cl) c.old).engGet (s.teamCtx c.team) .load va 2048 = .ok b)
    (hv : (s.keeping (.book cl) c.old).noteRange (s.teamCtx c.team) va 2048 = v) (hms : v.ms = s.ms) :
    exec (.codebookFill cl) s =
      .next (v.bookRead cl c.team (addBook (s.booksInUse cl) k b (tget [] s.ms.lookup cl))) := by
  have hctx : (s.keeping (.book cl) c.old).teamCtx c.team = s.teamCtx c.team := rfl
  show execCodebookFill cl s = _
  unfold execCodebookFill State.bookRead
  simp only [ht, List.findSome?_cons, hrun, hfill, hbooks, hwants, Bool.not_false, Bool.true_or, Bool.and_self, if_true,
    Option.map_some, State.under_eq, hctx, hget, hv, State.engResolve, hms]
  rfl

/-- A codebook read into the SRAM changes the SRAM, the team whose command asked for it, and what noting the read changes. -/
theorem codebookFill_spec {s v : State} {cl g k : Nat} {c : TrellisCmd} {r : List (Nat × TrellisCmd)} {va : Word}
    {l : List Word} {b : List Byte} (ht : s.table cl = (g, c) :: r) (hrun : c.running = true) (hfill : c.filled = false)
    (hbooks : c.books = va :: l) (hwants : s.wants cl c va = some k)
    (hget : (s.keeping (.book cl) c.old).engGet (s.teamCtx c.team) .load va 2048 = .ok b)
    (hv : (s.keeping (.book cl) c.old).noteRange (s.teamCtx c.team) va 2048 = v) :
    ∃ t, exec (.codebookFill cl) s = .next t ∧ s.SameMemory t ∧
      t = { v.letGo with
        ms := { s.ms with lookup := tset s.ms.lookup cl (addBook (s.booksInUse cl) k b (tget [] s.ms.lookup cl)) }
        teams := tset s.teams c.team ((s.team c.team).engDone (.book cl)) } := by
  have hsame := (s.keeping (.book cl) c.old).noteRange_sameMemory (s.teamCtx c.team) va 2048
  have whole := (noteRange_only (s.keeping (.book cl) c.old) (s.teamCtx c.team) va 2048).1
  rw [hv] at hsame whole
  have hms : v.ms = s.ms := by rw [whole]; rfl
  have hteams : v.teams = s.teams := by rw [whole]; rfl
  exact ⟨_, exec_codebookFill ht hrun hfill hbooks hwants hget hv hms, ⟨hsame.phys, hsame.gang, hsame.tile⟩,
    State.bookRead_eq hms hteams _ _ _⟩

end Sys2Proof.Machine
end

section
/-!
What the engine's commands write into tiles: TZERO, TMMA, TMMAQ and TCVT (12 R279, R281, R283).
-/

namespace Sys2Proof.Machine

/-! ### Elements in row-major order -/

/-- Loops whose bodies agree on a list's members agree. -/
theorem foldl_congr_mem {α β : Type} {f g : β → α → β} {l : List α} (b : β) (h : ∀ b, ∀ a ∈ l, f b a = g b a) :
    l.foldl f b = l.foldl g b := by
  induction l generalizing b with
  | nil => rfl
  | cons a r ih =>
    rw [List.foldl_cons, List.foldl_cons, h b a List.mem_cons_self]
    exact ih _ fun c x hx => h c x (List.mem_cons_of_mem _ hx)

/-- A loop over the rows and columns of a tile as one over its elements. -/
theorem foldl_rows {β : Type} (f : β → Nat → β) (g : β → Nat → Nat → β) (rows cols : Nat) (b : β)
    (h : ∀ b i j, j < cols → g b i j = f b (i * cols + j)) :
    (List.range rows).foldl (fun b i => (List.range cols).foldl (fun b j => g b i j) b) b =
      (List.range (rows * cols)).foldl f b := by
  induction rows with
  | zero => rw [Nat.zero_mul]; rfl
  | succ r ih =>
    rw [List.range_succ, List.foldl_append, ih, Nat.succ_mul, List.range_add, List.foldl_append, List.foldl_map]
    exact foldl_congr_mem _ fun b j hj => h b r j (List.mem_range.mp hj)

theorem div_of_row {cols i j : Nat} (h : j < cols) : (i * cols + j) / cols = i := by
  rw [Nat.mul_comm, Nat.mul_add_div (Nat.zero_lt_of_lt h), Nat.div_eq_of_lt h, Nat.add_zero]

theorem length_flatMap_natBytes (f : Nat → Nat) (n k : Nat) :
    ((List.range k).flatMap fun j => natBytes (f j) n).length = k * n := by
  induction k with
  | zero => rw [Nat.zero_mul]; rfl
  | succ k ih =>
    rw [List.range_succ, List.flatMap_append, List.length_append, ih, List.flatMap_singleton, length_natBytes, Nat.succ_mul]

/-- Rows of elements of n bytes are elements written one after another. -/
theorem writeBytes_flatMap (m : Memory) (a n cols : Nat) (f : Nat → Nat) :
    Memory.writeBytes m a ((List.range cols).flatMap fun j => natBytes (f j) n) =
      (List.range cols).foldl (fun m j => Memory.writeBytes m (a + j * n) (natBytes (f j) n)) m := by
  induction cols with
  | zero => rfl
  | succ c ih =>
    rw [List.range_succ, List.flatMap_append, Memory.writeBytes_append, length_flatMap_natBytes, ih, List.foldl_append,
      List.flatMap_singleton]
    rfl

/-- An element of a tile that a command wrote, as its raw bits. -/
theorem raw_putElems {t : Tile} {w : Word} {f : Nat → Nat} {l : List Nat} {m : Memory} (hm : Memory.wf m = true)
    (ht : t.bytes = Memory.putElems (tcElem w) f l m) {e : Nat} (he : e ∈ l) : t.raw w e = f e % 2 ^ (8 * tcElem w) := by
  rw [Tile.raw, ht, Memory.readBytes_putElems (tcElem_pos w) f l hm he, bytesNat_natBytes]

/-! ### Results -/

/-- The bytes of a fresh tile are 0 but for row scales past its data (12 R270). -/
theorem read_freshBytes (w : Word) {a : Nat} (ha : a < tcData w) : Memory.read (freshBytes w) a = 0 := by
  unfold freshBytes
  split
  · have hat : (List.range (tcRows w)).foldl (fun m r => Memory.writeBytes m (scaleAt w r) [0x80, 0x3F]) [] =
        ((List.range (tcRows w)).map (scaleAt w)).foldl (fun m x => Memory.writeBytes m x [0x80, 0x3F]) [] := by
      rw [List.foldl_map]
    rw [hat, read_foldl_lines (fun _ => [0x80, 0x3F]) _ _ _ Memory.wf_nil fun x hx => ?_]
    · rfl
    · obtain ⟨r, -, rfl⟩ := List.mem_map.mp hx
      exact .inl (Nat.lt_of_lt_of_le ha (Nat.le_add_right _ _))
  · rfl

theorem raw_freshBytes {t : Tile} {w : Word} (ht : t.bytes = freshBytes w) {e : Nat} (he : e < tcRows w * tcCols w) :
    t.raw w e = 0 := by
  rw [Tile.raw, ht]
  refine bytesNat_readBytes_zero fun i hi => read_freshBytes w ?_
  have hrow : (e + 1) * tcElem w ≤ tcRows w * tcCols w * tcElem w := Nat.mul_le_mul_right _ he
  rw [Nat.succ_mul] at hrow
  unfold tcData
  omega

/-- Element e of a product (12 R281). -/
def productElem (wd wa wb : Word) (td ta tb : Tile) (e : Nat) : Nat :=
  dot (if tcFormat wd = 1 then f32 else bf16) (td.raw wd e) ((List.range (tcCols wa)).map fun k =>
    (ta.value wa (e / tcCols wd) k).mul (tb.value wb (e % tcCols wd) k))

theorem productTile_eq {kind : Nat} (hk : kind ≠ 2) (wd wa wb : Word) (td ta tb : Tile) (bk : List Byte) :
    productTile kind wd wa wb td ta tb bk = Memory.putElems (tcElem wd) (productElem wd wa wb td ta tb)
      (List.range (tcRows wd * tcCols wd)) td.bytes := by
  unfold productTile Memory.putElems
  refine foldl_rows _ _ _ _ _ fun m i j hj => ?_
  simp only [productElem, div_of_row hj, Nat.mul_add_mod_of_lt hj, if_neg hk]

/-- Element e of a conversion into FP32 or BF16 (12 R283). -/
def convertElem (fmt : BitVec 32) (wa wd : Word) (a : Tile) (e : Nat) : Nat :=
  (a.value wa (e / tcCols wd) (e % tcCols wd)).round (if tcFormat wd = 1 then f32 else bf16) (fmtRm fmt) (fmtSat fmt)

theorem convertRow_eq (fmt : BitVec 32) {wa wd : Word} (hs : tcScale wd = 0) (hf : tcFormat wd = 1 ∨ tcFormat wd = 2) (t : Tile)
    (S : FVal) (r : Nat) : convertRow fmt wa wd t S r =
      ((List.range (tcCols wd)).flatMap fun j => natBytes ((t.value wa r j).round (if tcFormat wd = 1 then f32 else bf16)
        (fmtRm fmt) (fmtSat fmt)) (tcElem wd), []) := by
  unfold convertRow tcElem
  rw [hs]
  rcases hf with h | h <;> simp [h, List.flatMap_map]

theorem convertTile_eq (fmt : BitVec 32) {wa wd : Word} (hs : tcScale wd = 0) (hf : tcFormat wd = 1 ∨ tcFormat wd = 2)
    (a d : Tile) : convertTile fmt wa wd a d =
      Memory.putElems (tcElem wd) (convertElem fmt wa wd a) (List.range (tcRows wd * tcCols wd)) d.bytes := by
  unfold convertTile Memory.putElems
  simp only [convertRow_eq fmt hs hf, writeBytes_flatMap]
  refine foldl_rows _ (fun m i j => Memory.writeBytes m (i * tcCols wd * tcElem wd + j * tcElem wd)
    (natBytes ((a.value wa i j).round (if tcFormat wd = 1 then f32 else bf16) (fmtRm fmt) (fmtSat fmt)) (tcElem wd)))
    _ _ _ fun m i j hj => ?_
  simp only [convertElem, div_of_row hj, Nat.mul_add_mod_of_lt hj, ← Nat.add_mul]

/-! ### Work that writes one tile -/

/-- The work of a granted command is done, and writes tile d of gang g alone, whose elements become those of f. -/
def State.WorkWrites (s : State) (cl g : Nat) (c : TrellisCmd) (d : Nat) (f : Nat → Nat) : Prop :=
  ∃ w, s.trellisWork cl g c = .done w ∧ w = { s with gangs := tset s.gangs g (w.gang g) } ∧
    w.gang g = { s.gang g with tiles := tset (s.gang g).tiles d ((w.gang g).tile d) } ∧
    (w.gang g).tile d = { (s.gang g).tile d with bytes := ((w.gang g).tile d).bytes, bad := ((w.gang g).tile d).bad } ∧
    ∀ e, e < tcRows (c.tc d) * tcCols (c.tc d) → ((w.gang g).tile d).raw (c.tc d) e = f e % 2 ^ (8 * tcElem (c.tc d))

section
variable {s : State} {cl g : Nat} {c : TrellisCmd} (hclean : (s.gang g).badTile c.readsNow = none)
include hclean

theorem State.trellisWork_of_clean : s.trellisWork cl g c = s.trellisRun cl g c := by
  rw [State.trellisWork, hclean]

theorem State.workWrites_of_putTile {d : Nat} (b : Memory) {f : Nat → Nat}
    (hrun : s.trellisRun cl g c = .done (s.putTile g d 0 wholeTile b))
    (hraw : ∀ (t : Tile) e, t.bytes = b → e < tcRows (c.tc d) * tcCols (c.tc d) →
      t.raw (c.tc d) e = f e % 2 ^ (8 * tcElem (c.tc d))) : s.WorkWrites cl g c d f := by
  have hgang : (s.putTile g d 0 wholeTile b).gang g = (s.gang g).modTile d fun t =>
      { t with bytes := b, bad := mended t.bad 0 wholeTile } := State.gang_modGang_same _ _ _
  have htile : ((s.putTile g d 0 wholeTile b).gang g).tile d =
      { (s.gang g).tile d with bytes := b, bad := mended ((s.gang g).tile d).bad 0 wholeTile } := by
    rw [hgang, Gang.tile_modTile]
  refine ⟨_, (State.trellisWork_of_clean hclean).trans hrun, ?_, ?_, ?_, fun e he => hraw _ e ?_ he⟩
  · rw [hgang]
    rfl
  · rw [htile, hgang]
    rfl
  · rw [htile]
  · rw [htile]

theorem State.workWrites_tzero {d : Nat} (hop : c.op = .tzero d) : s.WorkWrites cl g c d fun _ => 0 := by
  refine State.workWrites_of_putTile hclean (freshBytes (c.tc d)) (by simp only [State.trellisRun, hop]) fun t e ht he => ?_
  rw [raw_freshBytes ht he, Nat.zero_mod]

theorem State.workWrites_tmma {kind d a b : Nat} (hop : c.op = .tmma kind d a b) (hk : kind ≠ 2)
    (hwf : Memory.wf ((s.gang g).tile d).bytes = true) : s.WorkWrites cl g c d
      (productElem (c.tc d) (c.tc a) (c.tc b) ((s.gang g).tile d) ((s.gang g).tile a) ((s.gang g).tile b)) := by
  refine State.workWrites_of_putTile hclean (productTile kind (c.tc d) (c.tc a) (c.tc b) ((s.gang g).tile d) ((s.gang g).tile a)
    ((s.gang g).tile b) []) (by simp only [State.trellisRun, hop, if_neg hk]) fun t e ht he => ?_
  exact raw_putElems hwf (ht.trans (productTile_eq hk _ _ _ _ _ _ _)) (List.mem_range.mpr he)

theorem State.workWrites_tcvt {d a : Nat} (hop : c.op = .tcvt d a) (hs : tcScale (c.tc d) = 0)
    (hf : tcFormat (c.tc d) = 1 ∨ tcFormat (c.tc d) = 2) (hwf : Memory.wf ((s.gang g).tile d).bytes = true) :
    s.WorkWrites cl g c d (convertElem c.fmt (c.tc a) (c.tc d) ((s.gang g).tile a)) := by
  refine State.workWrites_of_putTile hclean (convertTile c.fmt (c.tc a) (c.tc d) ((s.gang g).tile a) ((s.gang g).tile d))
    (by simp only [State.trellisRun, hop]) fun t e ht he => ?_
  exact raw_putElems hwf (ht.trans (convertTile_eq _ hs hf _ _)) (List.mem_range.mpr he)

end

end Sys2Proof.Machine

open Sys2Proof Sys2Proof.Machine

/-- Settles O49: a grant by the one command that all others come after; retirement by the gang without the command; the fill
by the bytes read; the work of TZERO, TMMA, TMMAQ and TCVT by the elements each writes. -/
theorem trellisRuns : Obligations.TrellisRuns := by
  unfold Obligations.TrellisRuns
  intro s cl g c x
  refine ⟨?_, ?_, ?_, ?_⟩
  · intro array w mine hfree hc hrun hfirst hfill s1 hstall hwork
    have hgrant : s.grant cl array = (w.modCmd g c.num fun y => { y with filled := true }).letGo :=
      State.grant_of_first hfree hc hrun hfirst hfill rfl hstall hwork
    have hgang : ((w.modCmd g c.num fun y => { y with filled := true }).letGo).gang g = { w.gang g with
        trellis := (w.gang g).trellis.map fun y => if y.num = c.num then { y with filled := true } else y } :=
      tget_tset_same _ _ _ _
    refine ⟨_, (exec_grant s cl array).trans (congrArg _ hgrant), ?_, hgang⟩
    rw [hgang]
    rfl
  · intro hmem hfill hmore huniq hfail hstall
    have hgang : ((s.modGang g fun x => x.retires c).modTeam c.team fun t => t.engDone (.trellis c.num)).gang g = x.retires c :=
      tget_tset_same _ _ _ _
    refine ⟨_, exec_trellisCommandComplete hmem hfill hmore huniq hfail hstall,
      State.sameMemory_of_gang (g := g) (x := x.retires c) rfl rfl rfl ?_, ?_⟩
    · rw [Gang.retires_eq]
    · rw [hgang]
      exact ⟨rfl, rfl, fun y hy => Gang.trellisReached_lt hy, Gang.retires_trellisTl_nil,
        fun n hn => (congrArg Tile.wb (x.retires_tile c n)).trans (x.clearBusy_write _ _ hn),
        fun n hn hw => (congrArg Tile.rb (x.retires_tile c n)).trans (x.clearBusy_read _ _ hn hw),
        x.retires_eq c, fun n hn hw => (x.retires_tile c n).trans (x.clearBusy_other _ _ hn hw)⟩
  · intro r va l k b ht hrun hfill hbooks hwants hget v
    exact codebookFill_spec ht hrun hfill hbooks hwants hget rfl
  · intro hclean writes
    refine ⟨fun d hop => State.workWrites_tzero hclean hop, fun kind d a b hop hk hwf => ?_,
      fun d a hop hs hf hwf => State.workWrites_tcvt hclean hop hs hf hwf⟩
    exact State.workWrites_tmma hclean hop (by omega) hwf
end

section
/-!
Recipe operations: SEAL, RPIN, RUNPIN, RDROP, RSTAT and RDONE (13 R296, R301, R309-R311).
-/

namespace Sys2Proof.Machine

/-! ### The tile that s[A] names -/

theorem State.notInRecipe_of_none {s : State} (h : s.myGang.recompute = none) (m : LaneMask) (k : State) :
    s.notInRecipe m k = k := by
  rw [State.notInRecipe, State.inRecipe, h]
  rfl

theorem State.tileOp_of_named {s : State} {o : A3} {n : Nat} {st : TileState} (hn : s.tileNamed (s.sA o) = .ok n)
    (ht : s.tileState s.myGang.part n = .ok st) (m : LaneMask) (k : Nat → TileState → State) : s.tileOp o m k = k n st := by
  simp only [State.tileOp, hn, ht]

/-! ### The status -/

/-- The team once a committing recipe operation has given s[d] its status (13 R309). -/
def Team.statused (t : Team) (d : BitVec 8) (changed : Bool) (slot : Nat) : Team :=
  (t.both fun r => r.sset d.toNat (if changed then 0 else 1)).committed slot

theorem State.status_eq (s : State) (d : BitVec 8) (changed : Bool) :
    s.status d changed = s.setMe (s.me.statused d changed s.issue.slot) :=
  s.modRegsC_finC _

/-- A status changes the team alone. -/
theorem State.status_spec {s w : State} (hi : w.issue = s.issue) (d : BitVec 8) (changed : Bool) :
    let t := w.status d changed
    t = { w with teams := tset w.teams s.issue.team t.me } ∧ t.me = w.me.statused d changed s.issue.slot := by
  intro t
  have me : t.me = w.me.statused d changed w.issue.slot := by
    show (w.status d changed).me = _
    rw [State.status_eq, State.me_setMe]
  rw [me, ← hi]
  exact ⟨w.status_eq d changed, rfl⟩

/-! ### SEAL, RPIN, RUNPIN and RDROP -/

theorem WriteFrame.freeTile (s : State) (p n : Nat) : WriteFrame s (s.freeTile p n) :=
  (WriteFrame.setTileState s p n .free true).trans (.modTile _ p n _)

/-- The tile becomes SEALED (13 Table 13-3, R311). -/
def State.sealTile (s : State) (p n : Nat) : State :=
  (s.setTileState p n .sealed false).modTile p n fun t => { t with resident := true, readAt := s.cycle }

theorem WriteFrame.sealTile (s : State) (p n : Nat) : WriteFrame s (s.sealTile p n) :=
  (WriteFrame.setTileState s p n .sealed false).trans (.modTile _ p n _)

section
variable {o : A3} {s : State} {n : Nat} {st : TileState}
variable (hm : s.effMask o.g ≠ 0) (hr : s.myGang.recompute = none) (hn : s.tileNamed (s.sA o) = .ok n)
  (ht : s.tileState s.myGang.part n = .ok st)
include hm hr hn ht

theorem exec_seal (hs : s.Settled) (hrec : ∃ r, s.recipeOf s.myGang.part n = .ok r) :
    exec (.seal o) s = .next (if st = .opened then (s.sealTile s.myGang.part n).status o.d true else s.status o.d false) := by
  obtain ⟨r, hrec⟩ := hrec
  show execSeal o s = _
  unfold execSeal
  simp only [State.uniC_of_active hm, State.notInRecipe_of_none hr, State.drained_of_settled hs, State.tileOp_of_named hn ht, hrec]
  rfl

theorem exec_rpin_undropped (hst : st ≠ .dropped) :
    exec (.rpin o) s = .next (
      if st = .free ∨ ((s.part s.myGang.part).rtile n).pins = 0xFFFF then s.status o.d false
      else (s.modTile s.myGang.part n fun t => { t with pins := t.pins + 1 }).status o.d true) := by
  show execRpin o s = _
  unfold execRpin
  simp only [State.uniC_of_active hm, State.notInRecipe_of_none hr, State.tileOp_of_named hn ht, if_neg hst]

theorem exec_runpin :
    exec (.runpin o) s = .next (
      if st = .free ∨ ((s.part s.myGang.part).rtile n).pins = 0 then s.status o.d false
      else (s.modTile s.myGang.part n fun t => { t with pins := t.pins - 1 }).status o.d true) := by
  show execRunpin o s = _
  unfold execRunpin
  simp only [State.uniC_of_active hm, State.notInRecipe_of_none hr, State.tileOp_of_named hn ht]

/-- RDROP with mode 0 drops a sealed tile that nothing pins. -/
theorem exec_rdrop_drop (hb : o.b.code = 0) :
    exec (.rdrop o) s = .next (
      if st = .sealed ∧ ((s.part s.myGang.part).rtile n).pins = 0 ∧ s.hpin s.myGang.part n = false then
        (s.dropTile s.myGang.part n).status o.d true
      else s.status o.d false) := by
  show execRdrop o s = _
  unfold execRdrop
  simp only [State.uniC_of_active hm, State.notInRecipe_of_none hr, State.tileOp_of_named hn ht, if_pos hb, Bool.not_eq_true']

/-- RDROP with another mode frees the tile unless it is being rebuilt or a running recompute reads it. -/
theorem exec_rdrop_free (hb : o.b.code ≠ 0) :
    exec (.rdrop o) s = .next (
      if st = .recompute ∨ ((st = .sealed ∨ st = .dropped) ∧ s.hpin s.myGang.part n = true) then s.status o.d false
      else (if st = .free then s else s.freeTile s.myGang.part n).status o.d true) := by
  show execRdrop o s = _
  unfold execRdrop
  simp only [State.uniC_of_active hm, State.notInRecipe_of_none hr, State.tileOp_of_named hn ht, if_neg hb]
  cases st <;> simp

end

/-- The machine w that a row of Table 13-3 leaves of s: memories alone differ, and nothing where nothing changed. -/
def State.RowLeaves (s w : State) (changed : Bool) : Prop := WriteFrame s w ∧ (changed = false → w = s)

theorem State.RowLeaves.same (s : State) (changed : Bool) : s.RowLeaves s changed := ⟨.refl s, fun _ => rfl⟩

theorem State.RowLeaves.of_frame {s w : State} (h : WriteFrame s w) : s.RowLeaves w true := ⟨h, fun hc => by cases hc⟩

theorem State.RowLeaves.of_recipeRule {i : Instr} {s w : State} {n : Nat} {st : TileState} {o : A3} {changed : Bool}
    (h : s.recipeRule n st i = some (o, w, changed)) : s.RowLeaves w changed := by
  unfold State.recipeRule at h
  dsimp only at h
  split at h
  case h_1 =>
    cases h
    by_cases hst : st = .opened
    · rw [if_pos hst, decide_eq_true hst]
      exact .of_frame (.sealTile s _ n)
    · rw [if_neg hst]
      exact .same s _
  case h_2 =>
    split at h
    · cases h
    · split at h <;> cases h
      · exact .same s _
      · exact .of_frame (.modTile s _ n _)
  case h_3 =>
    split at h <;> cases h
    · exact .same s _
    · exact .of_frame (.modTile s _ n _)
  case h_4 =>
    split at h
    · split at h <;> cases h
      · exact .of_frame (.dropTile s _ n)
      · exact .same s _
    · split at h <;> cases h
      · exact .same s _
      · split
        · exact .same s _
        · exact .of_frame (.freeTile s _ n)
  case h_5 => cases h

/-- An operation of Table 13-3 does what its row says and gives its status. -/
theorem exec_recipeRule {i : Instr} {s w : State} {n : Nat} {st : TileState} {o : A3} {changed : Bool}
    (h : s.recipeRule n st i = some (o, w, changed)) (hm : s.effMask o.g ≠ 0) (hr : s.myGang.recompute = none)
    (hs : s.Settled) (hn : s.tileNamed (s.sA o) = .ok n) (ht : s.tileState s.myGang.part n = .ok st)
    (hrec : i = .seal o → ∃ r, s.recipeOf s.myGang.part n = .ok r) : exec i s = .next (w.status o.d changed) := by
  unfold State.recipeRule at h
  dsimp only at h
  split at h
  case h_1 =>
    cases h
    rw [exec_seal hm hr hn ht hs (hrec rfl)]
    by_cases hst : st = .opened
    · rw [if_pos hst, if_pos hst, decide_eq_true hst]
      rfl
    · rw [if_neg hst, if_neg hst, decide_eq_false hst]
  case h_2 =>
    split at h
    · cases h
    · next hst =>
      split at h <;> cases h
      · next hpins => exact (exec_rpin_undropped hm hr hn ht hst).trans (congrArg _ (if_pos hpins))
      · next hpins => exact (exec_rpin_undropped hm hr hn ht hst).trans (congrArg _ (if_neg hpins))
  case h_3 =>
    split at h <;> cases h
    · next hpins => exact (exec_runpin hm hr hn ht).trans (congrArg _ (if_pos hpins))
    · next hpins => exact (exec_runpin hm hr hn ht).trans (congrArg _ (if_neg hpins))
  case h_4 =>
    split at h
    · next hb =>
      split at h <;> cases h
      · next hd => exact (exec_rdrop_drop hm hr hn ht hb).trans (congrArg _ (if_pos hd))
      · next hd => exact (exec_rdrop_drop hm hr hn ht hb).trans (congrArg _ (if_neg hd))
    · next hb =>
      split at h <;> cases h
      · next hd => exact (exec_rdrop_free hm hr hn ht hb).trans (congrArg _ (if_pos hd))
      · next hd => exact (exec_rdrop_free hm hr hn ht hb).trans (congrArg _ (if_neg hd))
  case h_5 => cases h

/-! ### RPIN of a dropped tile -/

theorem State.startTile_issue (s : State) (u p n : Nat) (engine : Bool) : (s.startTile u p n engine).1.issue = s.issue := by
  unfold State.startTile
  split
  · rfl
  · dsimp only
    split
    · rfl
    · exact (WriteFrame.setTileState s p n .recompute false).issue

section
variable {o : A3} {s : State} {n : Nat}
variable (hm : s.effMask o.g ≠ 0) (hr : s.myGang.recompute = none) (hn : s.tileNamed (s.sA o) = .ok n)
  (ht : s.tileState s.myGang.part n = .ok .dropped) (hpins : ((s.part s.myGang.part).rtile n).pins ≠ 0xFFFF)
include hm hr hn ht hpins

theorem exec_rpin_refused {f : Failure} (hf : s.startCheck s.issue.team s.myGang.part n = .error f) :
    exec (.rpin o) s = .next (s.fault f.code f.addr (s.effMask o.g)) := by
  show execRpin o s = _
  unfold execRpin
  simp only [State.uniC_of_active hm, State.notInRecipe_of_none hr, State.tileOp_of_named hn ht, hpins, reduceCtorEq, or_self,
    if_false, if_true, hf]

theorem exec_rpin_starts {x : List Byte × Image} {w : State} (hx : s.startCheck s.issue.team s.myGang.part n = .ok x)
    (hw : s.startTile s.issue.team s.myGang.part n false = (w, none)) :
    exec (.rpin o) s = .next ((w.modTile s.myGang.part n fun t => { t with pins := t.pins + 1 }).status o.d true) := by
  show execRpin o s = _
  unfold execRpin
  simp only [State.uniC_of_active hm, State.notInRecipe_of_none hr, State.tileOp_of_named hn ht, hpins, reduceCtorEq, or_self,
    if_false, if_true, hx, hw]

end

/-! ### RSTAT -/

theorem exec_rstat {o : A3} {s : State} {n : Nat} {st : TileState} {r : List Byte} (hm : s.effMask o.g ≠ 0)
    (hn : s.tileNamed (s.sA o) = .ok n) (ht : s.tileState s.myGang.part n = .ok st) (hr : s.record s.myGang.part n = .ok r) :
    exec (.rstat o) s = .next (s.putS o.d (BitVec.ofNat 64
      (st.num + (if s.hpin s.myGang.part n then 16 else 0) + (if s.requesters s.myGang.part n = [] then 0 else 32) +
        ((s.part s.myGang.part).rtile n).pins.toNat * 2 ^ 16 + fieldAt r 4 4 * 2 ^ 32))).fin := by
  show execRstat o s = _
  unfold execRstat
  simp only [State.uni_of_active hm, State.tileOp_of_named hn ht, hr, List.isEmpty_iff]

/-! ### Bytes given to parked accesses -/

theorem tget_map_of_tfind {α : Type} (d : α) (f : α → α) {t : Table α} {k : Nat} {v : α} (h : tfind t k = some v) :
    tget d (t.map fun x => (x.1, f x.2)) k = f v := by
  induction t with
  | nil => cases h
  | cons x r ih =>
    simp only [tfind] at h
    simp only [List.map_cons, tget]
    grind

/-- A relation of every value to its image relates a table's values to those of the table mapped. -/
theorem rel_tget_map {α : Type} {R : α → α → Prop} {d : α} {f : α → α} (hd : R d d) (hf : ∀ v, R v (f v)) (t : Table α)
    (k : Nat) : R (tget d t k) (tget d (t.map fun x => (x.1, f x.2)) k) := by
  induction t with
  | nil => exact hd
  | cons x r ih =>
    simp only [List.map_cons, tget]
    split
    · exact hf x.2
    · split
      · exact hd
      · exact ih

/-- A team that keeps its gang and all bytes given to its accesses. -/
def Team.KeepsGiven (t x : Team) : Prop := x.gang = t.gang ∧ ∀ y ∈ t.given, y ∈ x.given

theorem Team.KeepsGiven.refl (t : Team) : t.KeepsGiven t := ⟨rfl, fun _ h => h⟩

theorem Team.KeepsGiven.append (t : Team) (l : List Given) : t.KeepsGiven { t with given := t.given ++ l } :=
  ⟨rfl, fun _ h => List.mem_append_left _ h⟩

/-- Only what is given to accesses differs, and nothing given is taken back. -/
structure GiveFrame (s t : State) : Prop where
  whole : t = { s with teams := t.teams }
  team : ∀ u, (s.team u).KeepsGiven (t.team u)

theorem GiveFrame.refl (s : State) : GiveFrame s s := ⟨rfl, fun _ => .refl _⟩

theorem GiveFrame.trans {a b c : State} (h : GiveFrame a b) (g : GiveFrame b c) : GiveFrame a c := by
  refine ⟨by rw [g.whole, h.whole], fun u => ?_⟩
  obtain ⟨hgang, hgiven⟩ := h.team u
  obtain ⟨ggang, ggiven⟩ := g.team u
  exact ⟨ggang.trans hgang, fun y hy => ggiven y (hgiven y hy)⟩

theorem GiveFrame.modTeam (s : State) (u : Nat) (l : List Given) :
    GiveFrame s (s.modTeam u fun t => { t with given := t.given ++ l }) := by
  refine ⟨rfl, fun v => ?_⟩
  by_cases hv : v = u
  · subst hv
    rw [State.team_modTeam_same]
    exact .append _ _
  · rw [State.team_modTeam_ne _ _ hv]
    exact .refl _

theorem GiveFrame.engines (l : EngId → List Given) (es : List (Nat × EngId)) (s : State) :
    GiveFrame s (es.foldl (fun x e => x.modTeam e.1 fun t => { t with given := t.given ++ l e.2 }) s) := by
  induction es generalizing s with
  | nil => exact .refl s
  | cons e es ih => exact (GiveFrame.modTeam s e.1 (l e.2)).trans (ih _)

/-- The team with the bytes of tile n given to its accesses that are parked on it. -/
def Team.givenBytes (t : Team) (n : Nat) (bytes : Memory) : Team :=
  { t with given := t.given ++ t.waits.filterMap fun w => match w with
    | .recompute m _ pc => if m = n then some ⟨.none, n, bytes, pc⟩ else none
    | _ => none }

theorem Team.mem_given_givenBytes {t : Team} {n pc : Nat} {m : LaneMask} (bytes : Memory) (h : .recompute n m pc ∈ t.waits) :
    ⟨.none, n, bytes, pc⟩ ∈ (t.givenBytes n bytes).given :=
  List.mem_append_right _ (List.mem_filterMap.mpr ⟨_, h, if_pos rfl⟩)

/-- What the end of tile n's recompute makes of a team: one of partition p is given the tile's bytes. -/
def State.giveTeam (s : State) (p n : Nat) (t : Team) : Team :=
  if (s.gang t.gang).part = p then t.givenBytes n ((s.part p).rtile n).bytes else t

theorem State.giveTeam_keepsGiven (s : State) (p n : Nat) (t : Team) : t.KeepsGiven (s.giveTeam p n t) := by
  unfold State.giveTeam
  split
  · exact .append t _
  · exact .refl t

/-- The state once the teams, but not yet the engines, have the bytes of tile n. -/
def State.giveTeams (s : State) (p n : Nat) : State := { s with teams := s.teams.map fun t => (t.1, s.giveTeam p n t.2) }

theorem State.give_eq (s : State) (p n : Nat) (engines : List (Nat × EngId)) :
    s.give p n engines = engines.foldl (fun x e => x.modTeam e.1 fun t =>
      { t with given := t.given ++ [⟨e.2, n, ((s.part p).rtile n).bytes, 0⟩] }) (s.giveTeams p n) := rfl

theorem GiveFrame.giveTeams (s : State) (p n : Nat) : GiveFrame s (s.giveTeams p n) :=
  ⟨rfl, rel_tget_map (.refl _) (s.giveTeam_keepsGiven p n) s.teams⟩

theorem GiveFrame.give_giveTeams (s : State) (p n : Nat) (engines : List (Nat × EngId)) :
    GiveFrame (s.giveTeams p n) (s.give p n engines) := by
  rw [State.give_eq]
  exact .engines (fun e => [⟨e, n, ((s.part p).rtile n).bytes, 0⟩]) engines _

theorem GiveFrame.give (s : State) (p n : Nat) (engines : List (Nat × EngId)) : GiveFrame s (s.give p n engines) :=
  (GiveFrame.giveTeams s p n).trans (.give_giveTeams s p n engines)

/-- An access parked on the tile is given the tile's bytes (13 R311). -/
theorem State.mem_given_give {s : State} {p n u pc : Nat} {m : LaneMask} (engines : List (Nat × EngId))
    (hu : tfind s.teams u = some (s.team u)) (hp : (s.gang (s.team u).gang).part = p)
    (hw : .recompute n m pc ∈ (s.team u).waits) :
    ⟨.none, n, ((s.part p).rtile n).bytes, pc⟩ ∈ ((s.give p n engines).team u).given := by
  obtain ⟨-, hgiven⟩ := (GiveFrame.give_giveTeams s p n engines).team u
  have hteam : (s.giveTeams p n).team u = s.giveTeam p n (s.team u) := tget_map_of_tfind _ _ hu
  rw [hteam, State.giveTeam, if_pos hp] at hgiven
  exact hgiven _ (Team.mem_given_givenBytes _ hw)

/-! ### RDONE -/

/-- The gang of the executing team has recompute r, and the team has done its RDONE. -/
def State.endRecompute (s : State) (r : Recompute) : State :=
  ((s.modMyGang fun g => { g with recompute := some r }).modMe fun t => { t with rdone := true }).finC

/-- RDONE of a live recompute whose engines are idle and whose stores are performed. -/
theorem exec_rdone {o : A3} {s : State} {r : Recompute} (hm : s.effMask o.g ≠ 0) (hr : s.myGang.recompute = some r)
    (hl : r.live = true) (hi : s.enginesIdle s.me.gang = true) (hs : s.Settled) :
    exec (.rdone o) s = .next (((s.sealTile s.myGang.part r.tile).give s.myGang.part r.tile r.engines).endRecompute
      { r with live := false }) := by
  show execRdone o s = _
  unfold execRdone
  simp only [State.uniC_of_active hm, State.drained_of_settled hs, hr, hl, hi, Bool.not_true, Bool.false_eq_true, if_false]
  rfl

/-- The end of a recompute changes the team and its gang alone. The gangs are those of s, a state with the same team
executing. -/
theorem State.endRecompute_spec {s w : State} (hgangs : w.gangs = s.gangs) (hissue : w.issue = s.issue)
    (hgang : w.me.gang = s.me.gang) (r : Recompute) :
    let t := w.endRecompute r
    t.me = ({ w.me with rdone := true } : Team).committed s.issue.slot ∧ t.myGang = { s.myGang with recompute := some r } ∧
      (∀ u, u ≠ s.issue.team → t.team u = w.team u) ∧
      t = { w with teams := tset w.teams s.issue.team t.me, gangs := tset s.gangs s.me.gang t.myGang } := by
  intro t
  have hmine : w.myGang = s.myGang := by
    rw [State.myGang, hgang, State.gang, hgangs]
    rfl
  have ht : t = (w.modMyGang fun g => { g with recompute := some r }).setMe
      (({ w.me with rdone := true } : Team).committed w.issue.slot) := finC_setMe _ _
  obtain ⟨-, me, gang⟩ := w.modMyGang_setMe_only (f := fun g => { g with recompute := some r })
    (Team.committed_gang { w.me with rdone := true } w.issue.slot) rfl
  rw [← ht] at me gang
  rw [me, gang, hmine, ← hissue, ← hgangs, ← hgang, ← hmine]
  exact ⟨rfl, rfl, fun u hu => (congrArg (·.team u) ht).trans (tget_tset_ne _ _ _ _ _ hu), ht⟩

end Sys2Proof.Machine

open Sys2Proof Sys2Proof.Machine

/-- Settles O25: an operation of Table 13-3 is its row and a status, and a row writes memories alone; RPIN of a dropped tile
by what its start's checks give; RDONE seals the tile, gives its bytes to the parked accesses, and then changes only its team
and gang. -/
theorem recipeOps : Obligations.RecipeOps := by
  unfold Obligations.RecipeOps
  refine ⟨?_, ?_, ?_⟩
  · intro i s n st o w changed hrule hm hr hs hn ht hrec
    obtain ⟨hframe, hsame⟩ := State.RowLeaves.of_recipeRule hrule
    obtain ⟨whole, me⟩ := State.status_spec hframe.issue o.d changed
    rw [hframe.teams] at whole
    rw [hframe.me] at me
    refine ⟨_, exec_recipeRule hrule hm hr hs hn ht hrec, whole, me, fun hc => ?_⟩
    rw [hsame hc, State.status_eq]
    exact (s.onlyMe_setMe _).memory
  · intro o s n hm hr hn ht hpins
    refine ⟨fun f hf => exec_rpin_refused hm hr hn ht hpins hf, fun x w hx hw => ?_⟩
    have hissue : w.issue = s.issue := by
      have := s.startTile_issue s.issue.team s.myGang.part n false
      rwa [hw] at this
    obtain ⟨whole, me⟩ := State.status_spec (w := w.modTile s.myGang.part n fun t => { t with pins := t.pins + 1 }) hissue o.d true
    exact ⟨_, exec_rpin_starts hm hr hn ht hpins hx hw, whole, me⟩
  · intro o s hm
    refine ⟨fun n st r hn ht hr => ⟨_, exec_rstat hm hn ht hr, s.putS_setsS _ _⟩, fun r hr hl hi hs => ?_⟩
    intro p v w
    have hv : WriteFrame s v := .sealTile s p r.tile
    have hw : GiveFrame v w := .give v p r.tile r.engines
    have hgangs : w.gangs = s.gangs := by rw [hw.whole]; exact hv.gangs
    have hissue : w.issue = s.issue := by rw [hw.whole]; exact hv.issue
    have hgang : w.me.gang = s.me.gang := by
      obtain ⟨hkept, -⟩ := hw.team s.issue.team
      rw [State.me, hissue, hkept, hv.team, State.me]
    obtain ⟨me, gang, others, whole⟩ := State.endRecompute_spec hgangs hissue hgang { r with live := false }
    refine ⟨_, exec_rdone hm hr hl hi hs, me, gang, fun u m pc hp hpark hu _ hne => ?_, whole⟩
    rw [← hv.team] at hp hpark hu
    rw [← hv.teams] at hu
    rw [State.gang, ← hv.gangs] at hp
    exact (others u hne).symm ▸ State.mem_given_give r.engines hu hp hpark
end

section
/-!
Fences: FENCE and FENCERO (15 R327, R328).
-/

namespace Sys2Proof.Machine

/-- A committing release goes on once the stores before it have been performed and, where its scope reaches other devices,
acknowledged. -/
theorem State.released_of_released {s : State} {scope : Nat} (h : s.Released scope) (m : LaneMask) (k : State) :
    s.released scope m k = k := by
  obtain ⟨⟨hq, hf⟩, hu⟩ := h
  have hfar : ¬ (4 ≤ scope ∧ (!s.me.unacked.isEmpty) = true) := by
    rintro ⟨hscope, hunacked⟩
    simp [hu hscope] at hunacked
  simp only [State.released, State.acked, hq, List.isEmpty_nil, Bool.not_true, Bool.false_eq_true, and_false, if_false, hfar,
    State.raised_of_none hf]

theorem State.released_of_queued {s : State} (hq : s.me.storeQ ≠ []) (scope : Nat) (m : LaneMask) (k : State) :
    s.released scope m k = s.wait .storeQueue := by
  rw [State.released, List.isEmpty_eq_false_iff.mpr hq]
  rfl

theorem State.finC_commitsOnly (s : State) : s.CommitsOnly s.finC :=
  ⟨s.onlyMe_setMe _, s.me_setMe _⟩

/-- An operation that waits leaves its wait with its team. -/
theorem State.wait_only (s : State) (c : WaitCond) :
    s.OnlyMe (s.wait c) ∧ (s.wait c).me = { s.me with waits := s.me.waits ++ [c] } :=
  ⟨s.onlyMe_setMe _, s.me_setMe _⟩

theorem State.withSampler_finC (s : State) (c : Table (List Byte)) :
    let t := (s.withSampler c).finC
    t.me = s.me.committed s.issue.slot ∧
      t = { s with
        teams := tset s.teams s.issue.team t.me
        ms := { s.ms with sampler := tset s.ms.sampler s.cluster c } } ∧ s.SameMemory t := by
  intro t
  have me : t.me = s.me.committed s.issue.slot := State.me_setMe _ _
  refine ⟨me, ?_, fun _ => rfl, fun _ _ => rfl, fun _ _ _ => rfl⟩
  rw [me]
  rfl

section
variable {o : AtomOp} {s : State} (hm : s.effMask o.g ≠ 0)
include hm

theorem exec_fence (hr : s.Released o.scope.toNat) : exec (.fence o) s = .next s.finC := by
  show execFence o s = _
  rw [execFence, State.uniC_of_active hm, State.released_of_released hr]

theorem exec_fence_waits (hq : s.me.storeQ ≠ []) : exec (.fence o) s = .next (s.wait .storeQueue) := by
  show execFence o s = _
  rw [execFence, State.uniC_of_active hm, State.released_of_queued hq]

theorem exec_fencero (hr : s.Released o.scope.toNat) (hscope : o.scope.toNat ≤ 3) :
    exec (.fencero o) s = .next (s.withSampler []).finC := by
  show execFencero o s = _
  rw [execFencero, State.uniC_of_active hm, if_neg (Nat.not_lt.mpr hscope), State.released_of_released hr]
  rfl

end

end Sys2Proof.Machine

open Sys2Proof Sys2Proof.Machine

/-- Settles O27: a fence whose release may go on commits, FENCERO on the state with its cluster's sampler cache emptied; one
with a store still queued waits for the queue. -/
theorem fences : Obligations.Fences := by
  unfold Obligations.Fences
  refine ⟨fun o s hm hr => ⟨⟨_, exec_fence hm hr, s.finC_commitsOnly⟩, fun hscope => ?_⟩, fun o s hm hq => ?_⟩
  · exact ⟨_, exec_fencero hm hr hscope, s.withSampler_finC []⟩
  · exact ⟨_, exec_fence_waits hm hq, s.wait_only _⟩
end

section
/-!
Phase-bit barriers and the tile-buffer table: BARARV, BARWT, BUFACQ and BUFREL (15 R333-R338).
-/

namespace Sys2Proof.Machine

/-- A team and its gang change, whatever of the gang: nothing else does. -/
theorem State.modMyGang_setMe_spec (s : State) (f : Gang → Gang) {x : Team} (hx : x.gang = s.me.gang) :
    let t := (s.modMyGang f).setMe x
    t.me = x ∧ t.myGang = f s.myGang ∧
      t = { s with teams := tset s.teams s.issue.team t.me, gangs := tset s.gangs s.me.gang t.myGang } := by
  intro t
  have me : t.me = x := State.me_setMe _ _
  have gang : t.myGang = f s.myGang := by
    rw [State.myGang, me, hx]
    exact tget_tset_same _ _ _ _
  refine ⟨me, gang, ?_⟩
  rw [me, gang]
  rfl

/-- A write of the team's gang store by an operation that gives s[d] a value and commits. -/
theorem State.writeGang_putSC_finC (s : State) (a : Nat) (data : List Byte) (d : BitVec 8) (v : Word) :
    ((s.writeLoc s.myGang.part s.me.gang (.gang a) data).putSC d v).finC = (s.modMyGang fun g => g.write a data).setMe
      ((s.me.both fun r => r.sset d.toNat v).committed s.issue.slot) :=
  State.modRegsC_finC _ _

theorem State.writeGang_finC (s : State) (a : Nat) (data : List Byte) :
    (s.writeLoc s.myGang.part s.me.gang (.gang a) data).finC =
      (s.modMyGang fun g => g.write a data).setMe (s.me.committed s.issue.slot) := rfl

section
variable {o : A3} {s : State} {a : Nat} (hm : s.effMask o.g ≠ 0) (hr : s.myGang.recompute = none)
include hm hr

/-- BARARV at a barrier word whose checks pass (15 R334). -/
theorem exec_bararv {w r : Nat} (ha : s.bankAt (s.sA o) 4 4 = .ok (.gang a)) (hs : s.Settled)
    (hw : barArrive (s.bankWord (.gang a) 4) (sB s.rd false o.b).toNat = some (w, r)) :
    exec (.bararv o) s = .next ((s.modMyGang fun g => g.write a (natBytes w 4)).setMe
      ((s.me.both fun x => x.sset o.d.toNat (BitVec.ofNat 64 r)).committed s.issue.slot)) := by
  rw [← State.writeGang_putSC_finC]
  show execBararv o s = _
  unfold execBararv
  simp only [State.uniC_of_active hm, State.notInRecipe_of_none hr, State.drained_of_settled hs, ha, hw]

/-- BARWT compares the phase of its barrier word with the one s[B] gives (15 R335). -/
theorem exec_barwt (ha : s.bankAt (s.sA o) 4 4 = .ok (.gang a)) :
    exec (.barwt o) s = .next (
      if bitsOf (s.bankWord (.gang a) 4) 31 31 ≠ (sB s.rd false o.b).toNat % 2 then s.fin
      else s.wait (.barrier (s.sA o).toNat ((sB s.rd false o.b).toNat % 2 == 1))) := by
  show execBarwt o s = _
  unfold execBarwt
  simp only [State.uni_of_active hm, State.notInRecipe_of_none hr, ha]

variable {b : BufTab} (hs : s.Settled) (hb : s.bufTab (s.sA o) = .ok b) (ha : b.loc = .gang a)
include hs hb ha

/-- BUFACQ of a table with a free buffer (15 R337). -/
theorem exec_bufacq (hfree : (b.acq - b.rel).toNat < b.nbuf) :
    exec (.bufacq o) s = .next ((s.modMyGang fun g => g.write (a + 8) (natBytes (b.acq + 1).toNat 4)).setMe
      ((s.me.both fun x => x.sset o.d.toNat
        (BitVec.ofNat 64 (b.base + b.acq.toNat % b.nbuf * b.bsize))).committed s.issue.slot)) := by
  rw [← State.writeGang_putSC_finC]
  show execBufacq o s = _
  unfold execBufacq
  simp only [State.uniC_of_active hm, State.notInRecipe_of_none hr, State.drained_of_settled hs, hb,
    if_neg (Nat.not_le.mpr hfree), ha, Loc.plus]

/-- BUFREL of buffers that are taken (15 R338). -/
theorem exec_bufrel (hn : (sB s.rd false o.b).toNat ≠ 0) (htaken : (sB s.rd false o.b).toNat ≤ (b.acq - b.rel).toNat) :
    exec (.bufrel o) s = .next ((s.modMyGang fun g => g.write (a + 12)
      (natBytes (b.rel + BitVec.ofNat 32 (sB s.rd false o.b).toNat).toNat 4)).setMe (s.me.committed s.issue.slot)) := by
  have hok : ¬ ((sB s.rd false o.b).toNat = 0 ∨ (b.acq - b.rel).toNat < (sB s.rd false o.b).toNat) := by omega
  rw [← State.writeGang_finC]
  show execBufrel o s = _
  unfold execBufrel
  simp only [State.uniC_of_active hm, State.notInRecipe_of_none hr, State.drained_of_settled hs, hb, if_neg hok, ha,
    Loc.plus]

end

end Sys2Proof.Machine

open Sys2Proof Sys2Proof.Machine

/-- Settles O29: BARARV, BUFACQ and BUFREL are one write of the gang store and a result of the team, BARWT a completion or a
wait; a write of less than a line leaves the poisoned lines and every byte outside it. -/
theorem barrierResults : Obligations.BarrierResults := by
  unfold Obligations.BarrierResults
  intro o s a hm hr
  refine ⟨fun ha => ⟨fun w r hs hw => ?_, fun hphase => ?_, fun hphase => ?_⟩,
    fun b hs hb ha => ⟨fun hfree => ?_, fun hn htaken => ?_⟩, fun at_ k d hwf hd => ⟨?_, ?_, fun hk => ?_⟩⟩
  · exact ⟨_, exec_bararv hm hr ha hs hw, s.modMyGang_setMe_spec _ (Team.committed_gang _ _)⟩
  · exact ⟨_, (exec_barwt hm hr ha).trans (congrArg _ (if_pos hphase)), s.fin_noEffect⟩
  · exact ⟨_, (exec_barwt hm hr ha).trans (congrArg _ (if_neg (not_not_intro hphase))), s.wait_only _⟩
  · exact ⟨_, exec_bufacq hm hr hs hb ha hfree, s.modMyGang_setMe_spec _ (Team.committed_gang _ _)⟩
  · exact ⟨_, exec_bufrel hm hr hs hb ha hn htaken, s.modMyGang_setMe_spec _ (Team.committed_gang _ _)⟩
  · exact mended_short _ _ _ hd
  · exact Memory.readBytes_writeBytes _ _ _ hwf
  · exact Memory.read_writeBytes_out _ _ _ _ hwf hk
end

section
/-!
WQPUSH and LAUNCH (15 R339, R340).
-/

namespace Sys2Proof.Machine

/-! ### Work queues -/

theorem WriteFrame.wq {s t : State} (h : WriteFrame s t) (p n : Nat) : t.wq p n = s.wq p n := by
  rw [State.wq, h.parts]
  rfl

theorem WriteFrame.queue {s t : State} (h : WriteFrame s t) (q : Nat) : t.queue q = s.queue q := by
  rw [State.queue, h.queues]
  rfl

theorem WqFrame.me {s t : State} (h : WqFrame s t) : t.me = s.me := by
  rw [h.whole]
  rfl

theorem WqFrame.buildTakes (p k fuel : Nat) (s : State) : WqFrame s (s.buildTakes p k fuel) := by
  have build : ∀ (x : State) (n : Nat), WqFrame x (x.buildTake p k n) := fun x n =>
    (WqFrame.modWq x p k _).trans (.submitTakes p k 1 _)
  induction fuel generalizing s with
  | zero => exact .refl s
  | succ fuel ih =>
    unfold State.buildTakes
    dsimp only
    split
    · exact .refl s
    · split
      · exact (build s _).trans (ih _)
      · split
        · exact (build s _).trans (ih _)
        · exact .refl s

theorem State.wq_modWq_same (s : State) (p n : Nat) (f : WorkQueue → WorkQueue) : (s.modWq p n f).wq p n = f (s.wq p n) := by
  rw [State.wq, State.modWq, part_modPart_same]
  exact tget_tset_same _ _ _ _

/-- What a launch queue takes is taken from the work queue's built launches, not from its records. -/
theorem State.submitTakes_tail (p n fuel : Nat) (s : State) : ((s.submitTakes p n fuel).wq p n).tail = (s.wq p n).tail := by
  induction fuel generalizing s with
  | zero => rfl
  | succ fuel ih =>
    unfold State.submitTakes
    dsimp only
    split
    · rfl
    · split
      · rw [ih, State.wq_modWq_same]
        rfl
      · rfl

theorem State.buildTake_tail (s : State) (p k n : Nat) : ((s.buildTake p k n).wq p k).tail = (s.wq p k).tail := by
  rw [State.buildTake, State.submitTakes_tail, State.wq_modWq_same]

theorem State.buildTakes_tail (p k fuel : Nat) (s : State) : ((s.buildTakes p k fuel).wq p k).tail = (s.wq p k).tail := by
  induction fuel generalizing s with
  | zero => rfl
  | succ fuel ih =>
    unfold State.buildTakes
    dsimp only
    split
    · rfl
    · split
      · rw [ih, State.buildTake_tail]
      · split
        · rw [ih, State.buildTake_tail]
        · rfl

/-! ### Records -/

/-- Write record i of a push to its place of work-queue slot n, unless one before it could not be written. -/
def State.putRecord (w : WorkQueue) (p : Nat) (data : List Byte) (x : State × Option Failure) (i : Nat) :
    State × Option Failure :=
  match x with
  | (y, none) => y.writeMem (sysCtx p)
      (w.store + BitVec.ofNat 64 ((w.tail.toNat + i) % 2 ^ w.capLog * ((w.rsize + 1) * 16)))
      ((data.drop (i * ((w.rsize + 1) * 16))).take ((w.rsize + 1) * 16))
  | y => y

/-- The records of a push written to a work queue's store, one after another. -/
def State.putRecords (s : State) (w : WorkQueue) (p c : Nat) (data : List Byte) : State × Option Failure :=
  (List.range c).foldl (State.putRecord w p data) (s, none)

theorem WriteFrame.putRecord {s : State} {x : State × Option Failure} (h : WriteFrame s x.1) (w : WorkQueue) (p : Nat)
    (data : List Byte) (i : Nat) : WriteFrame s (State.putRecord w p data x i).1 := by
  unfold State.putRecord
  split
  · exact h.trans (.writeMem _ _ _ _)
  · exact h

theorem WriteFrame.of_putRecords {s t : State} {w : WorkQueue} {p c : Nat} {data : List Byte} {f : Option Failure}
    (h : s.putRecords w p c data = (t, f)) : WriteFrame s t := by
  have hput : WriteFrame s (s.putRecords w p c data).1 :=
    List.foldlRecOn (motive := fun x : State × Option Failure => WriteFrame s x.1) _ _ (.refl s)
      fun _ hx i _ => hx.putRecord w p data i
  rwa [h] at hput

/-- The work queue with c records more at its tail (15 R339). -/
def WorkQueue.appended (w : WorkQueue) (c tick : Nat) : WorkQueue :=
  { w with tail := w.tail + BitVec.ofNat 64 c, ticks := w.ticks ++ List.replicate c tick }

/-- A push whose records w have been written: the queue takes them and builds the launches they call for. -/
def State.recordsTaken (w : State) (p n c : Nat) : State :=
  (w.modWq p n fun q => q.appended c w.tick).buildTakes p n (c + 1)

theorem WqFrame.recordsTaken (w : State) (p n c : Nat) : WqFrame w (w.recordsTaken p n c) :=
  (WqFrame.modWq w p n _).trans (.buildTakes p n _ _)

theorem State.recordsTaken_tail (w : State) (p n c : Nat) :
    ((w.recordsTaken p n c).wq p n).tail = (w.wq p n).tail + BitVec.ofNat 64 c := by
  rw [State.recordsTaken, State.buildTakes_tail, State.wq_modWq_same]
  rfl

theorem State.appendRecords_of_written {s w : State} {p n c : Nat} {data : List Byte}
    (h : s.putRecords (s.wq p n) p c data = (w, none)) (o : A3) (m : LaneMask) :
    s.appendRecords o m p n c data = ((w.recordsTaken p n c).putSC o.d (s.wq p n).tail).finC := by
  unfold State.appendRecords
  dsimp only
  split
  next x f hput =>
    have hfails : (x, some f) = (w, none) := hput.symm.trans h
    cases hfails
  next x hput =>
    have hsame : (x, none) = (w, (none : Option Failure)) := hput.symm.trans h
    cases hsame
    rfl

/-! ### The operations -/

theorem State.putSC_finC (s : State) (d : BitVec 8) (v : Word) :
    (s.putSC d v).finC = s.setMe ((s.me.both fun r => r.sset d.toNat v).committed s.issue.slot) := State.modRegsC_finC _ _

/-- A push or launch that appends nothing, once memory has changed as a write leaves it. -/
theorem WriteFrame.turnedAway {s v : State} (h : WriteFrame s v) (d : BitVec 8) :
    v.OnlyMe (v.turnedAway d) ∧
      (v.turnedAway d).me = (s.me.both fun r => r.sset d.toNat (BitVec.allOnes 64)).committed s.issue.slot := by
  rw [State.turnedAway, State.putSC_finC, State.me_setMe, h.me, h.issue]
  exact ⟨v.onlyMe_setMe _, rfl⟩

section
variable {o : A3} {s : State} (hm : s.effMask o.g ≠ 0) (hr : s.myGang.recompute = none) (hrel : s.Released 5)
include hm hr hrel

section
variable {n c : Nat} (hargs : pushArgs s.rd o.b = (n, c, true)) (hc : c ≠ 0)
include hargs hc

/-- WQPUSH to a slot that was never bound (log 27). -/
theorem exec_wqpush_unbound (hq : (s.wq s.myGang.part n).rpg = 0) : exec (.wqpush o) s = .next (s.turnedAway o.d) := by
  show execWqpush o s = _
  unfold execWqpush
  simp only [State.uniC_of_active hm, State.notInRecipe_of_none hr, State.released_of_released hrel, hargs, hq,
    beq_eq_false_iff_ne.mpr hc, Bool.not_true, bne_self_eq_false, Bool.false_and, Bool.or_self, Bool.false_eq_true, if_false,
    if_true]

/-- WQPUSH of records that the queue could hold, read where s[A] says (15 R339). -/
theorem exec_wqpush_bound {data : List Byte} (hq : (s.wq s.myGang.part n).rpg ≠ 0)
    (hcap : c ≤ 2 ^ (s.wq s.myGang.part n).capLog) (ha : (s.sA o).toNat % 16 = 0)
    (hd : s.RecordIs 0 (s.sA o) (c * (((s.wq s.myGang.part n).rsize + 1) * 16)) data) :
    let v := s.recordRead 0 (s.sA o) (c * (((s.wq s.myGang.part n).rsize + 1) * 16))
    exec (.wqpush o) s = .next (
      if (s.wq s.myGang.part n).enable = false then v.turnedAway o.d
      else if 2 ^ (s.wq s.myGang.part n).capLog < (s.wq s.myGang.part n).used + c then v.wait (.workQueue n c)
      else v.appendRecords o (s.effMask o.g) s.myGang.part n c data) := by
  intro v
  show execWqpush o s = _
  unfold execWqpush
  simp only [State.uniC_of_active hm, State.notInRecipe_of_none hr, State.released_of_released hrel, hargs,
    beq_eq_false_iff_ne.mpr hc, decide_eq_false (Nat.not_lt.mpr hcap), Bool.not_true, Bool.and_false, Bool.or_self,
    Bool.false_eq_true, if_false, if_neg hq, State.uniReadIn_of_record ha hd, Bool.not_eq_true']
  rfl

end

section
variable {k : Nat} {e : List Byte} (hk : (sB s.rd false o.b).toNat = k) (hlt : k < 1024) (ha : (s.sA o).toNat % 32 = 0)
  (hpart : (s.queue k).part = s.myGang.part) (hdev : (s.queue k).device = true) (he : s.RecordIs 0 (s.sA o) 32 e)
include hk hlt ha hpart hdev he

/-- LAUNCH into a queue of its partition that teams may fill, as far as the queue's room (15 R340). -/
theorem exec_launch_full (hfull : (s.queue k).hasRoom = false) :
    exec (.launch o) s = .next ((s.recordRead 0 (s.sA o) 32).turnedAway o.d) := by
  have hf := WriteFrame.recordRead s 0 (s.sA o) 32
  show execLaunch o s = _
  unfold execLaunch
  simp only [State.uniC_of_active hm, State.notInRecipe_of_none hr, State.released_of_released hrel, hk,
    if_neg (Nat.not_le.mpr hlt), State.uniReadIn_of_record ha he, hf.queue, hf.myGang, hpart, hdev, hfull, ne_eq,
    not_true_eq_false, Bool.not_true, Bool.not_false, Bool.false_eq_true, or_self, if_false, if_true]

theorem exec_launch_room {w : State} (hroom : (s.queue k).hasRoom = true)
    (hw : (s.recordRead 0 (s.sA o) 32).writeAll (sysCtx (s.queue k).part)
      ((s.queue k).base + BitVec.ofNat 64 ((s.queue k).tail.toNat % 2 ^ (s.queue k).sizeLog * 32)) e = (w, none)) :
    exec (.launch o) s = .next (((w.modQueue k fun y => { y with
      tail := y.tail + 1, built := tdel y.built y.tail.toNat }).putSC o.d ((s.queue k).tail.zeroExtend 64)).finC) := by
  have hf := WriteFrame.recordRead s 0 (s.sA o) 32
  rw [hpart] at hw
  show execLaunch o s = _
  unfold execLaunch
  simp only [State.uniC_of_active hm, State.notInRecipe_of_none hr, State.released_of_released hrel, hk,
    if_neg (Nat.not_le.mpr hlt), State.uniReadIn_of_record ha he, hf.queue, hf.myGang, hpart, hdev, hroom, ne_eq,
    not_true_eq_false, Bool.not_true, Bool.false_eq_true, or_self, if_false, hw]

end

end

/-- A change of launch queue k by an operation that gives s[d] a value and commits, once memory has changed as a write
leaves it. -/
theorem WriteFrame.modQueue_putSC_finC {s w : State} (h : WriteFrame s w) (k : Nat) (f : Queue → Queue) (d : BitVec 8)
    (v : Word) :
    let t := ((w.modQueue k f).putSC d v).finC
    t.me = (w.me.both fun r => r.sset d.toNat v).committed s.issue.slot ∧ t.queue k = f (w.queue k) ∧
      t = { w with teams := tset w.teams s.issue.team t.me, queues := tset w.queues k (t.queue k) } := by
  intro t
  have whole : t = (w.modQueue k f).setMe ((w.me.both fun r => r.sset d.toNat v).committed s.issue.slot) := by
    rw [← h.issue]
    exact State.putSC_finC _ _ _
  have me : t.me = (w.me.both fun r => r.sset d.toNat v).committed s.issue.slot := by rw [whole, State.me_setMe]
  have queue : t.queue k = f (w.queue k) := State.queue_modQueue_same w k f
  refine ⟨me, queue, ?_⟩
  rw [me, queue, whole, ← h.issue]
  rfl

end Sys2Proof.Machine

open Sys2Proof Sys2Proof.Machine

/-- Settles O30: what an operation reads and writes of memory leaves every queue's registers, so each goes on from its queue
as it stood; the launches that a push calls for are built from records and leave the tail. -/
theorem queuesTake : Obligations.QueuesTake := by
  unfold Obligations.QueuesTake
  intro o s hm hr hrel
  refine ⟨?_, ?_⟩
  · intro p x q size hok hc hcap ha v data hd
    have hargs : pushArgs s.rd o.b = (x.1, x.2.1, true) := by rw [← hok]
    have hv : WriteFrame s v := by
      show WriteFrame s (if q.rpg = 0 then s else _)
      split
      · exact .refl s
      · exact .recordRead s _ _ _
    refine ⟨fun hclosed => ⟨v.turnedAway o.d, ?_, hv.turnedAway o.d⟩, fun w hrpg hen hroom hput => ?_⟩
    · by_cases hrpg : q.rpg = 0
      · rw [show v = s from if_pos hrpg]
        exact exec_wqpush_unbound hm hr hrel hargs hc hrpg
      · rw [show v = s.recordRead 0 (s.sA o) (x.2.1 * size) from if_neg hrpg,
          exec_wqpush_bound hm hr hrel hargs hc hrpg hcap ha hd, if_pos (hclosed.resolve_left hrpg)]
    · have hread : v = s.recordRead 0 (s.sA o) (x.2.1 * size) := if_neg hrpg
      have hput : v.putRecords (v.wq p x.1) p x.2.1 data = (w, none) := by
        rw [hv.wq]
        exact hput
      have hissue : w.issue = s.issue := (WriteFrame.of_putRecords hput).issue.trans hv.issue
      have htaken := WqFrame.recordsTaken w p x.1 x.2.1
      refine ⟨((w.recordsTaken p x.1 x.2.1).putSC o.d q.tail).finC, ?_, ?_, ?_, ?_⟩
      · rw [exec_wqpush_bound hm hr hrel hargs hc hrpg hcap ha hd, if_neg (by rw [hen]; decide),
          if_neg (Nat.not_lt.mpr hroom), ← hread, State.appendRecords_of_written hput, hv.wq]
      · have htissue : (w.recordsTaken p x.1 x.2.1).issue = w.issue := by rw [htaken.whole]
        rw [State.putSC_finC, State.me_setMe, htaken.me, htissue, hissue]
      · exact State.recordsTaken_tail w p x.1 x.2.1
      · show (w.recordsTaken p x.1 x.2.1).ms = w.ms
        rw [htaken.whole]
  · intro k q v hlt ha hpart hdev e he
    have hv : WriteFrame s v := .recordRead s 0 (s.sA o) 32
    refine ⟨fun hfull => ⟨_, exec_launch_full hm hr hrel rfl hlt ha hpart hdev he hfull, hv.turnedAway o.d⟩,
      fun w hroom hw => ⟨_, exec_launch_room hm hr hrel rfl hlt ha hpart hdev he hroom hw, ?_⟩⟩
    exact (hv.trans (.of_writeAll hw)).modQueue_putSC_finC k _ o.d _
end

section
/-!
Atomics: the lanes of a turn, one after another, and what a lane's step leaves (15 R324-R326).
-/

namespace Sys2Proof.Machine

/-! ### Places -/

/-- Whether a place is another device's depends on the device's registers alone. -/
theorem State.isRemote_of_dev {s t : State} (h : t.dev = s.dev) (l : Loc) : t.isRemote l = s.isRemote l := by
  cases l with
  | phys pa key =>
    unfold State.isRemote State.target State.fxBytes
    rw [h]
  | _ => rfl

theorem ReadFrame.dev {s t : State} (h : ReadFrame s t) : t.dev = s.dev := by rw [h.whole]

theorem ReadFrame.myGang {s t : State} (h : ReadFrame s t) : t.myGang = s.myGang := by
  rw [State.myGang, h.me, h.whole]
  rfl

theorem ReadFrame.homeLoc {s t : State} (h : ReadFrame s t) (l : Loc) : t.homeLoc l = s.homeLoc l := by
  rw [h.whole]
  rfl

theorem ReadFrame.byte {s t : State} (h : ReadFrame s t) (pa : Nat) : t.byte pa = s.byte pa := by
  rw [h.whole]
  rfl

theorem ReadFrame.keyed {s t : State} (h : ReadFrame s t) (key : BitVec 12) (pa n : Nat) :
    t.keyed key pa n = s.keyed key pa n := by
  rw [h.whole]
  rfl

theorem ReadFrame.readLoc {s t : State} (h : ReadFrame s t) (p g : Nat) (l : Loc) (n : Nat) :
    t.readLoc p g l n = s.readLoc p g l n := by
  cases l with
  | recipe k off =>
    rw [State.readLoc, h.tiles]
    rfl
  | _ =>
    rw [h.whole]
    rfl

/-- Bytes written under a key ID are read back under it (02 R65). -/
theorem State.physRead_physWrite {s : State} (key : BitVec 12) (pa : Nat) (d : List Byte) (hmem : s.memOk)
    (hkeys : tsorted s.ms.lineKeys = true) : (s.physWrite key pa d).physRead key pa d.length = d := by
  have hkeyed : (s.physWrite key pa d).keyed key pa d.length = true := by
    rw [State.keyed, List.isEmpty_iff, State.otherKeyed, List.filter_eq_nil_iff]
    intro l hl hother
    rw [Bool.and_eq_true, beq_iff_eq, bne_iff_ne] at hother
    obtain ⟨hbm, hkey⟩ := hother
    exact hkey (s.physWrite_lineKeys key pa d hkeys hl hbm)
  rw [State.physRead_keyed _ _ _ _ hkeyed]
  exact Memory.readBytes_writeBytes _ _ _ (s.memUnder_wf key pa d.length hmem)

/-! ### A lane's step -/

theorem State.writeLoc_me (s : State) (p g : Nat) (l : Loc) (d : List Byte) : (s.writeLoc p g l d).me = s.me := by
  cases l <;> rfl

theorem State.writeLoc_dev (s : State) (p g : Nat) (l : Loc) (d : List Byte) : (s.writeLoc p g l d).dev = s.dev := by
  cases l <;> rfl

theorem State.writeLoc_teams (s : State) (p g : Nat) (l : Loc) (d : List Byte) : (s.writeLoc p g l d).teams = s.teams := by
  cases l <;> rfl

theorem State.modRegsC_setMe (s : State) (t : Team) (f : Regs → Regs) : (s.setMe t).modRegsC f = s.setMe (t.both f) := by
  rw [State.modRegsC, State.modMe, State.me_setMe, State.setMe_setMe]
  rfl

/-- A step performed is a change of its team alone (15 R326). -/
theorem State.atomDone_eq (s : State) (o : AtomOp) (n l : Nat) (old : Word) :
    s.atomDone o n l old = s.setMe (s.me.stepped o n l old) := by
  unfold State.atomDone Team.stepped
  cases o.nr with
  | true => rfl
  | false =>
    simp only [Bool.false_eq_true, if_false, State.modMe, State.modRegsC_setMe, State.me_setMe]
    split <;> rfl

/-- The value an atomic finds at a lane's place. -/
def State.atomOld (s : State) (n : Nat) (a : LaneAt) : Word :=
  BitVec.ofNat 64 (bytesNat (s.readLoc s.myGang.part s.me.gang (s.homeLoc a.loc) n))

/-- The bytes that lane l's step leaves at its place (15 Table 15-5). -/
def State.atomBytes (s : State) (o : AtomOp) (op n l : Nat) (a : LaneAt) : List Byte :=
  natBytes (atomNew op (s.atomOld n a) (s.atomArgs o op n l).1 (s.atomArgs o op n l).2).toNat n

theorem State.length_atomBytes (s : State) (o : AtomOp) (op n l : Nat) (a : LaneAt) : (s.atomBytes o op n l a).length = n :=
  length_natBytes _ _

/-- The state with what lane l's step leaves at its place. -/
def State.atomWrite (s : State) (o : AtomOp) (op n l : Nat) (a : LaneAt) : State :=
  s.writeLoc s.myGang.part s.me.gang (s.homeLoc a.loc) (s.atomBytes o op n l a)

theorem State.atomHere_eq (s : State) (o : AtomOp) (op n l : Nat) (a : LaneAt) :
    s.atomHere o op n l a = (s.atomWrite o op n l a).setMe (s.me.stepped o n l (s.atomOld n a)) := by
  have hme : (s.atomWrite o op n l a).me = s.me := s.writeLoc_me _ _ _ _
  rw [← hme, ← State.atomDone_eq]
  rfl

theorem State.atomHere_issue (s : State) (o : AtomOp) (op n l : Nat) (a : LaneAt) :
    (s.atomHere o op n l a).issue = s.issue := by
  rw [State.atomHere_eq]
  exact s.writeLoc_issue _ _ _ _

theorem State.atomHere_dev (s : State) (o : AtomOp) (op n l : Nat) (a : LaneAt) : (s.atomHere o op n l a).dev = s.dev := by
  rw [State.atomHere_eq]
  exact s.writeLoc_dev _ _ _ _

/-! ### The lanes of a turn -/

theorem State.useLane_of_all {s : State} (h : s.issue.quota = none) : s.useLane = s := by
  rw [State.useLane, h, Option.map_none, ← h]

section
variable {o : AtomOp} {op n : Nat}

/-- A turn without a limit performs every lane. -/
theorem State.atomLanes_all (ls : List (Nat × LaneAt)) (s : State) (hnear : ∀ p ∈ ls, s.isRemote p.2.loc = false)
    (hq : s.issue.quota = none) :
    s.atomLanes o op n ls = (ls.foldl (fun x p => x.atomHere o op n p.1 p.2) s).finC := by
  induction ls generalizing s with
  | nil => rfl
  | cons p r ih =>
    obtain ⟨l, a⟩ := p
    have hstep := ih (s.atomHere o op n l a)
      (fun p hp => (State.isRemote_of_dev (s.atomHere_dev o op n l a) _).trans (hnear p (List.mem_cons_of_mem _ hp)))
      (by rw [s.atomHere_issue, hq])
    have hl : s.isRemote a.loc = false := hnear (l, a) List.mem_cons_self
    simp only [State.atomLanes, hl, hq, Bool.not_false, if_true, reduceCtorEq, if_false, State.useLane_of_all hq, hstep,
      List.foldl_cons]

/-- A turn that may perform q lanes performs the first q and waits with the others. -/
theorem State.atomLanes_quota (ls : List (Nat × LaneAt)) (s : State) (q : Nat) (hnear : ∀ p ∈ ls, s.isRemote p.2.loc = false)
    (hq : s.issue.quota = some q) :
    s.atomLanes o op n ls =
      let x := (ls.take q).foldl (fun x p => x.useLane.atomHere o op n p.1 p.2) s
      if q < ls.length then (x.holdWalk (walked (ls.drop q) n)).wait .lanes else x.finC := by
  induction ls generalizing s q with
  | nil =>
    rw [List.take_nil]
    rfl
  | cons p r ih =>
    obtain ⟨l, a⟩ := p
    have hl : s.isRemote a.loc = false := hnear (l, a) List.mem_cons_self
    cases q with
    | zero => simp only [State.atomLanes, hl, hq, Bool.not_false, if_true, List.take_zero, List.foldl_nil, List.drop_zero,
        List.length_cons, Nat.zero_lt_succ]
    | succ q =>
      have hstep := ih (s.useLane.atomHere o op n l a) q
        (fun p hp => (State.isRemote_of_dev (s.useLane.atomHere_dev o op n l a) _).trans
          (hnear p (List.mem_cons_of_mem _ hp)))
        (by rw [State.atomHere_issue, State.useLane, hq]; rfl)
      simp only [State.atomLanes, hl, hq, Bool.not_false, if_true, Option.some.injEq, Nat.add_eq_zero_iff, Nat.one_ne_zero,
        and_false, if_false, hstep, List.take_succ_cons, List.foldl_cons, List.length_cons, Nat.add_lt_add_iff_right,
        List.drop_succ_cons]

end

/-! ### The operation -/

theorem exec_of_atomRule {i : Instr} {o : AtomOp} {op n : Nat} (h : atomRule i = some (o, op, n)) (s : State) :
    exec i s = .next (s.atomic o op n) := by
  unfold atomRule at h
  split at h <;> cases h <;> rfl

theorem ReadFrame.atomNoted (s : State) (o : AtomOp) (ls : List (Nat × LaneAt)) : ReadFrame s (s.atomNoted o ls) := by
  unfold State.atomNoted
  split
  · exact .refl s
  · exact .lanes ls s

/-- An atomic whose release may go on and whose lanes pass their checks performs these. -/
theorem State.atomic_of_checks {s : State} {o : AtomOp} {op n : Nat} {a : Nat → LaneAt} (hm : s.effMask o.g ≠ 0)
    (hr : s.myGang.recompute = none) (hrel : s.Released o.scope.toNat)
    (h : ∀ l ∈ s.active (s.atomMask o), s.atomAt o n l = .ok (a l)) :
    s.atomic o op n = (s.atomNoted o ((s.active (s.atomMask o)).map fun l => (l, a l))).atomLanes o op n
      ((s.active (s.atomMask o)).map fun l => (l, a l)) := by
  have hchecked : checkLanes (s.active (s.effMask o.g &&& ~~~((s.me.flight.map (·.performed)).getD 0))) (s.atomAt o n) =
      .ok ((s.active (s.atomMask o)).map fun l => (l, a l)) := checkLanes_ok _ _ _ h
  unfold State.atomic
  simp only [if_neg hm, State.notInRecipe_of_none hr, State.released_of_released hrel, hchecked]
  rfl

/-! ### One lane -/

theorem ReadFrame.atomArgs {s w : State} (h : ReadFrame s w) (o : AtomOp) (op n l : Nat) :
    w.atomArgs o op n l = s.atomArgs o op n l := by
  have hrd : w.rd = s.rd := congrArg Team.before h.me
  unfold State.atomArgs
  rw [hrd]

theorem ReadFrame.atomOld {s w : State} (h : ReadFrame s w) (n : Nat) (a : LaneAt) : w.atomOld n a = s.atomOld n a := by
  rw [State.atomOld, h.homeLoc, h.myGang, h.me, h.readLoc]
  rfl

theorem ReadFrame.atomBytes {s w : State} (h : ReadFrame s w) (o : AtomOp) (op n l : Nat) (a : LaneAt) :
    w.atomBytes o op n l a = s.atomBytes o op n l a := by
  rw [State.atomBytes, h.atomOld, h.atomArgs]
  rfl

theorem ReadFrame.atomWrite {s w : State} (h : ReadFrame s w) (o : AtomOp) (op n l : Nat) (a : LaneAt) :
    w.atomWrite o op n l a =
      w.writeLoc s.myGang.part s.me.gang (s.homeLoc a.loc) (s.atomBytes o op n l a) := by
  rw [State.atomWrite, h.homeLoc, h.myGang, h.me, h.atomBytes]

/-- A lane's step that commits, its translation cached before: its place is written and its team has performed it. -/
theorem ReadFrame.atomHere_finC {s w : State} (h : ReadFrame s w) (o : AtomOp) (op n l : Nat) (a : LaneAt) :
    let x := w.writeLoc s.myGang.part s.me.gang (s.homeLoc a.loc) (s.atomBytes o op n l a)
    let t := (w.atomHere o op n l a).finC
    t = { x with teams := tset s.teams s.issue.team t.me } ∧
      t.me = (s.me.stepped o n l (s.atomOld n a)).committed s.issue.slot := by
  intro x t
  have hissue : x.issue = s.issue := (w.writeLoc_issue _ _ _ _).trans h.issue
  have hteams : x.teams = s.teams := (w.writeLoc_teams _ _ _ _).trans h.teams
  have whole : t = x.setMe ((s.me.stepped o n l (s.atomOld n a)).committed s.issue.slot) := by
    rw [← hissue, ← finC_setMe, ← h.me, ← h.atomOld, show x = w.atomWrite o op n l a from (h.atomWrite o op n l a).symm,
      ← State.atomHere_eq]
  have me : t.me = (s.me.stepped o n l (s.atomOld n a)).committed s.issue.slot := by rw [whole, State.me_setMe]
  refine ⟨?_, me⟩
  rw [me, whole, State.setMe, State.setTeam, hissue, hteams]

/-- What a write under a key ID leaves of physical memory, where translations were cached before (02 R65; log 76). -/
theorem ReadFrame.physWrite_spec {s w : State} (h : ReadFrame s w) (hmem : s.memOk) (hkeys : tsorted s.ms.lineKeys = true)
    (key : BitVec 12) (pa : Nat) (d : List Byte) :
    (w.physWrite key pa d).physRead key pa d.length = d ∧
      ∀ b, (b < pa ∨ pa + d.length ≤ b) → s.UnderKey key pa d.length b → (w.physWrite key pa d).byte b = s.byte b := by
  have hwmem : w.memOk := by
    rw [State.memOk, h.whole]
    exact hmem
  have hwkeys : tsorted w.ms.lineKeys = true := by
    rw [h.whole]
    exact hkeys
  refine ⟨State.physRead_physWrite key pa d hwmem hwkeys, fun b hb hu => ?_⟩
  rw [State.UnderKey, ← h.keyed] at hu
  rw [w.physWrite_under key pa b d hwmem hb hu, h.byte]

end Sys2Proof.Machine

open Sys2Proof Sys2Proof.Machine

/-- Settles O26: an atomic is its checked lanes performed in order, by induction on them up to the turn's limit; one lane's
step is a write of its place and a change of its team. -/
theorem atomicResults : Obligations.AtomicResults := by
  unfold Obligations.AtomicResults
  intro i s o op n a hrule hm hr hrel hlanes lanes w
  have hw : ReadFrame s w := .atomNoted s o lanes
  have hexec : exec i s = .next (w.atomLanes o op n lanes) := by
    rw [exec_of_atomRule hrule, State.atomic_of_checks hm hr hrel fun l hl => (hlanes l hl).1]
  have hnear : ∀ p ∈ lanes, w.isRemote p.2.loc = false := by
    intro p hp
    obtain ⟨l, hl, rfl⟩ := List.mem_map.mp hp
    exact (State.isRemote_of_dev hw.dev _).trans (hlanes l hl).2
  have hall : s.issue.quota = none → exec i s = .next (lanes.foldl (fun x p => x.atomHere o op n p.1 p.2) w).finC := by
    intro hq
    rw [hexec, State.atomLanes_all lanes w hnear (by rw [hw.issue, hq])]
  refine ⟨fun q hq => ?_, hall, ?_⟩
  · rw [hexec, State.atomLanes_quota lanes w q hnear (by rw [hw.issue, hq])]
  · intro l hq hl loc old new x
    have hone : lanes = [(l, a l)] := by
      show (s.active (s.atomMask o)).map _ = _
      rw [hl]
      rfl
    have hstep : exec i s = .next (w.atomHere o op n l (a l)).finC := by
      rw [hall hq, hone]
      rfl
    obtain ⟨whole, me⟩ := hw.atomHere_finC o op n l (a l)
    refine ⟨_, hstep, whole, me, fun pa key hloc hmem hkeys => ?_⟩
    have hnew : new.length = n := s.length_atomBytes o op n l (a l)
    have hspec := hw.physWrite_spec hmem hkeys key pa new
    rw [hnew] at hspec
    rw [show s.homeLoc (a l).loc = .phys pa key from hloc] at whole
    rw [whole]
    exact hspec
end
